-- ==== Sys2Proof/Word.lean ====
section
/-!
DEFINITION. The widths of the AQ-7120 and the two containers its state is built from: a lane register (32
elements, R57) and a total table keyed by a natural number, in which an absent key reads as a default.
-/

namespace Sys2Proof

/-- A lane register element (R57) and an instruction word (R38). -/
abbrev Word := BitVec 32
/-- A uniform register (R57). -/
abbrev DWord := BitVec 64
/-- A byte of memory (R6). -/
abbrev Byte := BitVec 8
/-- One lane register: 32 elements, lane 0 first (R57). -/
abbrev LaneVec := Vector (BitVec 32) 32
/-- Number of a lane register, R39. -/
abbrev VReg := Fin 128
/-- Number of a uniform register, R39. -/
abbrev SReg := Fin 64
/-- Number of a predicate register, R39. -/
abbrev KReg := Fin 8

/-- Entry `i` of a vector; `d` where there is no such entry. -/
def vget {α : Type} {n : Nat} (d : α) (v : Vector α n) (i : Nat) : α :=
  v.toArray.toList.getD i d

/-- The vector with `a` as entry `i`. -/
def vset {α : Type} {n : Nat} (v : Vector α n) (i : Nat) (a : α) : Vector α n :=
  ⟨⟨v.toArray.toList.set i a⟩, by simp⟩

theorem vget_vset {α : Type} {n : Nat} (d : α) (v : Vector α n) (i j : Nat) (a : α) (h : i < n) :
    vget d (vset v i a) j = if i = j then a else vget d v j := by
  have hl : v.toArray.toList.length = n := by simp
  by_cases hij : i = j
  · subst hij
    simp [vget, vset, List.getD, h]
  · simp only [vget, vset, List.getD, if_neg hij]
    rw [List.getElem?_set_ne hij]

/-- A vector of 32 entries from a function of the lane number. -/
def lanesOf {α : Type} (f : Nat → α) : Vector α 32 :=
  ⟨⟨(List.range 32).map f⟩, by simp⟩

theorem vget_lanesOf {α : Type} (d : α) (f : Nat → α) (l : Nat) (h : l < 32) :
    vget d (lanesOf f) l = f l := by
  simp [vget, lanesOf, h]

/-- The element of lane `l`, 0 beyond lane 31. -/
abbrev LaneVec.get (v : LaneVec) (l : Nat) : Word := vget 0 v l

/-- The lane numbers in ascending order. -/
def allLanes : List Nat := List.range 32

/-- A table keyed by a natural number; a key that is not listed reads as the table's default. -/
abbrev Tab (α : Type) := List (Nat × α)

/-- The entry of key `k`, if one is listed. -/
def Tab.find? {α : Type} : Tab α → Nat → Option α
  | [], _ => none
  | (j, a) :: t, k => if j = k then some a else Tab.find? t k

/-- The entry of key `k`, `d` if none is listed. -/
def Tab.get {α : Type} (d : α) (t : Tab α) (k : Nat) : α := (Tab.find? t k).getD d

/-- Make `a` the entry of key `k`. -/
def Tab.set {α : Type} : Tab α → Nat → α → Tab α
  | [], k, a => [(k, a)]
  | (j, b) :: t, k, a => if j = k then (k, a) :: t else (j, b) :: Tab.set t k a

/-- Take key `k` off the table. -/
def Tab.del {α : Type} : Tab α → Nat → Tab α
  | [], _ => []
  | (j, b) :: t, k => if j = k then Tab.del t k else (j, b) :: Tab.del t k

theorem Tab.find?_set {α : Type} (t : Tab α) (k j : Nat) (a : α) :
    Tab.find? (Tab.set t k a) j = if k = j then some a else Tab.find? t j := by
  induction t with
  | nil => simp [Tab.set, Tab.find?]
  | cons p t ih =>
    obtain ⟨i, b⟩ := p
    by_cases h : i = k
    · subst h
      by_cases hj : i = j <;> simp [Tab.set, Tab.find?, hj]
    · by_cases hj : i = j
      · subst hj
        simp [Tab.set, Tab.find?, h, Ne.symm h]
      · simp [Tab.set, Tab.find?, h, hj, ih]

@[simp] theorem Tab.get_set_same {α : Type} (d : α) (t : Tab α) (k : Nat) (a : α) :
    Tab.get d (Tab.set t k a) k = a := by
  simp [Tab.get, Tab.find?_set]

theorem Tab.get_set_ne {α : Type} (d : α) (t : Tab α) (k j : Nat) (a : α) (h : k ≠ j) :
    Tab.get d (Tab.set t k a) j = Tab.get d t j := by
  simp [Tab.get, Tab.find?_set, h]

/-- The keys of a table, in table order. -/
def Tab.keys {α : Type} (t : Tab α) : List Nat := t.map (·.1)

end Sys2Proof
end

