-- ==== Sys2Proof/Config.lean ====
section
/-!
DEFINITION. The free values: what the manual calls undefined, or leaves open, as opaque constants without a
body. Nothing in Lean can evaluate one, so a statement about the model holds whatever they are.
-/

namespace Sys2Proof.Config

/-- A value that R58 calls undefined, 64 bits of it. The machine applies it to a counter that it then raises,
so two undefined values need not be equal. DESIGN CHOICE, log entry 5; safe. -/
opaque freeBits : Nat → BitVec 64

/-- Where the carry sets of an object lie in memory, given the address of a kernel descriptor: R35 gives the
offset of a kernel's first carry set in `.nd.carry` and not where `.nd.carry` lies. DESIGN CHOICE, log entry 22; safe. -/
opaque carryBase : Nat → Nat

/-- Where the side programs that a kernel descriptor names lie in memory, given the descriptor's address: R35
gives section offsets and not where the section lies. DESIGN CHOICE, log entry 22; safe. -/
opaque sideBase : Nat → Nat

/-- The stepping of the device in BAR0 ID [15:8], to which R388 gives no value. DESIGN CHOICE, log entry 55; safe. -/
opaque stepping : BitVec 8

/-- The SM3 measurements of R397: of the root-of-trust ROM, of a firmware image and its configuration, each by the image's number, and
of the lifecycle and debug level. R397 names what is measured and not the bytes. DESIGN CHOICE, log entry 55; safe. -/
opaque romDigest : BitVec 256
opaque imageDigest : Nat → BitVec 256
opaque configDigest : Nat → BitVec 256
opaque levelDigest : Nat → Nat → BitVec 256

/-- The identity chain in certificate slot 0, by lifecycle (R397, R400). DESIGN CHOICE, log entry 55; safe. -/
opaque identityChain : Nat → List (BitVec 8)

/-- The link whose state sensor number `id` of PLDM Type 2 shows, if it shows one, and what it reads for each state of that link; any
other sensor's reading, by sensor number and moment (R396). DESIGN CHOICE, log entry 55; safe. -/
opaque linkSensor : Nat → Option Nat
opaque linkReading : Nat → Nat → BitVec 64
opaque sensor : Nat → Nat → BitVec 64

/-- A byte of firmware memory at a moment, and the logs of the root of trust, which debug access reads (R401). DESIGN CHOICE, log
entry 55; safe. -/
opaque firmwareByte : Nat → Nat → BitVec 8
opaque rootLog : Nat → List (BitVec 8)

/-- Significand and exponent, 48 bits, in the image of a held term of significand `m` and exponent `e` that no 16-bit exponent with a
32-bit significand can equal, of which R212 says that there is none. DESIGN CHOICE, log entry 77; safe. -/
opaque looseTerm : Nat → Int → BitVec 48

end Sys2Proof.Config
end

