-- ==== Sys2Proof/Syntax.lean ====
section
/-!
DEFINITION. The syntax of the AQ-7120: the operand kinds, and `Instr`, one constructor for each row of the opcode
table. The rows with a word (R42, R48) are the instructions of Ndetur; the rows without one are the events of the
device, each whole and indivisible, whose arguments name what the event concerns and carry what comes from outside
the device (data a host, a peer or a side-band message brings).
-/

namespace Sys2Proof

/-- Condition codes of ICMP, NCMP, ICMPI and FCMP (R41). -/
inductive Cond where
  | eq | ne | lt | le | gt | ge | un | ord
  deriving DecidableEq, Repr

/-- Conditions of BS (R47, R123). -/
inductive BsCond where
  | eq | ne | lt | ge | ltn | gen
  deriving DecidableEq, Repr

/-- Modes of BK (R47, R124). -/
inductive BkMode where
  | any | all | none | each
  deriving DecidableEq, Repr

/-- Access sizes of the LM format (R40): 8, 16 and 32 bits, and four registers (16 bytes a lane). -/
inductive LSize where
  | b8 | b16 | b32 | x4
  deriving DecidableEq, Repr

/-- Access sizes of the UI memory format (R46). -/
inductive USize where
  | b8 | b16 | b32 | b64
  deriving DecidableEq, Repr

/-- Scopes of FENCE (R49, R134). -/
inductive Scope where
  | team | cluster | device | system
  deriving DecidableEq, Repr

/-- Scopes of UATOM (R49, R289). -/
inductive UScope where
  | cluster | device | system
  deriving DecidableEq, Repr

/-- The side sequencers a FORK starts or a REND joins (R136, R137). -/
inductive SideMask where
  | fore | hind | both
  deriving DecidableEq, Repr

/-- Atomic operations (R44, R49, R287, R289). -/
inductive AOp where
  | add | fadd | min | max | and | or | xor | xchg | cas
  deriving DecidableEq, Repr

/-- What a destination device answers to a REMOTE access (R259, R371, R392). -/
inductive RemoteAnswer where
  /-- the bytes of a load, or the old value of an atomic -/
  | data (bytes : List Byte)
  /-- a store, or a shadow line, merged at its home -/
  | done
  /-- answered "no translation" (R371) -/
  | noTranslation
  /-- answered as protection (R371) -/
  | protection
  /-- a response marked poisoned (R392) -/
  | poisoned
  /-- shadow bytes answered as protection (`prot`) or "no translation", with the exported address of the faulting line (R371) -/
  | refusedAt (prot : Bool) (xaddr : Nat)
  /-- a response that carries a superseded incarnation (R261, R375) -/
  | stale
  deriving DecidableEq, Repr

/-- An access that reaches this device from a peer (R254, R371, R376); `xaddr` is the exported address with the
offset in its page. -/
inductive RemoteAccess where
  | load (xaddr len : Nat)
  | store (xaddr : Nat) (data : List Byte)
  | atomic (op : AOp) (xaddr width : Nat) (operand newval : DWord)
  /-- bytes of a PUTS, which this device holds until they are merged or discarded together (R376) -/
  | publish (parts : List (Nat × List Byte))
  /-- bytes of a queue copy, held in the same way (R366) -/
  | copy (parts : List (Nat × List Byte))
  /-- merge the bytes that the peer sent under the tag `of`, of a queue copy or of a PUTS (R307, R366, R376) -/
  | merge (queue : Bool) (of : Nat)
  /-- discard them -/
  | discard (queue : Bool) (of : Nat)
  /-- a block that a GETR reads (R302) -/
  | fetch (xaddr len : Nat)
  /-- the kind 1 signal of a PUTS (R376) -/
  | signalWord (xaddr : Nat)
  /-- the kind 2 signal of a PUTS (R301) -/
  | signalBarrier (asid node rank : Nat) (hb : Fin 8)
  deriving DecidableEq, Repr

/-- What debug access does over its secured session (R401). -/
inductive DebugOp where
  | halt (asid node : Nat)
  | read (asid va len : Nat)
  | write (asid va : Nat) (data : List Byte)
  /-- firmware memory, by its own addresses -/
  | firmwareRead (addr len : Nat)
  | firmwareWrite (addr : Nat) (data : List Byte)
  /-- the logs of the root of trust -/
  | logs
  deriving DecidableEq, Repr

/-- One constructor per row of the opcode table, in the table's order. -/
inductive Instr where
  /-- IADD (R84). Adds two lane registers modulo 2^32 in each acting lane. -/
  | iadd (d a b : VReg) (y z : Bool) (q : Fin 4)
  /-- ISUB (R84). Subtracts vb from va modulo 2^32 in each acting lane. -/
  | isub (d a b : VReg) (y z : Bool) (q : Fin 4)
  /-- IMUL (R84). Writes the low 32 bits of the product in each acting lane. -/
  | imul (d a b : VReg) (y z : Bool) (q : Fin 4)
  /-- IMULH (R84). Writes the high 32 bits of the signed product in each acting lane. -/
  | imulh (d a b : VReg) (y z : Bool) (q : Fin 4)
  /-- NMULH_LANE (R84). Writes the high 32 bits of the natural product in each acting lane. -/
  | nmulhLane (d a b : VReg) (y z : Bool) (q : Fin 4)
  /-- IMAD (R85). Multiplies va by vb and adds vd, low 32 bits, in each acting lane. -/
  | imad (d a b : VReg) (y z : Bool) (q : Fin 4)
  /-- IMIN (R84). Writes the signed minimum in each acting lane. -/
  | imin (d a b : VReg) (y z : Bool) (q : Fin 4)
  /-- IMAX (R84). Writes the signed maximum in each acting lane. -/
  | imax (d a b : VReg) (y z : Bool) (q : Fin 4)
  /-- NMIN_LANE (R84). Writes the natural minimum in each acting lane. -/
  | nminLane (d a b : VReg) (y z : Bool) (q : Fin 4)
  /-- NMAX_LANE (R84). Writes the natural maximum in each acting lane. -/
  | nmaxLane (d a b : VReg) (y z : Bool) (q : Fin 4)
  /-- AND_LANE (R84). Writes the bitwise AND in each acting lane. -/
  | andLane (d a b : VReg) (y z : Bool) (q : Fin 4)
  /-- OR_LANE (R84). Writes the bitwise OR in each acting lane. -/
  | orLane (d a b : VReg) (y z : Bool) (q : Fin 4)
  /-- XOR_LANE (R84). Writes the bitwise XOR in each acting lane. -/
  | xorLane (d a b : VReg) (y z : Bool) (q : Fin 4)
  /-- ANDN_LANE (R84). Writes va AND NOT vb in each acting lane. -/
  | andnLane (d a b : VReg) (y z : Bool) (q : Fin 4)
  /-- SHL_LANE (R86). Shifts left by the whole element count, giving 0 for counts of 32 or more. -/
  | shlLane (d a b : VReg) (y z : Bool) (q : Fin 4)
  /-- SHR_LANE (R86). Shifts right logically by the whole element count. -/
  | shrLane (d a b : VReg) (y z : Bool) (q : Fin 4)
  /-- SAR_LANE (R86). Shifts right arithmetically by the whole element count. -/
  | sarLane (d a b : VReg) (y z : Bool) (q : Fin 4)
  /-- HADD2 (R95). Adds two packed FP16 halves per lane. -/
  | hadd2 (d a b : VReg) (y z : Bool) (q : Fin 4)
  /-- HSUB2 (R95). Subtracts two packed FP16 halves per lane. -/
  | hsub2 (d a b : VReg) (y z : Bool) (q : Fin 4)
  /-- HMIN2 (R95). Takes the minimum of each packed FP16 half. -/
  | hmin2 (d a b : VReg) (y z : Bool) (q : Fin 4)
  /-- HMAX2 (R95). Takes the maximum of each packed FP16 half. -/
  | hmax2 (d a b : VReg) (y z : Bool) (q : Fin 4)
  /-- HCLT2 (R91). Writes the ordered-less comparison bits of both FP16 halves. -/
  | hclt2 (d a b : VReg) (y z : Bool) (q : Fin 4)
  /-- ICMP (R89). Compares signed elements and writes the result into predicate kd. -/
  | icmp (p : KReg) (c : Cond) (a b : VReg) (y z : Bool) (q : Fin 4)
  /-- NCMP (R89). Compares natural elements and writes the result into predicate kd. -/
  | ncmp (p : KReg) (c : Cond) (a b : VReg) (y z : Bool) (q : Fin 4)
  /-- FCMP (R90). Compares FP32 elements and writes the result into predicate kd. -/
  | fcmp (p : KReg) (c : Cond) (a b : VReg) (y z : Bool) (q : Fin 4)
  /-- SEL (R92). Selects va or vb per issuing lane under selector kc. -/
  | sel (d a b : VReg) (y z : Bool) (k : Fin 4)
  /-- FADD (R93). Adds FP32 elements with one rounding. -/
  | fadd (d a b : VReg) (y z : Bool) (q : Fin 4)
  /-- FSUB (R93). Subtracts FP32 elements with one rounding. -/
  | fsub (d a b : VReg) (y z : Bool) (q : Fin 4)
  /-- FMUL (R93). Multiplies FP32 elements with one rounding. -/
  | fmul (d a b : VReg) (y z : Bool) (q : Fin 4)
  /-- FFMA (R93). Computes va times vb plus vd with one FP32 rounding. -/
  | ffma (d a b : VReg) (y z : Bool) (q : Fin 4)
  /-- FMIN (R94). Delivers the smaller FP32 operand. -/
  | fmin (d a b : VReg) (y z : Bool) (q : Fin 4)
  /-- FMAX (R94). Delivers the larger FP32 operand. -/
  | fmax (d a b : VReg) (y z : Bool) (q : Fin 4)
  /-- HFMA2 (R96). Fused multiply-add on two FP16 halves per lane. -/
  | hfma2 (d a b : VReg) (y z : Bool) (q : Fin 4)
  /-- BFMA2 (R96). Fused multiply-add on two BF16 halves per lane. -/
  | bfma2 (d a b : VReg) (y z : Bool) (q : Fin 4)
  /-- SHFL (R98). Reads va from the lane named by vb in each acting lane. -/
  | shfl (d a b : VReg) (y z : Bool) (q : Fin 4)
  /-- SHFLI_INDEX (R99). Reads va from fixed lane k. -/
  | shfliIndex (d a : VReg) (k : BitVec 5) (y : Bool) (q : Fin 4)
  /-- SHFLI_UP (R99). Reads va from lane l minus k, or l itself. -/
  | shfliUp (d a : VReg) (k : BitVec 5) (y : Bool) (q : Fin 4)
  /-- SHFLI_DOWN (R99). Reads va from lane l plus k, or l itself. -/
  | shfliDown (d a : VReg) (k : BitVec 5) (y : Bool) (q : Fin 4)
  /-- SHFLI_XOR (R99). Reads va from lane l XOR k. -/
  | shfliXor (d a : VReg) (k : BitVec 5) (y : Bool) (q : Fin 4)
  /-- LSCAN_ADD_I32 (R100). Inclusive integer prefix sum over acting lanes. -/
  | lscanAddI32 (d a : VReg) (y : Bool) (q : Fin 4)
  /-- LSCAN_ADD_F32 (R100). Inclusive FP32 prefix sum in ascending lane order. -/
  | lscanAddF32 (d a : VReg) (y : Bool) (q : Fin 4)
  /-- LSCAN_MAX_I32 (R100). Inclusive signed prefix maximum over acting lanes. -/
  | lscanMaxI32 (d a : VReg) (y : Bool) (q : Fin 4)
  /-- LSCAN_MIN_I32 (R100). Inclusive signed prefix minimum over acting lanes. -/
  | lscanMinI32 (d a : VReg) (y : Bool) (q : Fin 4)
  /-- IADDI (R87). Adds a sign-extended 8-bit immediate. -/
  | iaddi (d a : VReg) (i : BitVec 8) (y : Bool) (q : Fin 4)
  /-- ANDI_LANE (R87). ANDs with a sign-extended 8-bit immediate. -/
  | andiLane (d a : VReg) (i : BitVec 8) (y : Bool) (q : Fin 4)
  /-- ORI_LANE (R87). ORs with a sign-extended 8-bit immediate. -/
  | oriLane (d a : VReg) (i : BitVec 8) (y : Bool) (q : Fin 4)
  /-- XORI_LANE (R87). XORs with a sign-extended 8-bit immediate. -/
  | xoriLane (d a : VReg) (i : BitVec 8) (y : Bool) (q : Fin 4)
  /-- SHLI_LANE (R87). Shifts left by an immediate count. -/
  | shliLane (d a : VReg) (n : BitVec 5) (y : Bool) (q : Fin 4)
  /-- SHRI_LANE (R87). Shifts right logically by an immediate count. -/
  | shriLane (d a : VReg) (n : BitVec 5) (y : Bool) (q : Fin 4)
  /-- SARI_LANE (R87). Shifts right arithmetically by an immediate count. -/
  | sariLane (d a : VReg) (n : BitVec 5) (y : Bool) (q : Fin 4)
  /-- ICMPI (R89). Compares signed elements with an immediate into predicate kd. -/
  | icmpi (p : KReg) (c : Cond) (a : VReg) (i : BitVec 8) (y : Bool) (q : Fin 4)
  /-- IADDS (R88). Adds the low 32 bits of a uniform register. -/
  | iadds (d a : VReg) (s : SReg) (y z : Bool) (q : Fin 4)
  /-- IMULS (R88). Multiplies by the low 32 bits of a uniform register. -/
  | imuls (d a : VReg) (s : SReg) (y z : Bool) (q : Fin 4)
  /-- FFMAS (R88). FP32 fused multiply-add with a uniform multiplier. -/
  | ffmas (d a : VReg) (s : SReg) (y z : Bool) (q : Fin 4)
  /-- FMULS (R88). FP32 multiply by a uniform operand. -/
  | fmuls (d a : VReg) (s : SReg) (y z : Bool) (q : Fin 4)
  /-- BCAST (R101). Writes a uniform value into every acting lane. -/
  | bcast (d : VReg) (s : SReg) (z : Bool) (q : Fin 4)
  /-- LDG (R284). Per-lane load from global space. -/
  | ldg (d a : VReg) (s : SReg) (w : LSize) (y : Bool) (q : Fin 4)
  /-- STG (R284). Per-lane store to global space as unpublished bytes. -/
  | stg (d a : VReg) (s : SReg) (w : LSize) (y : Bool) (q : Fin 4)
  /-- LDL (R284). Per-lane load from local store. -/
  | ldl (d a : VReg) (s : SReg) (w : LSize) (y : Bool) (q : Fin 4)
  /-- STL (R284). Per-lane store to local store. -/
  | stl (d a : VReg) (s : SReg) (w : LSize) (y : Bool) (q : Fin 4)
  /-- LDW (R285). Per-lane load through the cluster window. -/
  | ldw (d a : VReg) (s : SReg) (w : LSize) (y : Bool) (q : Fin 4)
  /-- STW (R285). Per-lane store through the cluster window. -/
  | stw (d a : VReg) (s : SReg) (w : LSize) (y : Bool) (q : Fin 4)
  /-- LDK (R285). Per-lane load from parameter space. -/
  | ldk (d a : VReg) (s : SReg) (w : LSize) (y : Bool) (q : Fin 4)
  /-- LDGP (R282). Probe load that returns 0 and sets kp for lanes whose page is absent. -/
  | ldgp (d a : VReg) (s : SReg) (p : KReg) (q : Fin 4)
  /-- LDLT (R216). Local-store load with the aligned 4 KiB tile read transposed. -/
  | ldlt (d a : VReg) (s : SReg) (w : LSize) (y : Bool) (q : Fin 4)
  /-- ATOMG_ADD_I32 (R287). Global home atomic integer add returning the old value. -/
  | atomgAddI32 (d a : VReg) (s : SReg) (q : Fin 4)
  /-- ATOMG_ADD_F32 (R287). Global home atomic FP32 add returning the old value. -/
  | atomgAddF32 (d a : VReg) (s : SReg) (q : Fin 4)
  /-- ATOMG_MIN_I32 (R287). Global home atomic signed minimum. -/
  | atomgMinI32 (d a : VReg) (s : SReg) (q : Fin 4)
  /-- ATOMG_MAX_I32 (R287). Global home atomic signed maximum. -/
  | atomgMaxI32 (d a : VReg) (s : SReg) (q : Fin 4)
  /-- ATOMG_OR (R287). Global home atomic OR. -/
  | atomgOr (d a : VReg) (s : SReg) (q : Fin 4)
  /-- ATOMG_XCHG (R287). Global home atomic exchange. -/
  | atomgXchg (d a : VReg) (s : SReg) (q : Fin 4)
  /-- ATOMG_CAS (R287). Global home atomic compare-and-swap using vd and vd+1. -/
  | atomgCas (d a : VReg) (s : SReg) (q : Fin 4)
  /-- ATOMG_DADD_F32 (R219). Sends a deterministic FP32 add that the home holds until the grid boundary. -/
  | atomgDaddF32 (d a : VReg) (s : SReg) (q : Fin 4)
  /-- ATOML_ADD_I32 (R287). Local-store atomic integer add. -/
  | atomlAddI32 (d a : VReg) (s : SReg) (q : Fin 4)
  /-- ATOML_ADD_F32 (R287). Local-store atomic FP32 add. -/
  | atomlAddF32 (d a : VReg) (s : SReg) (q : Fin 4)
  /-- ATOML_MIN_I32 (R287). Local-store atomic signed minimum. -/
  | atomlMinI32 (d a : VReg) (s : SReg) (q : Fin 4)
  /-- ATOML_MAX_I32 (R287). Local-store atomic signed maximum. -/
  | atomlMaxI32 (d a : VReg) (s : SReg) (q : Fin 4)
  /-- ATOML_AND (R287). Local-store atomic AND. -/
  | atomlAnd (d a : VReg) (s : SReg) (q : Fin 4)
  /-- ATOML_OR (R287). Local-store atomic OR. -/
  | atomlOr (d a : VReg) (s : SReg) (q : Fin 4)
  /-- ATOML_XCHG (R287). Local-store atomic exchange. -/
  | atomlXchg (d a : VReg) (s : SReg) (q : Fin 4)
  /-- ATOML_CAS (R287). Local-store atomic compare-and-swap. -/
  | atomlCas (d a : VReg) (s : SReg) (q : Fin 4)
  /-- ATOMW_ADD_I32 (R287). Cluster-window atomic integer add. -/
  | atomwAddI32 (d a : VReg) (s : SReg) (q : Fin 4)
  /-- ATOMW_ADD_F32 (R287). Cluster-window atomic FP32 add. -/
  | atomwAddF32 (d a : VReg) (s : SReg) (q : Fin 4)
  /-- ATOMW_MIN_I32 (R287). Cluster-window atomic signed minimum. -/
  | atomwMinI32 (d a : VReg) (s : SReg) (q : Fin 4)
  /-- ATOMW_MAX_I32 (R287). Cluster-window atomic signed maximum. -/
  | atomwMaxI32 (d a : VReg) (s : SReg) (q : Fin 4)
  /-- ATOMW_AND (R287). Cluster-window atomic AND. -/
  | atomwAnd (d a : VReg) (s : SReg) (q : Fin 4)
  /-- ATOMW_OR (R287). Cluster-window atomic OR. -/
  | atomwOr (d a : VReg) (s : SReg) (q : Fin 4)
  /-- ATOMW_XCHG (R287). Cluster-window atomic exchange. -/
  | atomwXchg (d a : VReg) (s : SReg) (q : Fin 4)
  /-- ATOMW_CAS (R287). Cluster-window atomic compare-and-swap. -/
  | atomwCas (d a : VReg) (s : SReg) (q : Fin 4)
  /-- MOV (R102). Copies va. -/
  | mov (d a : VReg) (y : Bool) (q : Fin 4)
  /-- NOT (R102). Writes the bitwise complement. -/
  | not (d a : VReg) (y : Bool) (q : Fin 4)
  /-- NEG (R102). Writes 0 minus va modulo 2^32. -/
  | neg (d a : VReg) (y : Bool) (q : Fin 4)
  /-- ABS (R102). Writes the signed absolute value. -/
  | abs (d a : VReg) (y : Bool) (q : Fin 4)
  /-- CLZ_LANE (R102). Counts leading zero bits of a 32-bit element. -/
  | clzLane (d a : VReg) (y : Bool) (q : Fin 4)
  /-- POPC_LANE (R102). Counts one bits of a 32-bit element. -/
  | popcLane (d a : VReg) (y : Bool) (q : Fin 4)
  /-- BREV (R102). Reverses the bits of the element. -/
  | brev (d a : VReg) (y : Bool) (q : Fin 4)
  /-- SEXT8 (R102). Sign-extends the low byte. -/
  | sext8 (d a : VReg) (y : Bool) (q : Fin 4)
  /-- SEXT16 (R102). Sign-extends the low half. -/
  | sext16 (d a : VReg) (y : Bool) (q : Fin 4)
  /-- FNEG (R102). Flips bit 31. -/
  | fneg (d a : VReg) (y : Bool) (q : Fin 4)
  /-- FABS (R102). Clears bit 31. -/
  | fabs (d a : VReg) (y : Bool) (q : Fin 4)
  /-- FRCP (R103). Correctly rounded FP32 reciprocal. -/
  | frcp (d a : VReg) (y : Bool) (q : Fin 4)
  /-- FRSQ (R103). Correctly rounded FP32 reciprocal square root. -/
  | frsq (d a : VReg) (y : Bool) (q : Fin 4)
  /-- FEXP2 (R103). Correctly rounded FP32 power of two. -/
  | fexp2 (d a : VReg) (y : Bool) (q : Fin 4)
  /-- FLOG2 (R103). Correctly rounded FP32 base-2 logarithm. -/
  | flog2 (d a : VReg) (y : Bool) (q : Fin 4)
  /-- FSIN (R103). Correctly rounded sin of pi times x. -/
  | fsin (d a : VReg) (y : Bool) (q : Fin 4)
  /-- FCOS (R103). Correctly rounded cos of pi times x. -/
  | fcos (d a : VReg) (y : Bool) (q : Fin 4)
  /-- FRND (R104). Rounds FP32 to an integral value in direction rm. -/
  | frnd (d a : VReg) (y : Bool) (q : Fin 4)
  /-- CVTFI (R104). Converts FP32 to signed 32-bit in direction rm. -/
  | cvtfi (d a : VReg) (y : Bool) (q : Fin 4)
  /-- CVTFIZ (R104). Converts FP32 to signed 32-bit toward zero. -/
  | cvtfiz (d a : VReg) (y : Bool) (q : Fin 4)
  /-- CVTIF (R104). Converts signed 32-bit to FP32. -/
  | cvtif (d a : VReg) (y : Bool) (q : Fin 4)
  /-- CVTNF (R104). Converts natural 32-bit to FP32. -/
  | cvtnf (d a : VReg) (y : Bool) (q : Fin 4)
  /-- PKH (R105). Rounds FP32 to FP16 and shifts it into vd from the top. -/
  | pkh (d a : VReg) (y : Bool) (q : Fin 4)
  /-- PKBF (R105). Rounds FP32 to BF16 and shifts it into vd from the top. -/
  | pkbf (d a : VReg) (y : Bool) (q : Fin 4)
  /-- UPKHL (R106). Widens the low FP16 half to FP32. -/
  | upkhl (d a : VReg) (y : Bool) (q : Fin 4)
  /-- UPKHH (R106). Widens the high FP16 half to FP32. -/
  | upkhh (d a : VReg) (y : Bool) (q : Fin 4)
  /-- PK8E4 (R107). Converts FP32 to E4M3 and shifts it into vd from the top. -/
  | pk8e4 (d a : VReg) (y : Bool) (q : Fin 4)
  /-- PK8E5 (R107). Converts FP32 to E5M2 and shifts it into vd from the top. -/
  | pk8e5 (d a : VReg) (y : Bool) (q : Fin 4)
  /-- UPK8E4 (R108). Widens an E4M3 byte to FP32. -/
  | upk8e4 (d a : VReg) (y : Bool) (q : Fin 4)
  /-- UPK8E5 (R108). Widens an E5M2 byte to FP32. -/
  | upk8e5 (d a : VReg) (y : Bool) (q : Fin 4)
  /-- UPKF4 (R109). Widens an E2M1 nibble to FP32. -/
  | upkf4 (d a : VReg) (y : Bool) (q : Fin 4)
  /-- LANEID (R102). Writes each lane's own number. -/
  | laneid (d : VReg) (q : Fin 4)
  /-- ADD (R112). 64-bit uniform add. -/
  | add (d a b : SReg) (y z : Bool)
  /-- SUB (R112). 64-bit uniform subtract. -/
  | sub (d a b : SReg) (y z : Bool)
  /-- MUL (R112). Low 64 bits of the uniform product. -/
  | mul (d a b : SReg) (y z : Bool)
  /-- MULH (R112). High 64 bits of the signed uniform product. -/
  | mulh (d a b : SReg) (y z : Bool)
  /-- NMULH_UNIFORM (R112). High 64 bits of the natural uniform product. -/
  | nmulhUniform (d a b : SReg) (y z : Bool)
  /-- AND_UNIFORM (R112). 64-bit uniform AND. -/
  | andUniform (d a b : SReg) (y z : Bool)
  /-- OR_UNIFORM (R112). 64-bit uniform OR. -/
  | orUniform (d a b : SReg) (y z : Bool)
  /-- XOR_UNIFORM (R112). 64-bit uniform XOR. -/
  | xorUniform (d a b : SReg) (y z : Bool)
  /-- ANDN_UNIFORM (R112). 64-bit uniform sa AND NOT sb. -/
  | andnUniform (d a b : SReg) (y z : Bool)
  /-- SHL_UNIFORM (R112). 64-bit uniform left shift. -/
  | shlUniform (d a b : SReg) (y z : Bool)
  /-- SHR_UNIFORM (R112). 64-bit uniform logical right shift. -/
  | shrUniform (d a b : SReg) (y z : Bool)
  /-- SAR_UNIFORM (R112). 64-bit uniform arithmetic right shift. -/
  | sarUniform (d a b : SReg) (y z : Bool)
  /-- MIN (R112). Signed 64-bit minimum. -/
  | min (d a b : SReg) (y z : Bool)
  /-- MAX (R112). Signed 64-bit maximum. -/
  | max (d a b : SReg) (y z : Bool)
  /-- NMIN_UNIFORM (R112). Natural 64-bit minimum. -/
  | nminUniform (d a b : SReg) (y z : Bool)
  /-- NMAX_UNIFORM (R112). Natural 64-bit maximum. -/
  | nmaxUniform (d a b : SReg) (y z : Bool)
  /-- SEQ (R112). Sets 1 if the operands are equal. -/
  | seq (d a b : SReg) (y z : Bool)
  /-- SNE (R112). Sets 1 if the operands differ. -/
  | sne (d a b : SReg) (y z : Bool)
  /-- SLT (R112). Sets 1 if sa is less than sb, signed. -/
  | slt (d a b : SReg) (y z : Bool)
  /-- SLTN (R112). Sets 1 if sa is less than sb, natural. -/
  | sltn (d a b : SReg) (y z : Bool)
  /-- SDIV (R113). Signed 64-bit division truncating toward zero. -/
  | sdiv (d a b : SReg) (y z : Bool)
  /-- NDIV (R113). Natural 64-bit division. -/
  | ndiv (d a b : SReg) (y z : Bool)
  /-- SREM (R113). Signed 64-bit remainder. -/
  | srem (d a b : SReg) (y z : Bool)
  /-- NREM (R113). Natural 64-bit remainder. -/
  | nrem (d a b : SReg) (y z : Bool)
  /-- POPC_UNIFORM (R112). Counts one bits of a 64-bit uniform register. -/
  | popcUniform (d a : SReg) (y : Bool)
  /-- CLZ_UNIFORM (R112). Counts leading zeros of a 64-bit uniform register. -/
  | clzUniform (d a : SReg) (y : Bool)
  /-- ADDI (R114). Adds a sign-extended 13-bit immediate. -/
  | addi (d a : SReg) (i : BitVec 13)
  /-- ANDI_UNIFORM (R114). ANDs with a sign-extended 13-bit immediate. -/
  | andiUniform (d a : SReg) (i : BitVec 13)
  /-- ORI_UNIFORM (R114). ORs with a sign-extended 13-bit immediate. -/
  | oriUniform (d a : SReg) (i : BitVec 13)
  /-- XORI_UNIFORM (R114). XORs with a sign-extended 13-bit immediate. -/
  | xoriUniform (d a : SReg) (i : BitVec 13)
  /-- SHLI_UNIFORM (R114). 64-bit left shift by an immediate. -/
  | shliUniform (d a : SReg) (n : BitVec 6)
  /-- SHRI_UNIFORM (R114). 64-bit logical right shift by an immediate. -/
  | shriUniform (d a : SReg) (n : BitVec 6)
  /-- SARI_UNIFORM (R114). 64-bit arithmetic right shift by an immediate. -/
  | sariUniform (d a : SReg) (n : BitVec 6)
  /-- SLTI (R114). Sets 1 if sa is below a signed immediate. -/
  | slti (d a : SReg) (i : BitVec 13)
  /-- MOVW (R115). Places a 16-bit immediate in one quarter of sd, clearing or keeping the others. -/
  | movw (d : SReg) (q : Fin 4) (i : BitVec 16) (k : Bool)
  /-- LDGS (R116). Uniform load from global space. -/
  | ldgs (d a : SReg) (w : USize) (x : BitVec 11)
  /-- STGS (R116). Uniform store to global space. -/
  | stgs (d a : SReg) (w : USize) (x : BitVec 11)
  /-- LDLS (R116). Uniform load from local store. -/
  | ldls (d a : SReg) (w : USize) (x : BitVec 11)
  /-- STLS (R116). Uniform store to local store. -/
  | stls (d a : SReg) (w : USize) (x : BitVec 11)
  /-- LDKS (R116). Uniform load from parameter space. -/
  | ldks (d a : SReg) (w : USize) (x : BitVec 11)
  /-- VGET (R117). Copies one lane of a lane register into a uniform register. -/
  | vget (d : SReg) (a : VReg) (l : Fin 32) (y : Bool)
  /-- VPUT (R117). Writes a uniform value into one lane of a lane register. -/
  | vput (d : SReg) (a : VReg) (l : Fin 32)
  /-- BALLOT (R118). Gathers one bit from each issuing lane into a uniform register. -/
  | ballot (d : SReg) (a : VReg) (l : Fin 32) (y : Bool)
  /-- REDL_ADD_I32 (R119). Integer sum over the issuing lanes. -/
  | redlAddI32 (d : SReg) (a : VReg) (y : Bool)
  /-- REDL_ADD_F32 (R119). FP32 sum over the issuing lanes in lane order. -/
  | redlAddF32 (d : SReg) (a : VReg) (y : Bool)
  /-- REDL_MIN_I32 (R119). Signed minimum over the issuing lanes. -/
  | redlMinI32 (d : SReg) (a : VReg) (y : Bool)
  /-- REDL_MAX_I32 (R119). Signed maximum over the issuing lanes. -/
  | redlMaxI32 (d : SReg) (a : VReg) (y : Bool)
  /-- REDL_AND (R119). AND over the issuing lanes. -/
  | redlAnd (d : SReg) (a : VReg) (y : Bool)
  /-- REDL_OR (R119). OR over the issuing lanes. -/
  | redlOr (d : SReg) (a : VReg) (y : Bool)
  /-- KMOV_FROM_LANE (R120). Sets predicate bits from bit 0 of each issuing lane. -/
  | kmovFromLane (a : VReg) (p : KReg) (y : Bool)
  /-- KMOV_TO_LANE (R120). Writes each issuing lane's predicate bit into a lane register. -/
  | kmovToLane (a : VReg) (p : KReg)
  /-- KAND (R121). ANDs two predicates. -/
  | kand (d a b : KReg)
  /-- KOR (R121). ORs two predicates. -/
  | kor (d a b : KReg)
  /-- KXOR (R121). XORs two predicates. -/
  | kxor (d a b : KReg)
  /-- KANDN (R121). Writes ka AND NOT kb. -/
  | kandn (d a b : KReg)
  /-- KNOT (R121). Complements a predicate. -/
  | knot (d a : KReg)
  /-- KFROMS (R121). Loads a predicate from a uniform register's low 32 bits. -/
  | kfroms (d : KReg) (a : SReg)
  /-- KTOS (R121). Copies a predicate into a uniform register. -/
  | ktos (d : SReg) (a : KReg)
  /-- B (R122). Branches every issuing lane, checking uniformity when uni is set. -/
  | b (u : Bool) (x : BitVec 20)
  /-- BS (R123). Branches when a uniform register meets a condition against zero. -/
  | bs (u : Bool) (c : BsCond) (a : SReg) (x : BitVec 15)
  /-- BK (R124). Branches on the bits of a predicate in any, all, none or each mode. -/
  | bk (u : Bool) (m : BkMode) (k : KReg) (x : BitVec 19)
  /-- CALL (R122). Sets sl to the return address and branches. -/
  | call (u : Bool) (x : BitVec 20)
  /-- JR (R125). Jumps to the address in a uniform register. -/
  | jr (a : SReg) (y : Bool)
  /-- JR_CALL (R125). Writes a link and jumps to the address in a uniform register. -/
  | jrCall (d a : SReg) (y : Bool)
  /-- JR_RETURN (R125). Returns to the address in a uniform register, sl by default. -/
  | jrReturn (a : SReg) (y : Bool)
  /-- PHASE (R127). Arrives at the team's phase boundary with a carry set. -/
  | phase (e : Bool) (c : BitVec 8)
  /-- CBAR (R129). Arrives at the cluster barrier with a carry set. -/
  | cbar (e : Bool) (c : BitVec 8)
  /-- ARRIVE (R131). Adds one arrival to a hardware barrier. -/
  | arrive (h : Fin 8)
  /-- WAITB (R132). Waits for a barrier count of at least 1 and lowers it. -/
  | waitb (h : Fin 8)
  /-- SPIN (R135). Publishes, renews the named line at its home and advances CT. -/
  | spin (a : SReg) (x : BitVec 11)
  /-- FENCE_ACQUIRE (R134). Acquire fence at the given scope. -/
  | fenceAcquire (s : Scope)
  /-- FENCE_RELEASE (R134). Release fence, a visibility point at the given scope. -/
  | fenceRelease (s : Scope)
  /-- FENCE_FULL (R134). Full fence, release and acquire at the given scope. -/
  | fenceFull (s : Scope)
  /-- FORK (R136). Starts the named side sequencers on their side programs. -/
  | fork (a : SReg) (m : SideMask)
  /-- REND (R137). Waits for the named side sequencers to halt and releases them. -/
  | rend (m : SideMask)
  /-- ELECT (R139). Writes the lowest issuing lane number. -/
  | elect (d : SReg)
  /-- TRAP (R140). Raises a software trap with the given code. -/
  | trap (c : BitVec 13)
  /-- TRET (R336). Resumes the trapped team from its edited trap record. -/
  | tret
  /-- SYSC (R142). Halts the team and hands a service call to the supervisor. -/
  | sysc (n : BitVec 13)
  /-- MFC (R143). Reads a control register. -/
  | mfc (d : SReg) (x : BitVec 12)
  /-- MTC (R143). Writes a control register that has no row of its own. -/
  | mtc (d : SReg) (x : BitVec 12)
  /-- HALT (R61). Removes the issuing lanes from the active mask. -/
  | halt
  /-- NOP (R139). Does nothing. -/
  | nop
  /-- RNXT (R145). Steps the group's generator and returns 32 bits. -/
  | rnxt (d : SReg)
  /-- RJMP (R146). Advances the generator by n steps. -/
  | rjmp (a : SReg)
  /-- RDRAW (R147). Returns a draw of a granted seed stream at an offset. -/
  | rdraw (d a b : SReg)
  /-- PGREQ (R148). Asks the page service to make a global page resident. -/
  | pgreq (a : SReg)
  /-- LAUNCH (R149). Publishes and posts a request to fire a waiting node. -/
  | launch (a : SReg)
  /-- NTOK (R149). Publishes and posts a request to lower a node's token count. -/
  | ntok (a : SReg)
  /-- MCFG (R198). Installs a pleat word and configuration word on a tile and closes it. -/
  | mcfg (a b : SReg) (c : Fin 4)
  /-- MMA (R201). Folds one K-step of FP8, INT8 or 16-bit products into a tile. -/
  | mma (c : Fin 4) (a b : VReg) (x : SReg) (p l f : Bool)
  /-- MMAX (R201). Folds one K-step of narrow-class products into a tile. -/
  | mmax (c : Fin 4) (a b : VReg) (x : SReg) (p l f : Bool)
  /-- MMZ (R204). Closes and clears a tile, keeping its words. -/
  | mmz (c : Fin 4) (p : Bool)
  /-- MDRAIN (R206). Drains a tile through the epilogue chain into lane registers. -/
  | mdrain (c : Fin 4) (a b : VReg) (p : Bool)
  /-- MSAVE (R213). Writes a tile image to local store. -/
  | msave (a : SReg) (c : Fin 4)
  /-- MLOAD (R214). Loads and installs a tile image from local store. -/
  | mload (a : SReg) (c : Fin 4)
  /-- MSMX (R210). Turns a score block into probabilities and rescales the output tile. -/
  | msmx (c : Fin 4) (a : VReg) (p : Bool)
  /-- MLINT (R205). Reads a tile's four lint counters into two uniform registers. -/
  | mlint (d : SReg) (c : Fin 4)
  /-- MTBL (R209). Loads the array's activation table from local store. -/
  | mtbl (a : SReg)
  /-- COPY (R299). Hands a kind 01 copy packet from global memory to the core copy engine. -/
  | copy (d a : SReg)
  /-- COPYW (R299). Hands a kind 01 copy packet read through the cluster window to the copy engine. -/
  | copyw (d a : SReg)
  /-- MCAST (R152). Hands a kind 02 multicast packet to the copy engine. -/
  | mcast (d a : SReg)
  /-- GATH (R300). Hands an indexed gather packet to the copy engine. -/
  | gath (d a b : SReg)
  /-- SCAT (R300). Hands an indexed scatter packet to the copy engine. -/
  | scat (d a b : SReg)
  /-- PUBL (R303). Publishes a deferred shadow named by its handle. -/
  | publ (d a : SReg)
  /-- QPKT (R306). Claims slots in a queue, immediately or deterministically. -/
  | qpkt (d a b : SReg)
  /-- PUTS (R301). Starts a signalled put of data followed by a signal. -/
  | puts (d a b : SReg)
  /-- GETR (R302). Starts a get that reads a possibly remote source. -/
  | getr (d a : SReg)
  /-- COLL (R378). Hands a kind 07 packet to the collective engine. -/
  | coll (d a : SReg)
  /-- LBSET (R304). Sets the team's multicast landing base. -/
  | lbset (d a : SReg)
  /-- LREN (R305). Exchanges the mappings of two ranges of window pages. -/
  | lren (d a b : SReg)
  /-- UATOM_ADD (R289). Uniform 64-bit home atomic add. -/
  | uatomAdd (d a b : SReg) (y z : Bool) (e : UScope)
  /-- UATOM_MIN (R289). Uniform 64-bit home atomic signed minimum. -/
  | uatomMin (d a b : SReg) (y z : Bool) (e : UScope)
  /-- UATOM_MAX (R289). Uniform 64-bit home atomic signed maximum. -/
  | uatomMax (d a b : SReg) (y z : Bool) (e : UScope)
  /-- UATOM_AND (R289). Uniform 64-bit home atomic AND. -/
  | uatomAnd (d a b : SReg) (y z : Bool) (e : UScope)
  /-- UATOM_OR (R289). Uniform 64-bit home atomic OR. -/
  | uatomOr (d a b : SReg) (y z : Bool) (e : UScope)
  /-- UATOM_XOR (R289). Uniform 64-bit home atomic XOR. -/
  | uatomXor (d a b : SReg) (y z : Bool) (e : UScope)
  /-- UATOM_XCHG (R289). Uniform 64-bit home atomic exchange. -/
  | uatomXchg (d a b : SReg) (y z : Bool) (e : UScope)
  /-- UATOM_CAS (R289). Uniform 64-bit home atomic compare-and-swap. -/
  | uatomCas (d a b : SReg) (y z : Bool) (e : UScope)
  /-- PHASE_BOUNDARY_COMPLETE (R235). After publication replies arrive, the team's boundary joins CT and clears stable marks. -/
  | phaseBoundaryComplete (t : Nat)
  /-- CBAR_BOUNDARY_COMPLETE (R236). After every team of the cluster has published, the cluster barrier joins CT across cores. -/
  | cbarBoundaryComplete (cl : Nat)
  /-- TEAM_END (R138). Once the last group, sequencers and engine commands are done, the team publishes and ends. -/
  | teamEnd (t : Nat)
  /-- BARRIER_ARRIVAL_HELD_COUNTED (R131). A held arrival is counted once a WAITB lowers a saturated barrier count. -/
  | barrierArrivalHeldCounted (t : Nat) (hb : Fin 8)
  /-- HOME_RENEWAL (R226). The home extends a line's read lease and returns a copy with its times. -/
  | homeRenewal (n : Nat) (victim : Option Nat) (crcOk : Bool)
  /-- RENEWAL_REPLY (R226). The core installs a renewed copy and jumps CT to its wts if higher. -/
  | renewalReply (n : Nat) (victim : Option Nat)
  /-- HOME_PUBLICATION (R231). The home merges a published line by mask and assigns a new wts. -/
  | homePublication (n : Nat) (crcOk : Bool)
  /-- PUBLICATION_REPLY (R231). The publishing core raises CT and replaces its copy with the published line. -/
  | publicationReply (n : Nat)
  /-- HOME_ATOMIC (R239). The home performs an atomic on the merged line and assigns a wts. -/
  | homeAtomic (n : Nat) (crcOk : Bool)
  /-- ATOMIC_REPLY (R239). The issuing core takes the old value, raises CT and clears stable marks. -/
  | atomicReply (n : Nat)
  /-- UNCACHED_ACCESS_AT_HOME (R234). An UNCACHED load or store is performed at the home on arrival. -/
  | uncachedAccessAtHome (n : Nat) (crcOk : Bool)
  /-- FORCED_VISIBILITY_POINT (R230). A full view overflow area forces the team to publish and clear its view. -/
  | forcedVisibilityPoint (t : Nat)
  /-- DADD_UPDATE_ARRIVAL (R221). The home holds an arriving deterministic update in the line's sorted buffer. -/
  | daddUpdateArrival (n : Nat)
  /-- GRID_BOUNDARY (R222). When every team has completed boundary n, held dadd updates and deterministic claims are applied. -/
  | gridBoundary (gr : Nat)
  /-- REBASE_ADJUST_TIMEOUT (R246). A core unadjusted 50 µs after the rebase has its teams saved. -/
  | rebaseAdjustTimeout (c : Nat)
  /-- REBASE_COMPLETE (R246). The rebase ends once every core adjusted, the sweep ended and held times were converted. -/
  | rebaseComplete
  /-- LINK_WAKE (R250). A request over a sleeping bridge link is held while the link wakes. -/
  | linkWake (l : Fin 3)
  /-- LINK_WAKE_TIMEOUT (R250). A link not awake after 10 µs starts retraining. -/
  | linkWakeTimeout (l : Fin 3)
  /-- LINK_RETRAIN_FAILURE (R250). A failed retrain makes the control die declare the far die dead. -/
  | linkRetrainFailure (l : Fin 3)
  /-- DIE_SELF_FENCE (R251). A compute die that loses both paths to the control die halts and refuses requests. -/
  | dieSelfFence (d : Fin 2)
  /-- DIE_DECLARED_DEAD (R252). The control die fails the dead die's nodes, drops its copies and poisons its lines. -/
  | dieDeclaredDead (d : Fin 2)
  /-- DIE_REJOIN (R253). A reset die rejoins with a new incarnation and stale state is purged. -/
  | dieRejoin (d : Fin 2)
  /-- HOST_WRITE (R257). A CXL.mem host write merges at its home with ct from J and invalidates core copies. -/
  | hostWrite (pa : Nat) (data : List Byte)
  /-- HOST_READ (R257). A CXL.mem host read returns only bytes merged at the home. -/
  | hostRead (pa len : Nat) (own : Bool)
  /-- HOST_LINK_FAILURE (R387). A host snoop or request unanswered within 2 ms poisons host-held granules and fails the link. -/
  | hostLinkFailure
  /-- REMOTE_RESPONSE (R259). A response to a REMOTE load, atomic or store returns to the issuer. -/
  | remoteResponse (n : Nat) (ans : RemoteAnswer)
  /-- REMOTE_TIMEOUT (R261). A REMOTE access without response within 1 ms raises 0x09. -/
  | remoteTimeout (n : Nat)
  /-- REMOTE_ACCESS_INGRESS (R371). An incoming REMOTE access is translated through the export table and performed. -/
  | remoteAccessIngress (src tag : Nat) (acc : RemoteAccess)
  /-- LS_FILL_COMPLETE (R266). When every named page is resident the stalled instruction replays. -/
  | lsFillComplete (t g : Nat)
  /-- LS_STALL_TIMEOUT (R266). A 4 µs local-store stall switches the team out with a missing-page count. -/
  | lsStallTimeout (t g : Nat)
  /-- PAGE_RESIDENT (R281). The page service makes a page resident and lowers the team's missing-page count. -/
  | pageResident (asid va : Nat) (pa : Option Nat)
  /-- READ_DUPLICATE_COLLAPSE (R280). A store to an RD page switches the writer out while the replicas are collapsed. -/
  | readDuplicateCollapse (asid va : Nat)
  /-- ENGINE_COMMAND_START (R291). A queued engine command starts after the agent's earlier local accesses are performed. -/
  | engineCommandStart (n : Nat)
  /-- ENGINE_PUBLICATION (R307). An engine publishes a command's shadow lines with one W. -/
  | enginePublication (n : Nat)
  /-- ENGINE_COMMAND_FAULT (R311). A fault after start discards the shadow and ends the command with a status. -/
  | engineCommandFault (n status fva : Nat)
  /-- TICKET_COMPLETE (R309). The engine writes the ticket value and the issuing core raises CT as a view point. -/
  | ticketComplete (n : Nat)
  /-- MCAST_LANDING (R299). A multicast receiver's shadow is published and its barrier counts an arrival. -/
  | mcastLanding (n pos : Nat)
  /-- QUEUE_SLOT_SERVE (R315). A bulk engine takes the next filled packet slot and runs it. -/
  | queueSlotServe (asid hdr : Nat)
  /-- PUTS_SIGNAL (R376). After the data merges, the signal is performed at its target. -/
  | putsSignal (n : Nat)
  /-- COLLECTIVE_MESSAGE (R381). A collective engine combines a partner's values into the tree. -/
  | collectiveMessage (n shard : Nat) (vals : List (BitVec 64)) (digestOk : Bool)
  /-- COLLECTIVE_PARTNER_TIMEOUT (R384). A partner silent for 1 ms ends the collective with status 0x07. -/
  | collectivePartnerTimeout (n : Nat) (status : Option Nat)
  /-- ENGINE_REMOTE_TIMEOUT (R366). A remote destination not acknowledging within 1 ms ends the command with 0x07. -/
  | engineRemoteTimeout (n : Nat)
  /-- LATE_REPLY (R331). A reply for a saved team is written into its late-reply table. -/
  | lateReply (n : Nat)
  /-- TEAM_TRAP_HALT (R332). A trapping group halts its team, which is saved with a trap record. -/
  | teamTrapHalt (t : Nat)
  /-- FP_TRAP_COLLECTION_CLOSE (R334). The floating-point collection window closes and trap 0x07 is reported. -/
  | fpTrapCollectionClose (t g : Nat)
  /-- MISALIGNED_EMULATION (R73). A supervisor routine emulates a misaligned access byte by byte. -/
  | misalignedEmulation (t g : Nat)
  /-- HANDLER_PLACE (R335). The control die places one handler team for a trapped team. -/
  | handlerPlace (t core : Nat)
  /-- WATCHDOG (R338). A team issuing nothing for cr.wdog µs takes trap 0x0E. -/
  | watchdog (t : Nat)
  /-- TEAM_PLACE (R321). A core places a whole team into free slots and raises CT. -/
  | teamPlace (t core : Nat)
  /-- QUANT_EXPIRY (R322). A team waiting cr.quant µs triggers pre-emption of the oldest foreign team. -/
  | quantExpiry (t : Nat)
  /-- PREEMPT_SCHEDULER_CHOICE (R330). Pre-empts named teams by flush, drain or save as the scheduler chooses. -/
  | preemptSchedulerChoice (asid node : Nat)
  /-- PREEMPT_DRAIN (R328). Lets named teams run to their next boundary and records a phase record. -/
  | preemptDrain (asid node : Nat)
  /-- PREEMPT_SAVE (R328). Halts named teams and writes their whole context. -/
  | preemptSave (asid node : Nat)
  /-- PREEMPT_FLUSH (R328). Stops named teams and reinstates their restart point. -/
  | preemptFlush (asid node : Nat)
  /-- DRAIN_LIMIT_EXPIRY (R328). A drain exceeding cr.dlim µs saves the team where it stands. -/
  | drainLimitExpiry (t : Nat)
  /-- CARVE_OUT_CHANGE (R270). A write of cr.l1size starts a change of the L1 and local-store split. -/
  | carveOutChange (c : Nat)
  /-- CARVE_OUT_TIMEOUT (R270). A team not at a boundary 100 µs after the request is saved. -/
  | carveOutTimeout (c : Nat)
  /-- CORE_RETIRE (R340). Clearing a cr.cmask bit retires a core and moves its teams. -/
  | coreRetire (c : Nat)
  /-- CORE_RETURN (R340). Setting a cr.cmask bit returns a core to service. -/
  | coreReturn (c : Nat)
  /-- COCOON_OUT (R339). Halts a quarter-die partition and moves its state to the cocoon region. -/
  | cocoonOut (p : Fin 8)
  /-- COCOON_IN (R339). Restores a cocooned partition and resumes its teams. -/
  | cocoonIn (p : Fin 8)
  /-- GRAPH_SUBMIT (R349). The graph engine takes a submission slot, checks the graph and refuses or accepts it. -/
  | graphSubmit (asid : Nat)
  /-- LAUNCH_REQUEST (R352). The graph engine serves a LAUNCH request. -/
  | launchRequest (n : Nat)
  /-- NTOK_REQUEST (R352). The graph engine serves an NTOK request. -/
  | ntokRequest (n : Nat)
  /-- NODE_DISPATCH (R354). A ready node's grid is split into clusters and queued on cores. -/
  | nodeDispatch (gi node : Nat) (place : List Nat)
  /-- TEAM_STEAL (R356). An idle core takes half the stealable teams of a neighbour's queue. -/
  | teamSteal (thief victim : Nat)
  /-- NODE_COMMIT (R342). A finished node publishes its shadows, becomes DONE and lowers successor tokens. -/
  | nodeCommit (gr : Nat)
  /-- NODE_FAIL (R343). A failed node's attempt is discarded, its cone cancelled and it may be retried. -/
  | nodeFail (gr : Nat)
  /-- GRAPH_END (R365). Once termination is detected, the engine publishes the end word. -/
  | graphEnd (gi : Nat)
  /-- FABRIC_STATION_DOWN (R369). Losing a station moves its traffic to the others. -/
  | fabricStationDown (st : Fin 8)
  /-- DEVICE_UNREACHABLE (R375). Accesses to a device with every station down end with timeouts or errors. -/
  | deviceUnreachable (dev : Nat)
  /-- GATE_DIE (R394). A GATE write saves a die's teams and power-gates its mesh. -/
  | gateDie (d : Fin 2)
  /-- UNGATE_DIE (R394). Clearing a GATE bit powers a mesh up with CT 0. -/
  | ungateDie (d : Fin 2)
  /-- DIE_RESET (R389). A DIERST write fences, declares dead and rejoins a compute die. -/
  | dieReset (d : Fin 2)
  /-- BAR0_REGISTER_WRITE (R388). A host write to a BAR0 register with no row of its own. -/
  | bar0RegisterWrite (off : Nat) (val : DWord)
  /-- D3HOT_ENTRY (R393). Entering D3hot saves every team and gates both meshes. -/
  | d3hotEntry
  /-- D0_RETURN (R393). Returning to D0 restores the saved teams. -/
  | d0Return
  /-- AUXILIARY_POWER_ONLY (R393). Loss of main power loses all program state. -/
  | auxiliaryPowerOnly
  /-- MODULE_RESET (R398). The root of trust verifies firmware and the device is brought up. -/
  | moduleReset (slotA slotB : Bool)
  /-- POWER_LIMIT_SET (R395). The side-band port sets the module power limit. -/
  | powerLimitSet (watts : Nat)
  /-- PLDM_BASE_DISCOVERY (R396). Serves a PLDM Type 0 discovery request. -/
  | pldmBaseDiscovery
  /-- PLDM_MONITORING (R396). Serves a PLDM Type 2 sensor request. -/
  | pldmMonitoring (id : Nat)
  /-- PLDM_FIRMWARE_UPDATE (R399). Writes a firmware image to the inactive slot. -/
  | pldmFirmwareUpdate (version : Nat) (valid : Bool)
  /-- GET_MEASUREMENTS (R397). Reports the SM3 measurement blocks over SPDM. -/
  | getMeasurements
  /-- RMA_ENTRY_REQUEST (R400). An authorised SPDM request blows the fuse that moves the lifecycle to RMA. -/
  | rmaEntryRequest (auth : Bool)
  /-- DEBUG_LEVEL_REQUEST (R401). A signed SPDM request sets the debug level for the next reset. -/
  | debugLevelRequest (level : Fin 3) (auth : Bool)
  /-- DEBUG_ACCESS (R401). Debug access over a secured session halts teams or reads and writes state. -/
  | debugAccess (acc : DebugOp)
  /-- BRIDGE_LINK_SLEEP (R250). A bridge link whose two ends are idle goes to sleep. -/
  | bridgeLinkSleep (l : Fin 3)
  /-- BRIDGE_LINK_UP (R250). A waking or retraining bridge link comes up, and the requests held on it proceed. -/
  | bridgeLinkUp (l : Fin 3)
  /-- BRIDGE_LINK_DOWN (R248). A direct bridge link fails and traffic moves through the control die while the link retrains. -/
  | bridgeLinkDown (l : Fin 3)
  /-- FABRIC_STATION_UP (R390). A UALink station completes link bring-up with its accelerator ID, or is kept down if the ID differs. -/
  | fabricStationUp (st : Fin 8) (acc : BitVec 10)
  /-- HOST_LINK_RETRAINED (R387). The CXL host link finishes retraining after a host link failure. -/
  | hostLinkRetrained
  /-- HDM_DECODER_COMMIT (R386). The host commits the HDM decoder, which sets the host window to CXL.mem. -/
  | hdmDecoderCommit (base size : Nat)
  /-- BACK_INVALIDATE_RESPONSE (R257). The host answers a BISnpData or BISnpInv, possibly with modified data that merges at the home. -/
  | backInvalidateResponse (gran : Nat) (data : Option (List Byte))
  /-- CXL_CACHE_RESPONSE (R257). The host answers a CXL.cache request for a HOSTED line in host memory. -/
  | cxlCacheResponse (pl : Nat) (data : List Byte)
  /-- PAGE_REQUEST_CLOSED (R281). The page service closes a request without making the page resident, so the replay raises 0x04 or the engine reports status 0x02. -/
  | pageRequestClosed (asid va : Nat)
  /-- SPDM_SECURED_SESSION (R397). An SPDM key exchange sets up the secured session, using SM2 and SM4-GCM, that debug access requires. -/
  | spdmSecuredSession
  deriving DecidableEq, Repr

end Sys2Proof
end

