-- ==== Sys2Proof/Machine/State.lean ====
section
/-!
DEFINITION. The state of one AQ-7120 module as plain data: lane groups and side sequencers, teams, cores with their
L1 copies, tiles and local-store tables, device memory with the times of its lines, the messages and engine commands
in flight, the graph engine, and the registers of the control die; and the machine right after a module reset.
Times (CT, wts, rts, M, J) are natural numbers as R223 counts them.
-/

namespace Sys2Proof.Machine

open Sys2Proof

/-- Why the machine stops with a fault. -/
inductive Fault where
  /-- Raised by the events that read a context descriptor (NODE_DISPATCH) or install a page-table root: the control
  die is told to read a physical address at which no memory stands (R275 names the two ranges that exist). Safe:
  the manual gives no effect of such a read. -/
  | noPhysicalMemory
  deriving DecidableEq, Repr

/-- Why the machine has no meaning for what it is told to do. -/
inductive Refusal where
  /-- Raised by the dispatch for an instruction that has no meaning yet. Safe: nothing is claimed of it. -/
  | notModelled (mnemonic : String)
  deriving DecidableEq, Repr

/-- Memory: (address, byte) pairs, addresses strictly rising, no entry equal to what an unlisted address reads. -/
abbrev Memory := List Host.Cell

/-! ### Groups, lanes and side sequencers (R57, R64, R138) -/

/-- One byte that an outstanding access of lane `lane` awaits as byte `idx` of its result; `va` is its address. It takes its
value from renewals numbered `since` or later: those of the view of its line in which it was issued (R226, R227). -/
structure Slot where
  lane  : Nat
  idx   : Nat
  va    : Nat
  val   : Option Byte
  since : Nat
  deriving DecidableEq, Repr

/-- Where the result of an outstanding access goes. -/
inductive OutDest where
  /-- a lane register (four of them when `wide`, R150) -/
  | lane (d : VReg) (wide : Bool)
  /-- a lane register and, once the line is there, a residency bit (R282) -/
  | probe (d : VReg) (p : KReg)
  /-- a uniform register -/
  | uni (d : SReg)
  /-- the old value of a lane atomic; `cas` also keeps vd + 1 pending (R287) -/
  | laneOld (d : VReg) (cas : Bool)
  /-- the old value of a UATOM -/
  | uniOld (d : SReg)
  /-- nowhere: a store to an UNCACHED page, or a dadd update, that its home is still to take (R50, R220, R234) -/
  | taken
  deriving DecidableEq, Repr

/-- The open collection window of trap 0x07 (R334). -/
structure FpWindow where
  pc    : Nat
  mask  : BitVec 32
  lane  : Nat
  flags : BitVec 5
  more  : Nat
  since : Nat
  deriving DecidableEq, Repr

/-- The registers of a group and its collection window: what a precise trap leaves as the trapping instruction found them (R50, R56, R82). -/
structure Regs where
  pcs    : Vector (BitVec 52) 32
  active : BitVec 32
  v      : Vector LaneVec 128
  s      : Vector DWord 64
  k      : Vector (BitVec 32) 8
  fpcr   : DWord
  fpsr   : DWord
  gen    : BitVec 128
  fpw    : Option FpWindow
  deriving DecidableEq, Repr

/-- An access that has issued and whose result has not arrived: its destination is pending (R64). `remote` marks a
REMOTE access, which keeps its group from issuing (R261). `regs` are the registers of its group as it issued, with the results
of earlier accesses that have come since, for a trap that it still takes, and `bad` the lanes whose bytes were refused: lane,
trap code, address (R52, R56). -/
structure Outst where
  id     : Nat
  dest   : OutDest
  slots  : List Slot
  remote : Bool
  regs   : Regs
  bad    : List (Nat × Nat × Nat)
  deriving DecidableEq, Repr

/-- Which memory an issued store that is not yet performed goes to. -/
inductive StoreTarget where
  /-- global, as unpublished bytes of the team (R229) -/
  | global
  /-- the local store of team `t` of the module (R238): the issuer's own, or a cluster member's -/
  | window (t : Nat)
  deriving DecidableEq, Repr

/-- An issued store that is not yet performed; `id` is the message number that was next when it issued (R229, R238). -/
structure PStore where
  id     : Nat
  target : StoreTarget
  addr   : Nat
  bytes  : List Byte
  deriving DecidableEq, Repr

/-- What a group or a side sequencer is doing. -/
inductive GStatus where
  /-- it issues when its turn comes -/
  | run
  /-- a FENCE, SPIN, LAUNCH or NTOK that waits for the publications listed -/
  | fence (pubs : List Nat)
  /-- a SPIN that waits for the renewal of its line (R135) -/
  | spin (req : Nat)
  /-- arrived at a PHASE (or CBAR) with this immediate (R127, R129) -/
  | boundary (cbar : Bool) (imm : Nat)
  /-- a WAITB that has issued and waits (R132) -/
  | waitb
  /-- a local-store access that waits for pages (team, page) to be filled (R266) -/
  | stall (pages : List (Nat × Nat))
  /-- an access that waits for its emulation (R73) -/
  | emul
  /-- an ENG that waits for operand blocks on REMOTE pages: the bytes that have arrived (R291) -/
  | block (got : List (Nat × Byte))
  /-- a REMOTE load or atomic that waits for its responses. `bad` are the lanes that were refused: lane, trap code,
  address (R261, R52) -/
  | remote (bad : List (Nat × Nat × Nat))
  /-- a FORK that has started some of the sequencers that it names and waits for these (R136) -/
  | fork (left : List Nat)
  /-- stopped at its own trap (R332) -/
  | trapped
  /-- ended (R61), or a side sequencer that is idle or has halted -/
  | ended
  deriving DecidableEq, Repr

/-- A group of 32 lanes, or a side sequencer, which has one lane (R57, R138). -/
structure Group where
  pcs    : Vector (BitVec 52) 32
  active : BitVec 32
  v      : Vector LaneVec 128
  s      : Vector DWord 64
  k      : Vector (BitVec 32) 8
  fpcr   : DWord
  fpsr   : DWord
  /-- the generator state G (R144) -/
  gen    : BitVec 128
  status : GStatus
  outs   : List Outst
  /-- ticket registers and the commands that will write them (R291) -/
  tickets : List (SReg × Nat)
  stores : List PStore
  fpw    : Option FpWindow
  /-- instructions issued since the halt broadcast (R332) -/
  skid   : Nat
  /-- dadd updates of each lane in this phase (R220) -/
  daddQ  : Vector Nat 32
  /-- deterministic claims in this phase (R306) -/
  claimQ : Nat
  /-- a side sequencer: 0 never started, 1 running, 2 halted (R333) -/
  seqSt  : Nat
  /-- window pages (team, page) filled for the access that the agent is to issue again: they stay until it has (R266) -/
  hold   : List (Nat × Nat)
  /-- bytes that the finished steps of an MSAVE, MLOAD or MTBL have moved, for MLOAD and MTBL those read (R215) -/
  xfer   : List Byte
  /-- an MSAVE of the group runs: the array takes nothing else until it completes, though its team be switched out meanwhile (R215) -/
  saving : Bool
  deriving DecidableEq, Repr

/-! ### Kernels, contexts and grids -/

/-- A register a carry set names (R35). -/
inductive CarryReg where
  | v (r : VReg) | s (r : SReg) | k (r : KReg)
  deriving DecidableEq, Repr

/-- A kernel descriptor with its carry sets (R35). -/
structure Kernel where
  desc   : Nat
  entry  : Nat
  groups : Nat
  w      : Nat
  h      : Nat
  lswin  : Nat
  carry  : List (List CarryReg)
  fore   : Nat
  hind   : Nat
  deriving DecidableEq, Repr

/-- A context descriptor as the control die read it (R319). -/
structure Context where
  asid  : Nat
  wt    : Nat
  sup   : Bool
  l1pa  : Nat
  rbase : Nat
  rsize : Nat
  hdl   : Nat
  crt   : Nat
  seeds : Nat
  nseed : Nat
  deriving DecidableEq, Repr

/-- A held deterministic update (R220, R221, R243): key (i, q), the word as an offset in its line, which is named by
its virtual address, and the phase it was issued in. -/
structure Dadd where
  grid  : Nat
  i     : Nat
  q     : Nat
  team  : Nat
  phase : Nat
  line  : Nat
  off   : Nat
  u     : Word
  deriving DecidableEq, Repr

/-- An operand declaration of a node (R351). -/
structure Decl where
  base   : Nat
  mode   : Nat
  extent : Nat
  deriving DecidableEq, Repr

/-- A line of an attempt's shadow (R341), with its own times: the bytes of the line when the attempt first touched it,
and the declared bytes written since, (offset, byte), newest first. -/
structure ShadowLine where
  wts     : Nat
  rts     : Nat
  bytes   : List Byte
  written : List (Nat × Byte)
  deriving DecidableEq, Repr

/-- A held deterministic claim (R306). -/
structure Claim where
  grid  : Nat
  c     : Nat
  q     : Nat
  cmd   : Nat
  phase : Nat
  deriving DecidableEq, Repr

/-- A running grid: one attempt of a node (R341, R351, R354). -/
structure Grid where
  gi      : Nat
  node    : Nat
  ctx     : Context
  kernel  : Kernel
  hkernel : Option Kernel
  teams   : Nat
  w       : Nat
  h       : Nat
  groups  : Nat
  lswin   : Nat
  params  : Nat
  attempt : Nat
  idem    : Bool
  det     : Bool
  seed    : BitVec 128
  decls   : List Decl
  shadow  : Tab ShadowLine
  /-- boundaries the grid has completed, and those each team has completed; an ended team completes all -/
  bound   : Nat
  done    : Tab Nat
  ended   : List Nat
  /-- CT that teams contributed to boundary times (R241): (boundary, by ending, CT); an end counts from its boundary on -/
  times   : List (Nat × Bool × Nat)
  held    : List Dadd
  claims  : List Claim
  runs    : Nat
  /-- its 2 MiB spill area in the reserved memory (R242) -/
  spill   : Nat
  /-- the node fails: its fault-record cause, code, faulting address, PC and rank (R343, R360) -/
  failing : Option (Nat × Nat × Nat × Nat × Nat)
  predW   : Nat
  deriving DecidableEq, Repr

/-- A node of an active graph; the fields the graph engine keeps (R350, R351). -/
structure Node where
  state    : Nat
  tokens   : Nat
  otok     : Nat
  attempts : Nat
  budget   : Nat
  cgen     : Nat
  stage    : Nat
  prio     : Nat
  idem     : Bool
  kernel   : Kernel
  lsw      : Nat
  w        : Nat
  h        : Nat
  groups   : Nat
  teams    : Nat
  params   : Nat
  succ     : List Nat
  frec     : Nat
  decls    : List Decl
  /-- largest publication time of its predecessors' commits (R342) -/
  predW    : Nat
  /-- the failure (by its node) that wrote it CANCELLED (R345) -/
  byFail   : Option Nat
  /-- the quads of its record at submission, the constant part of its publications -/
  quads    : List DWord
  deriving DecidableEq, Repr

/-- A failure of a node that the graph engine is still working off, one record change at a time (R343 to R346). -/
structure Failing where
  node  : Nat
  /-- members of the cone still to be cancelled, and those still to be returned to WAIT, in the order of R344 -/
  cone  : List Nat
  back  : List Nat
  /-- the node is to be retried (R345, R359), and it has been written RETRYING -/
  retry : Bool
  begun : Bool
  deriving DecidableEq, Repr

/-- An active graph (R347 to R365). -/
structure Graph where
  asid  : Nat
  ctx   : Context
  det   : Bool
  ntab  : Nat
  seed  : BitVec 128
  endva : Nat
  nodes : List Node
  /-- failures whose cancellations and returns are not done, the earliest first -/
  fails : List Failing
  ign   : Nat
  sent  : Nat
  rcvd  : Nat
  live  : Bool
  /-- the packet of a graph whose records are still being read -/
  sub   : Option (List DWord)
  deriving DecidableEq, Repr

/-! ### Translations, copies, window pages and tiles (R225, R263, R275, R192) -/

/-- The attributes of a leaf (R275). -/
inductive Attr where
  | leased | hosted | uncached | remote
  deriving DecidableEq, Repr

/-- A translation: the physical address of a page and its rights (R275). -/
structure Leaf where
  pa    : Nat
  size  : Nat
  attr  : Attr
  dev   : Nat
  lease : Nat
  rs    : Bool
  rd    : Bool
  s     : Bool
  x     : Bool
  w     : Bool
  /-- physical address of the leaf entry -/
  at_   : Nat
  deriving DecidableEq, Repr

/-- An L1 copy of a line with the times its home granted (R225) and the teams for which it is stable (R227). A
copy that a newer one replaced stays only for the teams that hold it stable. -/
structure Copy where
  asid   : Nat
  line   : Nat
  data   : List Byte
  wts    : Nat
  rts    : Nat
  leaf   : Leaf
  inc    : Nat
  /-- the grid whose shadow the copy shows, if it shows one (R341) -/
  tag    : Option Nat
  latest : Bool
  stable : List Nat
  deriving DecidableEq, Repr

/-- An entry of the local translation table (R263). -/
structure Ltt where
  team  : Nat
  vpage : Nat
  frame : Nat
  dirty : Bool
  acc   : Bool
  /-- 0 resident, 1 fill queued, 2 leaving -/
  state : Nat
  /-- the frame is the shadow of an engine write to the page (R267) -/
  shd   : Bool
  deriving DecidableEq, Repr

inductive TermKind where
  | num | pinf | ninf | nan
  deriving DecidableEq, Repr

/-- A term of the pleat tree: (-1)^neg × m × 2^e (R182). -/
structure Term where
  kind : TermKind
  neg  : Bool
  m    : Nat
  e    : Int
  deriving DecidableEq, Repr

/-- The summation state of one output element (R180, R182). -/
structure Elem where
  o0 : List Term
  o1 : List Term
  o2 : List Term
  s  : Word
  c  : Word
  deriving DecidableEq, Repr

/-- A K-step in the reorder window (R186). -/
structure WStep where
  idx   : Nat
  pair  : Bool
  last  : Bool
  first : Bool
  a     : List LaneVec
  b     : List LaneVec
  deriving DecidableEq, Repr

/-- A tile (R189, R192): `cols` is 64 on a leader core and 32 otherwise; elements in order of row, then column. -/
structure Tile where
  pleat  : DWord
  cfg    : DWord
  x      : Nat
  window : List WStep
  cols   : Nat
  elems  : List Elem
  lint   : Vector Nat 4
  darn   : Nat
  /-- running maximum m and sum l of each row (R210) -/
  side   : Vector (Word × Word) 32
  deriving DecidableEq, Repr

/-! ### Teams (R321, R324) -/

/-- The report of a team's trap before the handler or the node takes it (R332, R333). -/
structure TrapInfo where
  code : Nat
  kind : Nat
  /-- reporting agent: 0 to 15 a group, 16 the forewing, 17 the hindwing -/
  agent : Nat
  fva  : Nat
  svc  : Nat
  deriving DecidableEq, Repr

/-- Where a team is (R324, R327). -/
inductive TStatus where
  | queued | placed | saved | atBoundary | cocooned | trapped | ended
  deriving DecidableEq, Repr

/-- What a team's current phase has contained (R318, R329). -/
structure PhaseUse where
  localStore : Bool
  matrix     : Bool
  atomic     : Bool
  engine     : Bool
  launch     : Bool
  uncached   : Bool
  release    : Bool
  side       : Bool
  deriving DecidableEq, Repr

/-- A publication that has been sent and not acknowledged (R231). -/
structure Pub where
  id    : Nat
  line  : Nat
  bytes : List (Nat × Byte)
  deriving DecidableEq, Repr

/-- A late reply (R331). -/
structure LateReply where
  lane  : Nat
  reg   : Nat
  grp   : Nat
  kind  : Nat
  value : DWord
  deriving DecidableEq, Repr

/-- A team: one member of a grid, or a handler team (R335). -/
structure Team where
  grid    : Nat
  asid    : Nat
  rank    : Nat
  core    : Nat
  cluster : Nat
  px      : Nat
  py      : Nat
  w       : Nat
  h       : Nat
  ngrp    : Nat
  lswin   : Nat
  lbase   : Nat
  param   : Nat
  node    : Nat
  attempt : Nat
  sup     : Bool
  kernel  : Kernel
  ctx     : Context
  status  : TStatus
  hb      : Vector Nat 8
  /-- arrivals held at a saturated barrier (R131), with the engine command that made each, if one did -/
  hbHeld  : List (Fin 8 × Option Nat)
  /-- agents whose WAITB waits, in the order of issue (R132) -/
  hbq     : List (Fin 8 × Nat)
  /-- performed stores not yet published: (address, byte), newest first (R229) -/
  unpub   : List (Nat × Byte)
  pubs    : List Pub
  /-- publications of lines without write rights, or poisoned: trap at the visibility point (R252, R278) -/
  pubTrap : Option (Nat × Nat)
  /-- REMOTE stores that were refused or not acknowledged, by agent: code and address of the first, which traps at the
  next fence of system scope of that agent (R134, R261) -/
  remTrap : Tab (Nat × Nat)
  /-- largest wts its replies returned since the boundary began (R235) -/
  got     : Nat
  /-- the first message number of the view that its loads belong to, and of a later view of one line (R227) -/
  viewFrom : Nat
  lineFrom : Tab Nat
  /-- a boundary has begun: a CBAR? (R328) -/
  begun   : Option Bool
  phase   : Nat
  used    : PhaseUse
  /-- CT recorded when it was last switched out (R237, R325) -/
  ct      : Nat
  trap    : Option TrapInfo
  /-- a handler team: the report that it answers and the reporting agent's PC (R337) -/
  orig    : Option (TrapInfo × Nat)
  /-- CT after the join of the last boundary (R325), and whether that was a CBAR (R269) -/
  bct     : Nat
  bcbar   : Bool
  /-- the trap record has been written and not resumed (R333, R336) -/
  trecVA  : Nat
  /-- a boundary has completed and no group has issued since (R317) -/
  atB     : Bool
  /-- the entries of its record's page list (R263) -/
  plist   : List Nat
  /-- a handler team: the team it handles, and whether its TRET has succeeded -/
  handles : Option Nat
  resumed : Bool
  missing : Nat
  /-- window pages (team, page) that it stalled for when it left: they are filled when it is placed (R266) -/
  refill  : List (Nat × Nat)
  /-- pages whose residency it awaits (R281) -/
  awaits  : List Nat
  /-- requested mode that has not been carried out: 0 scheduler's choice, 1 drain, 2 save, 3 flush -/
  request : Option Nat
  ending  : Bool
  /-- bytes of resident window pages (R262); a page with no bytes listed reads as zeros -/
  ls      : Memory
  /-- offsets of window bytes that stand in frames and are uncorrectable: their backing copy could not be read (R284, R392) -/
  lsBad   : List Nat
  /-- its ENG command count (R402) -/
  engCount : Nat
  /-- lines in its view overflow area (R230) -/
  ovf     : List Nat
  /-- a line of the team is to be evicted and the area is full: a forced point is under way (R230) -/
  forced  : Bool
  /-- its context record (R324) -/
  recVA   : Nat
  late    : List LateReply
  /-- while it is away: the copies that are stable for it, and the tiles and activation table it holds (R217, R237) -/
  kept    : List Copy
  array   : Option (Vector Tile 4 × List (BitVec 16 × BitVec 16))
  /-- restart point: the groups as a completed boundary left them (R329), window excepted -/
  restart : Option (List (Nat × Group))
  /-- its barrier counts at the restart point, with the arrivals that others have made since (R324, R328) -/
  restHb  : Vector Nat 8
  /-- address after the last boundary instruction, and its carry-set index, 0xFFFF for the empty set (R325) -/
  rpc     : Nat
  cset    : Nat
  /-- absent pages whose requests the page service closed: an access to one raises 0x04 (R281) -/
  closed  : List Nat
  /-- write time of its trap record's publication (R335) -/
  trapW   : Nat
  /-- when it was placed, as a number that rises with each placement (R322) -/
  placedAt : Nat
  deriving DecidableEq, Repr

/-! ### Cores (R223, R225, R262, R192) -/

/-- What one core holds (R192, R223, R262). -/
structure Core where
  ct     : Nat
  /-- generation bit (R245) -/
  gen    : Bool
  copies : List Copy
  /-- L1 size code (R340) and the changes requested, the one in progress first (R270) -/
  l1     : Nat
  l1next : List Nat
  ltt    : List Ltt
  /-- time of the core copy engine (R307) -/
  engT   : Nat
  holder : Option Nat
  tiles  : Vector Tile 4
  /-- activation table: slope and intercept (R209) -/
  table  : List (BitVec 16 × BitVec 16)
  /-- teams waiting for slots, head first (R355) -/
  queue  : List Nat
  /-- placements of each context in the current round (R321) -/
  round  : Tab Nat
  deriving DecidableEq, Repr

/-! ### Homes and messages (R224, R231, R239, R248) -/

/-- What of a line is poisoned: nothing, one of its two granules, which the host lost, or the line (R387, R392). -/
inductive Poison where
  | clean | low | high | whole
  deriving DecidableEq, Repr

/-- The times of a line at its home, keyed by the physical line. -/
structure HLine where
  wts    : Nat
  rts    : Nat
  gen    : Bool
  poison : Poison
  held   : List Dadd
  deriving DecidableEq, Repr

/-- A request from a core to a home slice. -/
inductive ReqKind where
  | renew (spin : Bool)
  | publish (bytes : List (Nat × Byte))
  | atomic (op : AOp) (width : Nat) (operand newval : DWord) (lane : Nat)
  | uload (len : Nat) (lane : Nat)
  | ustore (data : List Byte) (lane : Nat)
  | dadd (u : Word) (i q phase : Nat)
  deriving DecidableEq, Repr

structure Req where
  id    : Nat
  core  : Nat
  team  : Nat
  agent : Nat
  asid  : Nat
  va    : Nat
  ct    : Nat
  kind  : ReqKind
  deriving DecidableEq, Repr

/-- A reply from a home slice to a core. -/
inductive RepKind where
  | renewed (data : List Byte) (wts rts : Nat) (leaf : Leaf) (inc : Nat) (spin : Bool)
  | published (data : List Byte) (w : Nat) (leaf : Leaf) (inc : Nat)
  | atomic (data : List Byte) (w : Nat) (leaf : Leaf) (inc : Nat) (old : List Byte) (lane : Nat)
  /-- a renewal or a publication refused at the home: the trap that the requester takes (R252, R278, R284) -/
  | failed (code : Nat) (publication : Bool)
  /-- an UNCACHED load, or (`st`) an UNCACHED store or a dadd update, of a team that is cocooned, with its bytes and the line's
  time (R234, R339) -/
  | uncached (data : List Byte) (w lane : Nat) (st : Bool)
  /-- an UNCACHED load of `k` bytes refused at the home, or (`old`) an atomic, an UNCACHED store or a dadd update (R252, R278, R284) -/
  | failedOp (code k lane : Nat) (old : Bool)
  deriving DecidableEq, Repr

structure Rep where
  id    : Nat
  core  : Nat
  team  : Nat
  agent : Nat
  asid  : Nat
  va    : Nat
  kind  : RepKind
  /-- the slice that answered, 16 · die + slice; 32 for the control die (R248) -/
  slice : Nat
  /-- a HOSTED line whose copies have been invalidated since the home answered (R255) -/
  gone  : Bool
  deriving DecidableEq, Repr

/-- A request on the fabric (R259, R366, R376). -/
inductive RemoteKind where
  | load (len : Nat) (lane : Nat)
  | store (data : List Byte)
  | atomic (op : AOp) (width : Nat) (operand newval : DWord) (lane : Nat)
  /-- shadow bytes of an engine command at exported addresses, which the destination holds -/
  | shadow (cmd : Nat) (parts : List (Nat × Byte))
  /-- the destination is to merge them, or to discard them (R307, R366, R376) -/
  | merge (cmd : Nat)
  | discard (cmd : Nat)
  /-- the signal of a PUTS -/
  | signal (cmd : Nat)
  | signalBarrier (cmd node rank : Nat) (hb : Nat)
  /-- a block of an engine's source (R302) -/
  | fetch (cmd : Nat) (len : Nat)
  deriving DecidableEq, Repr

structure RemoteReq where
  id    : Nat
  dev   : Nat
  cls   : Nat
  xaddr : Nat
  va    : Nat
  team  : Nat
  agent : Nat
  kind  : RemoteKind
  /-- the answer, held while its team is cocooned (R339) -/
  ans   : Option RemoteAnswer
  deriving DecidableEq, Repr

/-- Where an engine command stands. -/
inductive CmdStage where
  /-- accepted, not started (R291) -/
  | queued
  /-- started; a page that it writes already has a shadow, which it waits for (R267). `shadow` shows its pages -/
  | waiting
  /-- its shadow is written (R297), or its partners are awaited -/
  | shadow
  /-- its bytes have been published; what its ticket waits for is not done -/
  | published
  /-- complete in shadow, awaiting PUBL (R303); its ticket has been written -/
  | deferred
  /-- complete; its ticket is to be written -/
  | complete
  deriving DecidableEq, Repr

/-- An engine command (R290, R315). `fn` is the ENG function number; a queue packet has `fn` 12 and its slot in
`slot`. Shadow bytes are (space, address, byte), space 0 global and t + 1 the window of team t. -/
structure Cmd where
  id     : Nat
  fn     : Nat
  team   : Nat
  agent  : Nat
  asid   : Nat
  core   : Nat
  sd     : Option SReg
  pkt    : List DWord
  a      : Nat
  b      : Nat
  desc   : List DWord
  slot   : Option (Nat × Nat)
  seq    : Nat
  t      : Nat
  stage  : CmdStage
  shadow : List (Nat × Nat × Byte)
  /-- source bytes fetched over the fabric (R302) -/
  fetched : List (Nat × Byte)
  /-- receivers of a multicast, fabric requests, or partner values not yet done -/
  await  : List Nat
  /-- destination lines, for the view point of its ticket (R309) -/
  lines  : List Nat
  /-- the deferred command that this one publishes; 0 for none (R303) -/
  ref    : Nat
  handle : Nat
  status : Nat
  count  : Nat
  fva    : Nat
  w      : Nat
  /-- partner values of a collective: (shard, values) -/
  vals   : Tab (List DWord)
  /-- 1 once the signal of a PUTS has been sent over the fabric; 2 once its REMOTE shadow lines have been sent, and 3 once their
  merge has been asked for (R366, R376) -/
  first  : Nat
  /-- absent pages that it has asked for, and those whose requests were closed (R281) -/
  asked  : List Nat
  closed : List Nat
  /-- a collective: the shards whose values it has sent, and how many of these its partners have taken (R381, R383) -/
  sent   : List Nat
  taken  : Nat
  deriving DecidableEq, Repr

/-- An access of a peer that waits at this device: its source and tag, and the export table's base and enable bit as it
arrived, for a write to EXPBASE governs only what arrives after it (R371, R388). -/
structure Kept where
  src  : Nat
  tag  : Nat
  acc  : RemoteAccess
  base : Nat
  on   : Bool
  deriving DecidableEq, Repr

/-- Messages and commands in flight. -/
structure Net where
  reqs    : List Req
  reps    : List Rep
  remote  : List RemoteReq
  cmds    : List Cmd
  /-- LAUNCH (true) and NTOK requests on their way to the graph engine: (kind, asid, address, sender's graph) -/
  graphRq : List (Bool × Nat × Nat × Nat)
  /-- pages asked of the page service: (asid, page address) -/
  pageRq  : List (Nat × Nat)
  /-- read-duplicated pages whose collapse is wanted: (asid, page address) -/
  collapse : List (Nat × Nat)
  /-- back-invalidate snoops sent to the host: (granule, BISnpInv?) (R257) -/
  snoops  : List (Nat × Bool)
  /-- CXL.cache requests for lines of host memory (R257) -/
  hostRq  : List Nat
  /-- accesses of peers that wait for a page, a snoop or a barrier (R371) -/
  ingress : List Kept
  /-- bytes of peers' PUTS and queue copies that this device holds as shadow lines (R366, R376) -/
  shadows : List Kept
  /-- pages that the graph engine has asked for and still needs: for what (0 a submission, 1 a launch, 2 a publication), asid, page,
  closed without residency? (R349) -/
  gclosed : List (Nat × Nat × Nat × Bool)
  /-- accesses of agents (team, agent) directed at a team that is not resident, in the order received (R327) -/
  held    : List (Nat × Nat × Nat)
  nextId  : Nat
  deriving DecidableEq, Repr

/-! ### The control die (R2, R340, R388) -/

inductive Link where
  | up | asleep | waking | retraining | down
  deriving DecidableEq, Repr

/-- A compute die as the control die sees it (R249 to R253). -/
structure Die where
  alive  : Bool
  gated  : Bool
  fenced : Bool
  inc    : Nat
  /-- cocooned partition, if any (R339) -/
  cocoon : Option Nat
  /-- its lines read as poisoned until written whole, after it rejoined (R253) -/
  stale  : Bool
  deriving DecidableEq, Repr

/-- What the device shows to the outside. -/
inductive Output where
  | hostData (pa : Nat) (data : List Byte) (poison : Bool)
  | remoteReply (dst tag : Nat) (ans : RemoteAnswer)
  | discovery (types : List Nat)
  | sensor (id : Nat) (value : DWord)
  /-- the measurements, and the chain in certificate slot 0 (R397) -/
  | measurements (blocks : List (BitVec 256)) (chain : List Byte)
  | debugData (data : List Byte) (poison : Bool)
  /-- values of a shard that go to the partners of a collective, with its digest (R381, R383) -/
  | collective (id shard : Nat) (vals : List DWord) (digest : List Byte)
  /-- the partners of a collective learn that it has ended here with an error (R383, R384) -/
  | collectiveEnd (id status : Nat)
  | linkFault (station : Nat)
  | bootFailure
  deriving DecidableEq, Repr

/-- The firmware slots and the root of trust (R398 to R401); images are told apart by numbers. -/
structure Trust where
  active   : Bool
  verA     : Nat
  verB     : Nat
  imgA     : Nat
  imgB     : Nat
  rollback : Nat
  pending  : Bool
  lc       : Nat
  lcNext   : Nat
  dbg      : Nat
  dbgNext  : Nat
  session  : Bool
  /-- bytes that debug access has written to firmware memory since it was loaded (R401) -/
  written  : Tab Byte
  deriving DecidableEq, Repr

/-- A translation that the MTB of a home slice keeps: the physical lines of the tables that its walk read, and the page that it maps
(R277). -/
structure MtbEntry where
  slice  : Nat
  tables : List Nat
  pa     : Nat
  size   : Nat
  deriving DecidableEq, Repr

/-- Registers and states of the control die. -/
structure Dev where
  ctxtab  : DWord
  cmask   : Vector DWord 5
  wdog    : DWord
  dlim    : DWord
  quant   : DWord
  tbgen   : Nat
  /-- a rebase in progress (R245) -/
  rebase  : Bool
  /-- the ingress time J (R254) -/
  j       : Nat
  /-- memo time M of each home slice, 16 · die + slice (R224) -/
  memo    : Vector Nat 32
  dies    : Vector Die 2
  /-- bridge links: 0 between the compute dies, 1 and 2 from die 0 and die 1 to the control die -/
  links   : Vector Link 3
  expbase : DWord
  gate    : DWord
  crcerr  : Nat
  dom     : Nat
  mem     : Nat
  stations : Vector Bool 8
  devinc  : Nat
  rdy     : Bool
  d3      : Bool
  power   : Bool
  watts   : Nat
  hostUp  : Bool
  /-- the host link has failed, and the host has not committed its decoder since (R387) -/
  hostShut : Bool
  hdm     : Option (Nat × Nat)
  /-- host-held granules of HOSTED lines: 1 shared (GHS), 2 exclusive (GHE) (R256) -/
  gran    : Tab Nat
  /-- translations that the MTBs of the home slices keep (R277) -/
  mtb     : List MtbEntry
  /-- lines of host memory that the control die holds -/
  hostLines : List Nat
  /-- moves of cr.cocoon not yet carried out: (partition, in?) (R339, R340) -/
  moves   : List (Nat × Bool)
  trust   : Trust
  out     : List Output
  deriving DecidableEq, Repr

/-- The events that the device brings about by itself, each under the name of its row of the opcode table. -/
inductive Auto where
  | phaseBoundaryComplete (t : Nat)
  | cbarBoundaryComplete (cl : Nat)
  | teamEnd (t : Nat)
  | barrierArrivalHeldCounted (t : Nat) (hb : Fin 8)
  | homeRenewal (n : Nat)
  | renewalReply (n : Nat)
  | homePublication (n : Nat)
  | publicationReply (n : Nat)
  | homeAtomic (n : Nat)
  | atomicReply (n : Nat)
  | uncachedAccessAtHome (n : Nat)
  | forcedVisibilityPoint (t : Nat)
  | daddUpdateArrival (n : Nat)
  | gridBoundary (gr : Nat)
  | rebaseComplete
  | linkWake (l : Fin 3)
  | dieSelfFence (d : Fin 2)
  | dieDeclaredDead (d : Fin 2)
  | dieRejoin (d : Fin 2)
  | lsFillComplete (t g : Nat)
  | readDuplicateCollapse (asid va : Nat)
  | engineCommandStart (n : Nat)
  | enginePublication (n : Nat)
  | ticketComplete (n : Nat)
  | mcastLanding (n pos : Nat)
  | queueSlotServe (asid hdr : Nat)
  | putsSignal (n : Nat)
  | remoteAccessIngress (n : Nat)
  | lateReply (n : Nat)
  | teamTrapHalt (t : Nat)
  | fpTrapCollectionClose (t g : Nat)
  | misalignedEmulation (t g : Nat)
  | handlerPlace (t core : Nat)
  | teamPlace (t core : Nat)
  | preemptSchedulerChoice (asid node : Nat)
  | preemptDrain (asid node : Nat)
  | preemptSave (asid node : Nat)
  | preemptFlush (asid node : Nat)
  | carveOutChange (c : Nat)
  | coreRetire (c : Nat)
  | coreReturn (c : Nat)
  | cocoonOut (p : Fin 8)
  | cocoonIn (p : Fin 8)
  | graphSubmit (asid : Nat)
  | launchRequest (n : Nat)
  | ntokRequest (n : Nat)
  | nodeDispatch (gi node : Nat) (place : List Nat)
  | nodeCommit (gr : Nat)
  | nodeFail (gr : Nat)
  /-- a further step of the `n`-th failure that the engine is working off: a part of NODE_FAIL (R346) -/
  | failureStep (gi n : Nat)
  | graphEnd (gi : Nat)
  | gateDie (d : Fin 2)
  | ungateDie (d : Fin 2)
  | dieReset (d : Fin 2)
  deriving DecidableEq, Repr

/-- Whose turn the next step is. -/
inductive Turn where
  /-- an event that the device brings about by itself -/
  | auto (e : Auto)
  /-- team `t`, agent `a` issues (0 to 15 a group, 16 forewing, 17 hindwing) -/
  | issue (t a : Nat)
  /-- an event that comes from outside the device, or that its own timers bring about -/
  | event (e : Instr)
  /-- the `n`-th issued store of an agent is performed (R229, R238) -/
  | perform (t a n : Nat)
  /-- the agent's next instruction meets an uncorrectable error: in a lane register that it reads, or in the byte of a
  window at `va` (R68, R284) -/
  | upset (t a : Nat) (va : Option Nat)
  /-- the directory evicts the entry of the 4 KiB region at `r` (R256) -/
  | reclaim (r : Nat)
  /-- the line at `pa` fails its CRC-32C as it is next read, whoever reads it: an engine, the host, a peer, a core, or a merge of
  part of it (R391) -/
  | crcError (pa : Nat)
  deriving DecidableEq, Repr

/-- The whole machine. -/
structure State where
  /-- the issuing agent: team and group index -/
  cur     : Nat × Nat
  /-- groups and side sequencers, keyed 32 · team + index -/
  groups  : Tab Group
  teams   : Tab Team
  cores   : Tab Core
  /-- device memory and host memory by physical address -/
  mem     : Memory
  lines   : Tab HLine
  /-- poison of lines that have left their home slices; one not listed is poisoned just if its die has rejoined since it was last
  written (R253, R392) -/
  memPoison : Tab Poison
  grids   : Tab Grid
  graphs  : List Graph
  /-- READY nodes (graph, node), in the order in which they became READY; those of a stage that is held are not yet in the pool
  (R353, R363) -/
  ready   : List (Nat × Nat)
  net     : Net
  dev     : Dev
  /-- turns that are to be taken next; when none is listed the machine takes the turn of `State.ownTurn` -/
  agenda  : List Turn
  /-- the model's own counter from which undefined values are drawn (R58; log entry 5) -/
  fresh   : Nat
  /-- next team, grid number -/
  nextKey : Nat
  deriving DecidableEq, Repr

/-! ### The machine after reset -/

/-- A vector whose entries are all `a`. -/
def fillv {α : Type} (n : Nat) (a : α) : Vector α n := ⟨⟨List.replicate n a⟩, by simp⟩

/-- A vector of `n` entries from a function of the index. -/
def vecOf {α : Type} (n : Nat) (f : Nat → α) : Vector α n := ⟨⟨(List.range n).map f⟩, by simp⟩

/-- A group at launch: every register 0, every lane at address 0 and none active (R57). -/
def Group.empty : Group :=
  { pcs := fillv 32 0, active := 0, v := fillv 128 (fillv 32 0), s := fillv 64 0, k := fillv 8 0, fpcr := 0, fpsr := 0,
    gen := 0, status := .ended, outs := [], tickets := [], stores := [], fpw := none, skid := 0,
    daddQ := fillv 32 0, claimQ := 0, seqSt := 0, hold := [], xfer := [], saving := false }

def Kernel.empty : Kernel :=
  { desc := 0, entry := 0, groups := 0, w := 0, h := 0, lswin := 0, carry := [], fore := 0xFFFFFFFF, hind := 0xFFFFFFFF }

def Context.empty : Context :=
  { asid := 0, wt := 1, sup := false, l1pa := 0, rbase := 0, rsize := 0, hdl := 0, crt := 0, seeds := 0, nseed := 0 }

def PhaseUse.none : PhaseUse :=
  { localStore := false, matrix := false, atomic := false, engine := false, launch := false, uncached := false,
    release := false, side := false }

/-- No team. -/
def Team.empty : Team :=
  { grid := 0, asid := 0, rank := 0, core := 0, cluster := 0, px := 0, py := 0, w := 1, h := 1, ngrp := 0, lswin := 0,
    lbase := 0, param := 0, node := 0, attempt := 0, sup := false, kernel := Kernel.empty, ctx := Context.empty,
    status := .ended, hb := fillv 8 0, hbHeld := [], hbq := [], unpub := [], pubs := [], pubTrap := Option.none, remTrap := [], got := 0,
    viewFrom := 0, lineFrom := [], begun := Option.none, phase := 0, used := PhaseUse.none, ct := 0, trap := Option.none, orig := Option.none, bct := 0, bcbar := false, trecVA := 0,
    atB := false, plist := [], handles := Option.none, resumed := false, missing := 0, refill := [], awaits := [], request := Option.none, ending := false,
    ls := [], lsBad := [], engCount := 0, ovf := [], forced := false, recVA := 0, late := [], kept := [], array := Option.none, restart := Option.none, restHb := fillv 8 0, rpc := 0, cset := 0xFFFF
    closed := [], trapW := 0, placedAt := 0 }

def Elem.zero : Elem := { o0 := [], o1 := [], o2 := [], s := 0, c := 0 }

/-- A tile of a team that has just become the holder: unconfigured (R194). -/
def Tile.empty (cols : Nat) : Tile :=
  { pleat := 0, cfg := 0, x := 0, window := [], cols := cols, elems := [], lint := fillv 4 0, darn := 0,
    side := fillv 32 (0xFF800000, 0) }

/-- A core at reset: CT 0, no copies, an L1 of 256 KiB (R223, R262). -/
def Core.empty : Core :=
  { ct := 0, gen := false, copies := [], l1 := 1, l1next := [], ltt := [], engT := 0, holder := Option.none,
    tiles := fillv 4 (Tile.empty 32), table := [], queue := [], round := [] }

/-- A grid number that names no grid. -/
def Grid.empty : Grid :=
  { gi := 0, node := 0, ctx := Context.empty, kernel := Kernel.empty, hkernel := Option.none, teams := 0, w := 1, h := 1,
    groups := 0, lswin := 0, params := 0, attempt := 0, idem := false, det := false, seed := 0, decls := [],
    shadow := [], bound := 0, done := [], ended := [], times := [], held := [], claims := [], runs := 0, spill := 0,
    failing := Option.none, predW := 0 }

def Net.empty : Net :=
  { reqs := [], reps := [], remote := [], cmds := [], graphRq := [], pageRq := [], collapse := [], snoops := [],
    hostRq := [], ingress := [], shadows := [], gclosed := [], held := [], nextId := 1 }

/-- The control die after a module reset (R340, R388, R390, R395, R398); the bridge links have been trained. -/
def Dev.reset : Dev :=
  { ctxtab := 0
    cmask := fillv 5 0xFFFFFFFFFFFFFFFF |> (fun v => vset v 4 0xFFFFFFFF)
    wdog := 1000000, dlim := 100, quant := 1000, tbgen := 0, rebase := false, j := 0, memo := fillv 32 0
    dies := fillv 2 { alive := true, gated := false, fenced := false, inc := 1, cocoon := Option.none, stale := false }
    links := fillv 3 .up
    expbase := 0, gate := 0, crcerr := 0, dom := 0, mem := 0, stations := fillv 8 false, devinc := 1, rdy := true
    d3 := false, power := true, watts := 3000, hostUp := true, hostShut := false, hdm := Option.none, gran := [], mtb := [], hostLines := [], moves := []
    trust := { active := false, verA := 0, verB := 0, imgA := 0, imgB := 1, rollback := 0, pending := false, lc := 0, lcNext := 0, dbg := 0,
               dbgNext := 0, session := false, written := [] }
    out := [] }

/-- The machine right after its first module reset: memory all zero, no team, no graph, no message in flight. Values that no
rule states are a DESIGN CHOICE, log entry 6; unsafe. -/
def State.reset : State :=
  { cur := (0, 0), groups := [], teams := [], cores := [], mem := [], lines := [], memPoison := [], grids := [], graphs := [],
    ready := [], net := Net.empty, dev := Dev.reset, agenda := [], fresh := 0, nextKey := 1 }

end Sys2Proof.Machine
end

