-- ==== Sys2Proof/Machine/Float.lean ====
section
/-!
DEFINITION. Number formats and the floating-point computations of the lanes: the value of an encoding (R157), one
exact intermediate result, and the one rounding that every floating-point function performs (R79 to R83). An exact
result is a sign, a natural number and a power of two; the functions whose results are irrational carry 400 bits
and a set last bit in place of the rest.
-/

namespace Sys2Proof.Machine

open Sys2Proof

/-! ### Formats and the values of encodings (R156, R157) -/

/-- A floating format: widths of exponent and fraction, bias, the largest finite magnitude code, the code of
infinity where the format has one, and the canonical NaN (R81, R156). -/
structure Fmt where
  ew   : Nat
  fw   : Nat
  bias : Nat
  maxC : Nat
  infC : Option Nat
  nanC : Option Nat
  deriving DecidableEq, Repr

def fp32 : Fmt := { ew := 8, fw := 23, bias := 127, maxC := 0x7F7FFFFF, infC := some 0x7F800000, nanC := some 0x7FC00000 }
def bf16 : Fmt := { ew := 8, fw := 7, bias := 127, maxC := 0x7F7F, infC := some 0x7F80, nanC := some 0x7FC0 }
def fp16 : Fmt := { ew := 5, fw := 10, bias := 15, maxC := 0x7BFF, infC := some 0x7C00, nanC := some 0x7E00 }
def e4m3 : Fmt := { ew := 4, fw := 3, bias := 7, maxC := 0x7E, infC := none, nanC := some 0x7F }
def e5m2 : Fmt := { ew := 5, fw := 2, bias := 15, maxC := 0x7B, infC := some 0x7C, nanC := some 0x7E }
def e2m1 : Fmt := { ew := 2, fw := 1, bias := 1, maxC := 0x7, infC := none, nanC := none }
def e2m3 : Fmt := { ew := 2, fw := 3, bias := 1, maxC := 0x1F, infC := none, nanC := none }
def e3m2 : Fmt := { ew := 3, fw := 2, bias := 3, maxC := 0x1F, infC := none, nanC := none }

/-- Width of an encoding in bits. -/
def Fmt.bits (f : Fmt) : Nat := f.ew + f.fw + 1
/-- The exponent of the least significant bit of a subnormal. -/
def Fmt.emin (f : Fmt) : Int := 1 - (f.bias : Int) - (f.fw : Int)

/-- What an encoding stands for: (-1)^neg × m × 2^e (a zero has m = 0), an infinity, or a NaN. -/
inductive FVal where
  | num (neg : Bool) (m : Nat) (e : Int)
  | inf (neg : Bool)
  | nan (signalling : Bool)
  deriving DecidableEq, Repr

/-- The value of encoding `c` (R157). -/
def Fmt.decode (f : Fmt) (c : Nat) : FVal :=
  let neg := c / 2 ^ (f.ew + f.fw) % 2 = 1
  let mag := c % 2 ^ (f.ew + f.fw)
  let ex := mag / 2 ^ f.fw
  let fr := mag % 2 ^ f.fw
  if mag ≤ f.maxC then
    if ex = 0 then .num neg fr f.emin
    else .num neg (2 ^ f.fw + fr) (f.emin + (ex : Int) - 1)
  else if f.infC = some mag then .inf neg
  else .nan (f.infC.isSome && decide (fr / 2 ^ (f.fw - 1) = 0))

/-- An encoding whose subnormal magnitude is replaced by zero (R79). -/
def Fmt.flush (f : Fmt) (c : Nat) : Nat :=
  if c % 2 ^ (f.ew + f.fw) / 2 ^ f.fw = 0 then c / 2 ^ (f.ew + f.fw) * 2 ^ (f.ew + f.fw) else c

/-- `in32`, `in16` and `inbf`: the value read under cr.fpcr.fz. -/
def Fmt.input (f : Fmt) (fz : Bool) (c : Nat) : FVal := f.decode (if fz then f.flush c else c)

/-- An encoding with the given sign and magnitude code. -/
def Fmt.pack (f : Fmt) (neg : Bool) (mag : Nat) : Nat := mag + if neg then 2 ^ (f.ew + f.fw) else 0

def FVal.isNum : FVal → Bool
  | .num _ _ _ => true
  | _ => false
def FVal.isNan : FVal → Bool
  | .nan _ => true
  | _ => false
def FVal.isSnan : FVal → Bool
  | .nan s => s
  | _ => false
def FVal.isZero : FVal → Bool
  | .num _ m _ => decide (m = 0)
  | _ => false
def FVal.isNeg : FVal → Bool
  | .num n _ _ => n
  | .inf n => n
  | .nan _ => false

/-- Number of bits of `m`; 0 for 0. -/
def bitlen (m : Nat) : Nat := if m = 0 then 0 else m.log2 + 1

/-- m × 2^e as an integer multiple of 2^q, for q ≤ e. -/
def scaleTo (m : Nat) (e q : Int) : Nat := m * 2 ^ (e - q).toNat

/-- A signed magnitude as an integer. -/
def signed (neg : Bool) (m : Nat) : Int := if neg then -(m : Int) else m

/-- Order of two numbers: the integer whose sign is that of a − b, for numbers and infinities. -/
def FVal.diff : FVal → FVal → Int
  | .num n1 m1 e1, .num n2 m2 e2 =>
    let q := Min.min e1 e2
    signed n1 (scaleTo m1 e1 q) - signed n2 (scaleTo m2 e2 q)
  | .inf n1, .inf n2 => signed n1 1 - signed n2 1
  | .inf n1, _ => signed n1 1
  | _, .inf n2 => - signed n2 1
  | _, _ => 0

/-! ### Rounding (R79, R80) -/

/-- The flags of cr.fpsr, in its bit order (R55). -/
structure Flags where
  nv : Bool
  dz : Bool
  of_ : Bool
  uf : Bool
  nx : Bool
  deriving DecidableEq, Repr

def Flags.none : Flags := { nv := false, dz := false, of_ := false, uf := false, nx := false }
def Flags.invalid (b : Bool) : Flags := { Flags.none with nv := b }
def Flags.or (a b : Flags) : Flags :=
  { nv := a.nv || b.nv, dz := a.dz || b.dz, of_ := a.of_ || b.of_, uf := a.uf || b.uf, nx := a.nx || b.nx }
/-- The flags as bits [4:0] of cr.fpsr. -/
def Flags.bits (f : Flags) : BitVec 5 :=
  BitVec.ofNat 5 ((if f.nv then 1 else 0) + (if f.dz then 2 else 0) + (if f.of_ then 4 else 0)
    + (if f.uf then 8 else 0) + (if f.nx then 16 else 0))

/-- Rounding directions of cr.fpcr.rm and of packets (R55, R167). -/
inductive Rm where
  | rne | rz | rd | ru
  deriving DecidableEq, Repr

def Rm.ofNat' (n : Nat) : Rm := if n = 0 then .rne else if n = 1 then .rz else if n = 2 then .rd else .ru

/-- n plus the discarded part rem / 2^d, rounded to an integer in direction `rm`. -/
def roundUnit (rm : Rm) (neg : Bool) (n rem d : Nat) : Nat :=
  let half := 2 ^ d
  match rm with
  | .rne => if rem * 2 > half || (rem * 2 == half && n % 2 == 1) then n + 1 else n
  | .rz => n
  | .rd => if neg && rem != 0 then n + 1 else n
  | .ru => if !neg && rem != 0 then n + 1 else n

/-- m × 2^e rounded to a multiple of 2^q: the multiple, and whether it is exact. -/
def roundAt (rm : Rm) (neg : Bool) (m : Nat) (e q : Int) : Nat × Bool :=
  if q ≤ e then (scaleTo m e q, true)
  else
    let d := (q - e).toNat
    (roundUnit rm neg (m / 2 ^ d) (m % 2 ^ d) d, decide (m % 2 ^ d = 0))

/-- Code of the value on overflow (R80); E4M3 gives its largest finite value in every direction (R107). -/
def Fmt.overflow (f : Fmt) (rm : Rm) (neg : Bool) : Nat :=
  match f.infC with
  | Option.none => f.pack neg f.maxC
  | some inf =>
    match rm, neg with
    | .rne, _ => f.pack neg inf
    | .rz, _ => f.pack neg f.maxC
    | .rd, false => f.pack neg f.maxC
    | .rd, true => f.pack neg inf
    | .ru, false => f.pack neg inf
    | .ru, true => f.pack neg f.maxC

/-- `rnd(fmt, x)` for a number x = (-1)^neg × m × 2^e: its encoding and the flags (R79, R80). -/
def Fmt.round (f : Fmt) (rm : Rm) (fz : Bool) (neg : Bool) (m : Nat) (e : Int) : Nat × Flags :=
  if m = 0 then (f.pack neg 0, .none)
  else
    let top : Int := (bitlen m : Int) + e
    let qu : Int := top - 1 - f.fw
    let q : Int := Max.max qu f.emin
    let r := roundAt rm neg m e q
    let ru := roundAt rm neg m e qu
    let code := (q - f.emin).toNat * 2 ^ f.fw + r.1
    let tiny := decide (top ≤ 1 - (f.bias : Int))
      && !(decide (top = 1 - (f.bias : Int)) && decide (ru.1 = 2 ^ (f.fw + 1)))
    if code > f.maxC then (f.overflow rm neg, { Flags.none with of_ := true, nx := true })
    else if tiny && fz then (f.pack neg 0, { Flags.none with uf := true, nx := true })
    else (f.pack neg code, { Flags.none with uf := tiny && !r.2, nx := !r.2 })

/-- A result before its rounding: the value and the flags the operation itself raises. -/
structure Exact where
  val   : FVal
  flags : Flags
  deriving DecidableEq, Repr

/-- The encoding of a result, and all its flags. -/
def Fmt.deliver (f : Fmt) (rm : Rm) (fz : Bool) (x : Exact) : Nat × Flags :=
  match x.val with
  | .nan _ => (f.nanC.getD 0, x.flags)
  | .inf n => (f.pack n (f.infC.getD f.maxC), x.flags)
  | .num n m e =>
    let r := f.round rm fz n m e
    (r.1, x.flags.or r.2)

/-! ### Exact operations (R81, R93) -/

def exNum (n : Bool) (m : Nat) (e : Int) : Exact := { val := .num n m e, flags := .none }
def exInvalid : Exact := { val := .nan false, flags := .invalid true }
/-- The canonical NaN, with nv when an operand was signalling. -/
def exNan (snan : Bool) : Exact := { val := .nan false, flags := .invalid snan }

/-- Exact sum of two numbers; an exact zero sum takes the sign R93 gives. -/
def addNum (rm : Rm) (n1 : Bool) (m1 : Nat) (e1 : Int) (n2 : Bool) (m2 : Nat) (e2 : Int) : FVal :=
  let q := Min.min e1 e2
  let s := signed n1 (scaleTo m1 e1 q) + signed n2 (scaleTo m2 e2 q)
  if s = 0 then
    .num (if m1 = 0 ∧ m2 = 0 ∧ n1 = n2 then n1 else decide (rm = .rd)) 0 0
  else .num (decide (s < 0)) s.natAbs q

def fAdd (rm : Rm) (a b : FVal) : Exact :=
  if a.isNan || b.isNan then exNan (a.isSnan || b.isSnan)
  else match a, b with
  | .inf n1, .inf n2 => if n1 = n2 then { val := .inf n1, flags := .none } else exInvalid
  | .inf n1, _ => { val := .inf n1, flags := .none }
  | _, .inf n2 => { val := .inf n2, flags := .none }
  | .num n1 m1 e1, .num n2 m2 e2 => { val := addNum rm n1 m1 e1 n2 m2 e2, flags := .none }
  | _, _ => exNan false

/-- The value with its sign changed; a NaN stays as it is. -/
def FVal.negate : FVal → FVal
  | .num n m e => .num (!n) m e
  | .inf n => .inf (!n)
  | .nan s => .nan s

def fSub (rm : Rm) (a b : FVal) : Exact := fAdd rm a b.negate

/-- Exact product; 0 × ∞ is invalid. ∞ × ∞ is an ∞ of the product's sign also as a term of the pleat tree (DESIGN CHOICE, log entry 77;
R176). -/
def fMul (a b : FVal) : Exact :=
  if a.isNan || b.isNan then exNan (a.isSnan || b.isSnan)
  else match a, b with
  | .num n1 m1 e1, .num n2 m2 e2 => exNum (xor n1 n2) (m1 * m2) (e1 + e2)
  | _, _ =>
    if a.isZero || b.isZero then exInvalid
    else { val := .inf (xor a.isNeg b.isNeg), flags := .none }

/-- Exact a × b + d; 0 × ∞ is invalid whatever d is (R93). -/
def fFma (rm : Rm) (a b d : FVal) : Exact :=
  let zi := (a.isZero && (!b.isNum && !b.isNan)) || (b.isZero && (!a.isNum && !a.isNan))
  if zi then exInvalid
  else if a.isNan || b.isNan || d.isNan then exNan (a.isSnan || b.isSnan || d.isSnan)
  else
    let p := fMul a b
    let s := fAdd rm p.val d
    { val := s.val, flags := s.flags }

/-! ### Comparison, minimum and maximum (R90, R91, R94) -/

/-- The FCMP column of R41. -/
def fTest (c : Cond) (a b : FVal) : Bool :=
  let un := a.isNan || b.isNan
  let d := a.diff b
  match c with
  | .eq => !un && d == 0
  | .ne => un || d != 0
  | .lt => !un && decide (d < 0)
  | .le => !un && decide (d ≤ 0)
  | .gt => !un && decide (d > 0)
  | .ge => !un && decide (d ≥ 0)
  | .un => un
  | .ord => !un

/-- FMIN (`mx` false) or FMAX of two encodings of format `f`, flushed already: the operand delivered (R94). -/
def Fmt.minmax (f : Fmt) (mx : Bool) (x y : Nat) : Nat × Flags :=
  let a := f.decode x
  let b := f.decode y
  let fl := Flags.invalid (a.isSnan || b.isSnan)
  if a.isNan && b.isNan then (f.nanC.getD 0, fl)
  else if a.isNan then (y, fl)
  else if b.isNan then (x, fl)
  else
    let d := a.diff b
    let less := decide (d < 0) || (decide (d = 0) && a.isNeg && !b.isNeg)
    (if xor less mx then x else y, fl)

/-! ### Integers (R104) -/

/-- A number rounded to an integer in direction `rm`: magnitude, and whether it is exact. -/
def toIntegral (rm : Rm) (neg : Bool) (m : Nat) (e : Int) : Nat × Bool := roundAt rm neg m e 0

/-- FRND. -/
def fRnd (rm : Rm) (a : FVal) : Exact :=
  match a with
  | .nan s => exNan s
  | .inf n => { val := .inf n, flags := .none }
  | .num n m e => exNum n (toIntegral rm n m e).1 0

/-- CVTFI: the signed 32-bit integer and the flags. -/
def fToInt (rm : Rm) (a : FVal) : BitVec 32 × Flags :=
  match a with
  | .nan _ => (0, .invalid true)
  | .inf n => (if n then 0x80000000 else 0x7FFFFFFF, .invalid true)
  | .num n m e =>
    let r := toIntegral rm n m e
    let v := signed n r.1
    if v > 2147483647 then (0x7FFFFFFF, .invalid true)
    else if v < -2147483648 then (0x80000000, .invalid true)
    else (BitVec.ofInt 32 v, { Flags.none with nx := !r.2 })

/-- CVTIF and CVTNF of an integer. -/
def fOfInt (v : Int) : Exact := exNum (decide (v < 0)) v.natAbs 0

/-! ### Reciprocals, exponential, logarithm, sine and cosine (R83, R103) -/

/-- An irrational or non-terminating positive result m × 2^e with its last bit standing for the rest. -/
def jam (n : Bool) (m : Nat) (e : Int) : Exact := exNum n (2 * m + 1) (e - 1)

def fRcp (a : FVal) : Exact :=
  match a with
  | .nan s => exNan s
  | .inf n => exNum n 0 0
  | .num n m e =>
    if m = 0 then { val := .inf n, flags := { Flags.none with dz := true } }
    else
      let k := bitlen m + 64
      let q := 2 ^ k / m
      if 2 ^ k % m = 0 then exNum n q (-(k : Int) - e) else jam n q (-(k : Int) - e)

/-- The integer square root of `x`, found bit by bit from bit `b` down. -/
def isqrtFrom : Nat → Nat → Nat → Nat
  | 0, _, r => r
  | b + 1, x, r =>
    let c := r + 2 ^ b
    isqrtFrom b x (if c * c ≤ x then c else r)

def isqrt (x : Nat) : Nat := isqrtFrom (bitlen x / 2 + 1) x 0

def fRsq (a : FVal) : Exact :=
  match a with
  | .nan s => exNan s
  | .inf n => if n then exInvalid else exNum false 0 0
  | .num n m e =>
    if m = 0 then { val := .inf n, flags := { Flags.none with dz := true } }
    else if n then exInvalid
    else
      let odd := e % 2 ≠ 0
      let m' := if odd then 2 * m else m
      let e' := if odd then e - 1 else e
      let r := isqrt (2 ^ 160 / m')
      if r * r * m' = 2 ^ 160 then exNum false r (-80 - e' / 2) else jam false r (-80 - e' / 2)

/-- 1 in fixed point: 2^400. -/
def fixOne : Nat := 0x10000000000000000000000000000000000000000000000000000000000000000000000000000000000000000000000000000
/-- π × 2^400, rounded down. -/
def fixPi : Nat := 0x3243f6a8885a308d313198a2e03707344a4093822299f31d0082efa98ec4e6c89452821e638d01377be5466cf34e90c6cc0ac
/-- ln 2 × 2^400, rounded down. -/
def fixLn2 : Nat := 0xb17217f7d1cf79abc9e3b39803f2f6af40f343267298b62d8a0d175b8baafa2be7b876206debac98559552fb4afa1b10ed2e

/-- m × 2^e in fixed point; exact for every FP32 value, none of which has a bit below 2^-149. -/
def fixScale (m : Nat) (e : Int) : Nat :=
  if 0 ≤ e then m * fixOne * 2 ^ e.toNat else m * fixOne / 2 ^ (-e).toNat

/-- A positive fixed-point result times 2^i, cut to 200 fraction bits, the last bit standing for the rest. -/
def fixJam (n : Bool) (m : Nat) (i : Int) : Exact := jam n (m / 2 ^ 200) (i - 200)

/-- Sum of y^k / k! from term `t` = y^(k-1)/(k-1)! on, for `fuel` terms. -/
def expSeries : Nat → Nat → Nat → Nat → Nat
  | 0, _, _, _ => 0
  | fuel + 1, y, k, t =>
    let t' := t * y / fixOne / k
    t' + expSeries fuel y (k + 1) t'

/-- e^y for a fixed-point y in [0, 1). -/
def fixExp (y : Nat) : Nat := fixOne + expSeries 100 y 1 (fixOne)

def fExp2 (a : FVal) : Exact :=
  match a with
  | .nan s => exNan s
  | .inf n => if n then exNum false 0 0 else { val := .inf false, flags := .none }
  | .num n m e =>
    if m = 0 then exNum false 1 0
    else if (bitlen m : Int) + e > 8 then
      -- |x| ≥ 256: beyond every finite value, or below every subnormal
      if n then exNum false 1 (-300) else exNum false 1 300
    else
      let x := signed n (fixScale m e)
      let i := x / fixOne
      let f := (x % fixOne).toNat
      if f = 0 then exNum false 1 i else fixJam false (fixExp (f * fixLn2 / fixOne)) i

/-- Sum of z^(2k+1) / (2k+1) from the power `t` = z^(2k+1) on. -/
def atanhSeries : Nat → Nat → Nat → Nat → Nat
  | 0, _, _, _ => 0
  | fuel + 1, zz, k, t => t / k + atanhSeries fuel zz (k + 2) (t * zz / fixOne)

/-- ln(1 + g) for a fixed-point g in [0, 1). -/
def fixLn1p (g : Nat) : Nat :=
  let z := g * fixOne / (2 * fixOne + g)
  2 * atanhSeries 140 (z * z / fixOne) 1 z

def fLog2 (a : FVal) : Exact :=
  match a with
  | .nan s => exNan s
  | .inf n => if n then exInvalid else { val := .inf false, flags := .none }
  | .num n m e =>
    if m = 0 then { val := .inf true, flags := { Flags.none with dz := true } }
    else if n then exInvalid
    else
      let b := bitlen m - 1
      let i : Int := (b : Int) + e
      let g := (m - 2 ^ b) * (fixOne / 2 ^ b)
      if g = 0 then fOfInt i
      else
        let v : Int := i * fixOne + ((fixLn1p g * fixOne / fixLn2 : Nat) : Int)
        if v < 0 then fixJam true (v.natAbs - 1) 0 else fixJam false v.natAbs 0

/-- Alternating sum of the sine series from the term `t` = y^k / k! on. -/
def sinSeries : Nat → Nat → Nat → Nat → Int
  | 0, _, _, _ => 0
  | fuel + 1, yy, k, t => (t : Int) - sinSeries fuel yy (k + 2) (t * yy / fixOne / ((k + 1) * (k + 2)))

/-- sin(π r) for a fixed-point r in [0, 1/2]. -/
def fixSinPi (r : Nat) : Nat :=
  let y := fixPi * r / fixOne
  (sinSeries 60 (y * y / fixOne) 1 y).toNat

/-- |x| modulo 2 as a fixed-point number; exact, as no FP32 value has bits below 2^-149. -/
def fixMod2 (m : Nat) (e : Int) : Nat :=
  fixScale m e % (2 * fixOne)

/-- ± sin(π r) for r in [0, 1/2]; 1 at one half. -/
def sinOf (n : Bool) (r : Nat) : Exact :=
  if 2 * r = fixOne then exNum n 1 0 else fixJam n (fixSinPi r) 0

def fSin (a : FVal) : Exact :=
  match a with
  | .nan s => exNan s
  | .inf _ => exInvalid
  | .num n m e =>
    let one := fixOne
    let r := fixMod2 m e
    if r % one = 0 then exNum n 0 0
    else
      let up := decide (r > one)
      let r1 := if up then r - one else r
      sinOf (xor n up) (if 2 * r1 > one then one - r1 else r1)

def fCos (a : FVal) : Exact :=
  match a with
  | .nan s => exNan s
  | .inf _ => exInvalid
  | .num _ m e =>
    let one := fixOne
    let r := fixMod2 m e
    let r1 := if r > one then 2 * one - r else r
    if 2 * r1 = one then exNum false 0 0
    else if r1 = 0 then exNum false 1 0
    else if r1 = one then exNum true 1 0
    else if 2 * r1 < one then sinOf false ((one - 2 * r1) / 2) else sinOf true ((2 * r1 - one) / 2)

/-! ### Widening (R106, R108, R109) -/

/-- A value widened exactly to FP32; a NaN becomes the canonical one. -/
def widen (a : FVal) : Nat × Flags :=
  match a with
  | .nan s => (0x7FC00000, .invalid s)
  | .inf n => (fp32.pack n 0x7F800000, .none)
  | .num n m e => ((fp32.round .rne false n m e).1, .none)

end Sys2Proof.Machine
end

