-- ==== Sys2Proof/Machine/Bits.lean ====
section
/-!
DEFINITION. Bit fields, byte order and sign extension (R6): the plain arithmetic that the layouts of the manual are
read and written with.
-/

namespace Sys2Proof.Machine

open Sys2Proof

/-- Bits [hi:lo] of a natural number. -/
def bitsOf (w hi lo : Nat) : Nat := w / 2 ^ lo % 2 ^ (hi + 1 - lo)

/-- Bit `i` of a natural number. -/
def bitOf (w i : Nat) : Bool := decide (w / 2 ^ i % 2 = 1)

/-- The `k` low bytes of `n`, least significant first (R6). -/
def bytesLE : Nat → Nat → List Byte
  | 0, _ => []
  | k + 1, n => BitVec.ofNat 8 n :: bytesLE k (n / 256)

/-- The number that bytes stand for, least significant first (R6). -/
def natLE : List Byte → Nat
  | [] => 0
  | b :: t => b.toNat + 256 * natLE t

theorem bytesLE_length (k n : Nat) : (bytesLE k n).length = k := by
  induction k generalizing n with
  | zero => rfl
  | succ k ih => simp [bytesLE, ih]

theorem natLE_bytesLE (k n : Nat) : natLE (bytesLE k n) = n % 256 ^ k := by
  induction k generalizing n with
  | zero => simp [bytesLE, natLE, Nat.mod_one]
  | succ k ih =>
    rw [bytesLE, natLE, ih, BitVec.toNat_ofNat]
    have h : n % 256 ^ (k + 1) = n % 256 + 256 * (n / 256 % 256 ^ k) := by
      rw [Nat.pow_succ, Nat.mul_comm (256 ^ k) 256, Nat.mod_mul]
    exact h.symm

/-- A list of bytes cut or filled with zeros to length `k`. -/
def padBytes (k : Nat) (bs : List Byte) : List Byte := (bs ++ List.replicate k 0).take k

/-- Sign extension of a field of `w` bits to 64 bits. -/
def sext64 {w : Nat} (x : BitVec w) : DWord := x.signExtend 64
/-- Sign extension of a field to 32 bits. -/
def sext32 {w : Nat} (x : BitVec w) : Word := x.signExtend 32

/-- Least n with x ≤ 2^n. -/
def ceilLog2 (x : Nat) : Nat := if x ≤ 1 then 0 else (x - 1).log2 + 1

/-- Number of 1 bits among the low `k` bits of `n`. -/
def popCount : Nat → Nat → Nat
  | 0, _ => 0
  | k + 1, n => n % 2 + popCount k (n / 2)

/-- Number of leading zeros in `w` bits. -/
def leadingZeros (w n : Nat) : Nat := if n = 0 then w else w - (n.log2 + 1)

/-- The low `w` bits of `n` in reverse order. -/
def reverseBits : Nat → Nat → Nat
  | 0, _ => 0
  | w + 1, n => (n % 2) * 2 ^ w + reverseBits w (n / 2)

/-- An element and the rest of a list at place `n`. -/
def takeAt {α : Type} : List α → Nat → Option (α × List α)
  | [], _ => none
  | a :: t, 0 => some (a, t)
  | a :: t, n + 1 => (takeAt t n).map (fun p => (p.1, a :: p.2))

/-- Entry `n` of a list replaced by its image. -/
def modifyAt {α : Type} : List α → Nat → (α → α) → List α
  | [], _, _ => []
  | a :: t, 0, f => f a :: t
  | a :: t, n + 1, f => a :: modifyAt t n f

/-- A list with repeated numbers dropped, the first of each kept. -/
def distinct : List Nat → List Nat
  | [] => []
  | a :: t => a :: (distinct t).filter (fun b => b ≠ a)

/-- The largest of a list and `d`. -/
def maxOf (d : Nat) (l : List Nat) : Nat := l.foldl Nat.max d

/-- Every address of a run of `n` bytes from `a`. -/
def addrRange (a n : Nat) : List Nat := (List.range n).map (a + ·)

end Sys2Proof.Machine
end

