-- ==== Sys2Proof/Machine/Mem.lean ====
section
/-!
DEFINITION. Bytes of memory in one canonical form: addresses strictly rising and no zero byte listed. An address
that is not listed reads as 0: R398 clears device memory at a module reset, and a window page with no backing copy
reads as zeros (R264).
-/

namespace Sys2Proof.Machine

open Sys2Proof

/-- What an address that is not listed reads as (R398). For host memory a DESIGN CHOICE, log entry 3; unsafe. -/
def Memory.unlisted : Byte := 0

/-- The byte at address `a`. -/
def Memory.read : Memory → Nat → Byte
  | [], _ => Memory.unlisted
  | (b, v) :: t, a => if a = b then v else if a < b then Memory.unlisted else Memory.read t a

/-- Memory with byte `v` at address `a`. -/
def Memory.write : Memory → Nat → Byte → Memory
  | [], a, v => if v = Memory.unlisted then [] else [(a, v)]
  | (b, w) :: t, a, v =>
    if a < b then (if v = Memory.unlisted then (b, w) :: t else (a, v) :: (b, w) :: t)
    else if a = b then (if v = Memory.unlisted then t else (a, v) :: t)
    else (b, w) :: Memory.write t a v

/-- The canonical form from address `lo` on. -/
def Memory.wfFrom : Nat → Memory → Bool
  | _, [] => true
  | lo, (b, v) :: t => decide (lo ≤ b) && decide (v ≠ Memory.unlisted) && Memory.wfFrom (b + 1) t

/-- The canonical form. -/
def Memory.wf (m : Memory) : Bool := Memory.wfFrom 0 m

/-- The `n` bytes from address `a`. -/
def Memory.readN (m : Memory) (a : Nat) : Nat → List Byte
  | 0 => []
  | n + 1 => m.read a :: Memory.readN m (a + 1) n

/-- Memory with the bytes `bs` from address `a`. -/
def Memory.writeN : Memory → Nat → List Byte → Memory
  | m, _, [] => m
  | m, a, b :: t => Memory.writeN (m.write a b) (a + 1) t

/-- Memory with each listed (address, byte) written, in order. -/
def Memory.writeList : Memory → List (Nat × Byte) → Memory
  | m, [] => m
  | m, (a, b) :: t => Memory.writeList (m.write a b) t

/-- The little-endian number in `n` bytes from address `a` (R6). -/
def Memory.readLE (m : Memory) (a n : Nat) : Nat := natLE (m.readN a n)

theorem Memory.wfFrom_mono {lo lo' : Nat} {m : Memory} (h : Memory.wfFrom lo m = true) (hl : lo' ≤ lo) :
    Memory.wfFrom lo' m = true := by
  cases m with
  | nil => rfl
  | cons p t =>
    obtain ⟨b, v⟩ := p
    simp only [Memory.wfFrom, Bool.and_eq_true, decide_eq_true_eq] at h ⊢
    exact ⟨⟨Nat.le_trans hl h.1.1, h.1.2⟩, h.2⟩

theorem Memory.wfFrom_write {lo : Nat} {m : Memory} {a : Nat} {v : Byte} (h : Memory.wfFrom lo m = true)
    (ha : lo ≤ a) : Memory.wfFrom lo (m.write a v) = true := by
  induction m generalizing lo with
  | nil => by_cases hv : v = Memory.unlisted <;> simp [Memory.write, Memory.wfFrom, hv, ha]
  | cons p t ih =>
    obtain ⟨b, w⟩ := p
    have h0 := h
    simp only [Memory.wfFrom, Bool.and_eq_true, decide_eq_true_eq] at h
    simp only [Memory.write]
    by_cases h1 : a < b
    · by_cases hv : v = Memory.unlisted
      · rw [if_pos h1, if_pos hv]; exact h0
      · rw [if_pos h1, if_neg hv]
        simp only [Memory.wfFrom, Bool.and_eq_true, decide_eq_true_eq]
        exact ⟨⟨ha, hv⟩, ⟨by omega, h.1.2⟩, h.2⟩
    · by_cases h2 : a = b
      · subst h2
        by_cases hv : v = Memory.unlisted
        · rw [if_neg h1, if_pos rfl, if_pos hv]; exact Memory.wfFrom_mono h.2 (by omega)
        · rw [if_neg h1, if_pos rfl, if_neg hv]
          simp only [Memory.wfFrom, Bool.and_eq_true, decide_eq_true_eq]
          exact ⟨⟨ha, hv⟩, h.2⟩
      · rw [if_neg h1, if_neg h2]
        simp only [Memory.wfFrom, Bool.and_eq_true, decide_eq_true_eq]
        exact ⟨⟨h.1.1, h.1.2⟩, ih h.2 (by omega)⟩

/-- A write keeps the canonical form. -/
theorem Memory.wf_write {m : Memory} (a : Nat) (v : Byte) (h : m.wf = true) : (m.write a v).wf = true :=
  Memory.wfFrom_write h (Nat.zero_le a)

theorem Memory.read_below {lo : Nat} {m : Memory} (h : Memory.wfFrom lo m = true) {a : Nat} (ha : a < lo) :
    m.read a = Memory.unlisted := by
  cases m with
  | nil => rfl
  | cons p t =>
    obtain ⟨b, v⟩ := p
    simp only [Memory.wfFrom, Bool.and_eq_true, decide_eq_true_eq] at h
    rw [Memory.read, if_neg (by omega), if_pos (by omega)]

theorem Memory.read_write_from {lo : Nat} {m : Memory} (h : Memory.wfFrom lo m = true) (a c : Nat) (v : Byte) :
    (m.write a v).read c = if c = a then v else m.read c := by
  induction m generalizing lo with
  | nil =>
    by_cases hv : v = Memory.unlisted
    · simp [Memory.write, Memory.read, hv]
    · simp [Memory.write, Memory.read, hv]
  | cons p t ih =>
    obtain ⟨b, w⟩ := p
    simp only [Memory.wfFrom, Bool.and_eq_true, decide_eq_true_eq] at h
    simp only [Memory.write]
    by_cases h1 : a < b
    · by_cases hv : v = Memory.unlisted
      · rw [if_pos h1, if_pos hv]
        by_cases hc : c = a
        · rw [if_pos hc, Memory.read, if_neg (by omega), if_pos (by omega), hv]
        · rw [if_neg hc]
      · rw [if_pos h1, if_neg hv, Memory.read]
        by_cases hc : c = a
        · rw [if_pos hc, if_pos hc]
        · rw [if_neg hc, if_neg hc]
          by_cases hca : c < a
          · rw [if_pos hca, Memory.read, if_neg (by omega), if_pos (by omega)]
          · rw [if_neg hca]
    · by_cases h2 : a = b
      · subst h2
        by_cases hv : v = Memory.unlisted
        · rw [if_neg h1, if_pos rfl, if_pos hv]
          by_cases hc : c = a
          · rw [if_pos hc, hc, Memory.read_below h.2 (by omega), hv]
          · rw [if_neg hc, Memory.read, if_neg hc]
            by_cases hca : c < a
            · rw [if_pos hca, Memory.read_below h.2 (by omega)]
            · rw [if_neg hca]
        · rw [if_neg h1, if_pos rfl, if_neg hv, Memory.read, Memory.read]
          by_cases hc : c = a
          · rw [if_pos hc, if_pos hc]
          · rw [if_neg hc, if_neg hc, if_neg hc]
      · rw [if_neg h1, if_neg h2, Memory.read, Memory.read]
        by_cases hc : c = b
        · rw [if_pos hc, if_neg (by omega), if_pos hc]
        · rw [if_neg hc, if_neg hc]
          by_cases hcb : c < b
          · rw [if_pos hcb, if_pos hcb, if_neg (by omega)]
          · rw [if_neg hcb, if_neg hcb, ih h.2]

/-- Reading after one write, in memory of the canonical form. -/
theorem Memory.read_write {m : Memory} (h : m.wf = true) (a c : Nat) (v : Byte) :
    (m.write a v).read c = if c = a then v else m.read c :=
  Memory.read_write_from h a c v

theorem Memory.wf_writeN {m : Memory} (a : Nat) (bs : List Byte) (h : m.wf = true) :
    (m.writeN a bs).wf = true := by
  induction bs generalizing m a with
  | nil => exact h
  | cons b t ih => exact ih (a + 1) (Memory.wf_write a b h)

theorem Memory.wf_writeList {m : Memory} (l : List (Nat × Byte)) (h : m.wf = true) :
    (m.writeList l).wf = true := by
  induction l generalizing m with
  | nil => exact h
  | cons p t ih => exact ih (Memory.wf_write p.1 p.2 h)

/-- A write of bytes leaves every other address as it was. -/
theorem Memory.read_writeN_out {m : Memory} (a : Nat) (bs : List Byte) (h : m.wf = true) (c : Nat)
    (hc : c < a ∨ a + bs.length ≤ c) : (m.writeN a bs).read c = m.read c := by
  induction bs generalizing m a with
  | nil => rfl
  | cons b t ih =>
    simp only [List.length_cons] at hc
    rw [Memory.writeN, ih (a + 1) (Memory.wf_write a b h) (by omega), Memory.read_write h,
      if_neg (by omega)]

/-- A read of the bytes just written gives them back. -/
theorem Memory.readN_writeN {m : Memory} (a : Nat) (bs : List Byte) (h : m.wf = true) :
    (m.writeN a bs).readN a bs.length = bs := by
  induction bs generalizing m a with
  | nil => rfl
  | cons b t ih =>
    simp only [List.length_cons, Memory.readN, Memory.writeN]
    rw [ih (a + 1) (Memory.wf_write a b h),
      Memory.read_writeN_out (a + 1) t (Memory.wf_write a b h) a (Or.inl (Nat.lt_succ_self a)),
      Memory.read_write h, if_pos rfl]

end Sys2Proof.Machine
end

