-- ==== Sys2Proof/Machine/Ops.lean ====
section
/-!
DEFINITION. The shared operations over the state: the agent whose turn it is, its registers, the issuing set and the
program counters (R59), undefined values (R58), last use (R66), trap entry (R332), core time (R223) with rebasing
(R245), and the sending of requests (R248).
-/

namespace Sys2Proof.Machine

open Sys2Proof

/-- The end of a step with a next state. -/
abbrev Out := Host.Outcome State Fault Refusal

/-! ### Agents -/

/-- Key of agent `a` of team `t`: a group 0 to 15, the forewing 16, the hindwing 17. -/
def agentKey (t a : Nat) : Nat := 32 * t + a

def State.agent (s : State) (t a : Nat) : Group := Tab.get Group.empty s.groups (agentKey t a)
def State.setAgent (s : State) (t a : Nat) (g : Group) : State :=
  { s with groups := Tab.set s.groups (agentKey t a) g }
def State.grp (s : State) : Group := s.agent s.cur.1 s.cur.2
def State.setGrp (s : State) (g : Group) : State := s.setAgent s.cur.1 s.cur.2 g

def State.teamOf (s : State) (t : Nat) : Team := Tab.get Team.empty s.teams t
def State.setTeamOf (s : State) (t : Nat) (x : Team) : State := { s with teams := Tab.set s.teams t x }
def State.team (s : State) : Team := s.teamOf s.cur.1
def State.setTeam (s : State) (x : Team) : State := s.setTeamOf s.cur.1 x

def State.coreOf (s : State) (c : Nat) : Core := Tab.get Core.empty s.cores c
def State.setCoreOf (s : State) (c : Nat) (x : Core) : State := { s with cores := Tab.set s.cores c x }
def State.core (s : State) : Core := s.coreOf s.team.core
def State.setCore (s : State) (x : Core) : State := s.setCoreOf s.team.core x

def State.gridOf (s : State) (g : Nat) : Grid := Tab.get Grid.empty s.grids g
def State.setGridOf (s : State) (g : Nat) (x : Grid) : State := { s with grids := Tab.set s.grids g x }

/-- The issuing agent is a side sequencer (R138). -/
def State.isSide (s : State) : Bool := decide (16 ≤ s.cur.2)

/-- The supervisor teams: those of a supervisor context and handler teams (R319, R335). -/
def State.isSup (s : State) : Bool := s.team.sup

/-- The agents of a team: its groups and its side sequencers. -/
def Team.agents (x : Team) : List Nat := List.range x.ngrp ++ [16, 17]

/-- Teams of the module, in the order in which they were made. -/
def State.teamKeys (s : State) : List Nat := Tab.keys s.teams

/-! ### The issuing set (R59) -/

def Group.lanePc (g : Group) (l : Nat) : BitVec 52 := vget 0 g.pcs l
def Group.isActive (g : Group) (l : Nat) : Bool := g.active.getLsbD l

/-- P, the lowest PC among the active lanes. -/
def Group.pc (g : Group) : BitVec 52 :=
  BitVec.ofNat 52 ((allLanes.filter g.isActive).foldl (fun m l => Nat.min m (g.lanePc l).toNat) (2 ^ 52 - 1))

/-- The issuing set: the active lanes whose PC equals P. -/
def Group.issuing (g : Group) (l : Nat) : Bool := g.isActive l && g.lanePc l == g.pc

/-- The issuing lanes in ascending order. -/
def Group.issuers (g : Group) : List Nat := allLanes.filter g.issuing

/-- The bit of predicate `k` in lane `l`; k0 reads as ones (R69). -/
def Group.getK (g : Group) (k : KReg) (l : Nat) : Bool := if k.val = 0 then true else (vget 0 g.k k.val).getLsbD l

/-- A predicate register as 32 bits. -/
def Group.kBits (g : Group) (k : KReg) : BitVec 32 := if k.val = 0 then BitVec.allOnes 32 else vget 0 g.k k.val

/-- The predicate that a kq or kc field names (R40). -/
def kq (q : Fin 4) : KReg := ⟨q.val, Nat.lt_trans q.isLt (by decide)⟩

/-- `acts(l)`: lane `l` issues and its predicate bit is set (R14, R59). -/
def Group.acts (g : Group) (q : Fin 4) (l : Nat) : Bool := g.issuing l && g.getK (kq q) l

/-- The acting lanes in ascending order. -/
def Group.actors (g : Group) (q : Fin 4) : List Nat := allLanes.filter (g.acts q)

/-- The issuing lanes move to the addresses of `f`; the other lanes keep their PCs. -/
def Group.jump (g : Group) (f : Nat → BitVec 52) : Group :=
  let m := g.issuers
  { g with pcs := lanesOf (fun l => if m.contains l then f l else g.lanePc l) }

/-- The issuing lanes move to P + 4. -/
def Group.advance (g : Group) : Group := let p := g.pc; g.jump (fun _ => p + 4)

/-- The issuing lanes of the current agent move to P + 4. -/
def State.advance (s : State) : State := s.setGrp s.grp.advance

/-! ### Registers -/

def Group.getV (g : Group) (r : VReg) : LaneVec := vget (fillv 32 0) g.v r.val
/-- Lane `l` of a lane register. -/
def Group.lane (g : Group) (r : VReg) (l : Nat) : Word := (g.getV r).get l
def Group.setV (g : Group) (r : VReg) (x : LaneVec) : Group := { g with v := vset g.v r.val x }

/-- A uniform register; s63 reads as 0 (R39, R111). -/
def Group.getS (g : Group) (r : SReg) : DWord := if r.val = 63 then 0 else vget 0 g.s r.val
/-- A write to a uniform register; one to s63 is discarded (R39). -/
def Group.setS (g : Group) (r : SReg) (x : DWord) : Group :=
  if r.val = 63 then g else { g with s := vset g.s r.val x }

/-- A write to a predicate register; k0 keeps reading as ones (R69). -/
def Group.setK (g : Group) (r : KReg) (x : BitVec 32) : Group :=
  if r.val = 0 then g else { g with k := vset g.k r.val x }

/-- `x` in the lanes of `m`, `old` in the others. -/
def mergeLanes (m : List Nat) (x : Nat → Word) (old : LaneVec) : LaneVec :=
  lanesOf (fun l => if m.contains l then x l else old.get l)

/-- The bits of `f` in the lanes of `m`, those of `old` in the others. -/
def mergeBits (m : List Nat) (f : Nat → Bool) (old : BitVec 32) : BitVec 32 :=
  BitVec.ofNat 32 (allLanes.foldl (fun a l =>
    a + if (if m.contains l then f l else old.getLsbD l) then 2 ^ l else 0) 0)

/-- The number of lane register `r` + `j`; the encodings keep it below 128 (R44). -/
def vplus (r : VReg) (j : Nat) : VReg := ⟨(r.val + j) % 128, Nat.mod_lt _ (by decide)⟩
/-- The number of uniform register `r` + `j`. -/
def splus (r : SReg) (j : Nat) : SReg := ⟨(r.val + j) % 64, Nat.mod_lt _ (by decide)⟩

/-! ### Undefined values and last use (R58, R66) -/

/-- The `n`-th undefined lane element. -/
def freeWord (n : Nat) : Word := (Config.freeBits n).setWidth 32

/-- A lane register whose every element is undefined. -/
def freeVec (n : Nat) : LaneVec := lanesOf (fun l => freeWord (n + l))

/-- A group that ends releases all of its lane registers: each is undefined, drawn from `n` on (R66). -/
def Group.releaseAll (g : Group) (n : Nat) : Group := { g with v := vecOf 128 (fun i => freeVec (n + 32 * i)) }

/-- Undefined values that the end of one group draws. -/
def releaseDraw : Nat := 4096

/-- After its last use a lane register is undefined in every lane (R66). -/
def State.releaseV (s : State) (r : VReg) : State :=
  { s.setGrp (s.grp.setV r (freeVec s.fresh)) with fresh := s.fresh + 32 }

/-- After its last use a uniform register is undefined (R13). -/
def State.releaseS (s : State) (r : SReg) : State :=
  { s.setGrp (s.grp.setS r (Config.freeBits s.fresh)) with fresh := s.fresh + 1 }

/-- Release of `r` when its last-use bit `y` is set. -/
def State.lastV (s : State) (y : Bool) (r : VReg) : State := if y then s.releaseV r else s
def State.lastS (s : State) (y : Bool) (r : SReg) : State := if y then s.releaseS r else s

/-! ### Traps (R50, R332) -/

/-- Kinds of a trap record (R333). -/
def kindFault : Nat := 0
def kindTrap : Nat := 1
def kindSysc : Nat := 2
def kindFp : Nat := 3
def kindWatchdog : Nat := 4

/-- Agent `a` of team `t` stops. The team's first trap is the one it reports; a sibling that would trap while the
halt is under way stops and reports nothing (R332). No agent 18 exists: what a flushed run asked for comes back to it
(R331). -/
def State.trapAgent (s : State) (t a code kind fva svc : Nat) : State :=
  if 18 ≤ a then s
  else
    let g := s.agent t a
    let x := s.teamOf t
    let s := s.setAgent t a { g with status := .trapped }
    match x.trap with
    | some _ => s
    | none => s.setTeamOf t { x with trap := some { code := code, kind := kind, agent := a, fva := fva, svc := svc } }

/-- The issuing agent raises a precise trap: no register, no memory and no PC changes (R50, R332). -/
def State.raise (s : State) (code fva : Nat) : State := s.trapAgent s.cur.1 s.cur.2 code kindFault fva 0

/-- Trap codes (R56). -/
def trapIllegal : Nat := 0x01
def trapPrivilege : Nat := 0x02
def trapMisaligned : Nat := 0x03
def trapNoMap : Nat := 0x04
def trapProtection : Nat := 0x05
def trapUniform : Nat := 0x06
def trapFloat : Nat := 0x07
def trapRange : Nat := 0x08
def trapPoison : Nat := 0x09
def trapPairing : Nat := 0x0A
def trapPleat : Nat := 0x0B
def trapTicket : Nat := 0x0C
def trapAbort : Nat := 0x0D
def trapWatchdog : Nat := 0x0E

/-! ### Times and rebasing (R223, R245, R246) -/

/-- A time that a rebase lowers by 2^30, clamped at 0. -/
def lowered (t : Nat) : Nat := t - 2 ^ 30

/-- The times of a reply, each changed by `f`. -/
def RepKind.mapTimes (f : Nat → Nat) (k : RepKind) : RepKind :=
  match k with
  | .renewed d wts rts l inc spin => .renewed d (f wts) (f rts) l inc spin
  | .published d w l inc => .published d (f w) l inc
  | .atomic d w l inc old lane => .atomic d (f w) l inc old lane
  | .uncached d w lane st => .uncached d (f w) lane st
  | .failed c p => .failed c p
  | .failedOp c k lane old => .failedOp c k lane old

/-- A team is cocooned: the control die holds its core's state and its replies, and a rebase treats it as adjusted (R339). -/
def State.cocooned (s : State) (t : Nat) : Bool := (s.teamOf t).status == .cocooned

/-- The control die starts a rebase: every time that is held outside the lines and the cores falls by 2^30, the core times
of requests on their way included, and so does what it holds of cocooned partitions, whose cores stand under the keys from 512 on;
other replies on their way stay in the time of the core that they go to (R245, R246, R339). -/
def State.startRebase (s : State) : State :=
  { s with
    dev := { s.dev with
      rebase := true, tbgen := s.dev.tbgen + 1, j := lowered s.dev.j
      memo := vsetAll s.dev.memo lowered }
    cores := s.cores.map (fun p =>
      if 512 ≤ p.1 then (p.1, { p.2 with ct := lowered p.2.ct, gen := decide ((s.dev.tbgen + 1) % 2 = 1), engT := lowered p.2.engT })
      else (p.1, { p.2 with engT := lowered p.2.engT }))
    grids := s.grids.map (fun p => (p.1, { p.2 with
      times := p.2.times.map (fun x => (x.1, x.2.1, lowered x.2.2)), predW := lowered p.2.predW
      shadow := p.2.shadow.map (fun x => (x.1, { x.2 with wts := lowered x.2.wts, rts := lowered x.2.rts })) }))
    graphs := s.graphs.map (fun gr => { gr with nodes := gr.nodes.map (fun n => { n with predW := lowered n.predW }) })
    teams := s.teams.map (fun p => (p.1, { p.2 with
      ct := lowered p.2.ct, bct := lowered p.2.bct, trapW := lowered p.2.trapW
      got := if p.2.status = .cocooned then lowered p.2.got else p.2.got }))
    net := { s.net with
      reps := s.net.reps.map (fun r => if s.cocooned r.team then { r with kind := r.kind.mapTimes lowered } else r)
      reqs := s.net.reqs.map (fun r => { r with ct := lowered r.ct })
      cmds := s.net.cmds.map (fun c => { c with t := lowered c.t, w := lowered c.w }) } }
where
  vsetAll (v : Vector Nat 32) (f : Nat → Nat) : Vector Nat 32 := lanesOf (fun i => f (vget 0 v i))

/-- A time of 2^31 or more starts a rebase, unless one is under way (R245). -/
def State.noteTime (s : State) (t : Nat) : State :=
  if 2 ^ 31 ≤ t && !s.dev.rebase then s.startRebase else s

/-- A time `x` that a home returns, after the rebase that the time `t` may have started (R245). -/
def State.timeAfter (s : State) (t x : Nat) : Nat := if 2 ^ 31 ≤ t && !s.dev.rebase then lowered x else x

/-- A time that a step from `s0` holds, as the state that it has come to counts it: a rebase that the step has begun lowers it (R246). -/
def State.timeSince (s s0 : State) (t : Nat) : Nat := if s.dev.tbgen = s0.dev.tbgen then t else lowered t

/-- The generation bit that a converted line or an adjusted core carries (R245). -/
def State.genBit (s : State) : Bool := decide (s.dev.tbgen % 2 = 1)

/-- Core `c` sets CT := max(CT, t). -/
def State.raiseCt (s : State) (c t : Nat) : State :=
  let x := s.coreOf c
  (s.setCoreOf c { x with ct := Nat.max x.ct t }).noteTime (Nat.max x.ct t)

/-- A core adjusts at a visibility or view point of one of its teams: its CT, its copies, the replies on their way to it and
the times that its teams have gathered at a boundary fall by 2^30 (R245). -/
def State.adjust (s : State) (c : Nat) : State :=
  let x := s.coreOf c
  if s.dev.rebase && x.gen != s.genBit then
    let s1 := s.setCoreOf c { x with
      ct := lowered x.ct, gen := s.genBit
      copies := (x.copies.filter (fun k => !k.stable.isEmpty || decide (2 ^ 30 ≤ k.rts))).map
        (fun k => { k with wts := lowered k.wts, rts := lowered k.rts }) }
    { s1 with
      teams := s1.teams.map (fun p => if p.2.core = c && p.2.status ≠ .cocooned then (p.1, { p.2 with got := lowered p.2.got }) else p)
      net := { s1.net with reps := s1.net.reps.map (fun r =>
        if r.core = c && !s.cocooned r.team then { r with kind := r.kind.mapTimes lowered } else r) } }
  else s

/-- The CT that a home takes from core `c`, and the time that it returns to it (R245). -/
def State.ctSent (s : State) (c : Nat) : Nat :=
  let x := s.coreOf c
  if s.dev.rebase && x.gen != s.genBit then lowered x.ct else x.ct
def State.timeFor (s : State) (c t : Nat) : Nat :=
  if s.dev.rebase && (s.coreOf c).gen != s.genBit then t + 2 ^ 30 else t
/-- The time that a reply to team `t` on core `c` carries: a cocooned team counts as adjusted (R245, R339). -/
def State.timeTo (s : State) (t c w : Nat) : Nat := if s.cocooned t then w else s.timeFor c w
/-- A time that core `c` holds, as the homes count it (R245). -/
def State.timeFrom (s : State) (c t : Nat) : Nat :=
  if s.dev.rebase && (s.coreOf c).gen != s.genBit then lowered t else t

/-! ### Requests (R248) -/

/-- A request joins the messages in flight; it keeps its place in the order of its core and home slice. -/
def State.send (s : State) (core team agent asid va : Nat) (k : ReqKind) : State :=
  { s with net := { s.net with
      reqs := s.net.reqs ++ [{ id := s.net.nextId, core := core, team := team, agent := agent, asid := asid, va := va,
                               ct := s.ctSent core, kind := k }]
      nextId := s.net.nextId + 1 } }

/-- A request of the issuing agent. -/
def State.sendHere (s : State) (va : Nat) (k : ReqKind) : State :=
  s.send s.team.core s.cur.1 s.cur.2 s.team.asid va k

/-- A request on the fabric for agent `a` of team `t`; agent 18 is none of a team's (R259). -/
def State.sendFar (s : State) (t a dev cls xaddr va : Nat) (k : RemoteKind) : State :=
  { s with net := { s.net with
      remote := s.net.remote ++ [{ id := s.net.nextId, dev := dev, cls := cls, xaddr := xaddr, va := va, team := t, agent := a, kind := k, ans := none }]
      nextId := s.net.nextId + 1 } }

/-- A request of the issuing agent on the fabric (R259). -/
def State.sendRemote (s : State) (dev cls xaddr va : Nat) (k : RemoteKind) : State := s.sendFar s.cur.1 s.cur.2 dev cls xaddr va k

/-! ### Results that have not arrived (R64) -/

/-- The lane bytes that have arrived for lane `l`, as a number; 0 for a byte that has not. -/
def slotsNat (l : Nat) : List Slot → Nat
  | [] => 0
  | x :: t => (if x.lane = l then (x.val.getD 0).toNat * 256 ^ x.idx else 0) + slotsNat l t

/-- The lanes an outstanding access reads for, in ascending order. -/
def slotLanes (sl : List Slot) : List Nat := allLanes.filter (fun l => sl.any (fun x => x.lane == l))

/-- The value of an outstanding access in lane `l`, from its slots. -/
def laneResult (sl : List Slot) (j l : Nat) : Word := BitVec.ofNat 32 (slotsNat l sl / 2 ^ (32 * j))

/-- Write the complete result of an access to its destination (R284). -/
def Group.writeResult (g : Group) (d : OutDest) (sl : List Slot) : Group :=
  let m := slotLanes sl
  let put (g : Group) (r : VReg) (j : Nat) : Group := g.setV r (mergeLanes m (laneResult sl j) (g.getV r))
  match d with
  | .lane r wide => if wide then [0, 1, 2, 3].foldl (fun g j => put g (vplus r j) j) g else put g r 0
  | .probe r p => (put g r 0).setK p (mergeBits m (fun _ => false) (g.kBits p))
  | .laneOld r _ => put g r 0
  | .uni r => g.setS r (BitVec.ofNat 64 (slotsNat 0 sl))
  | .uniOld r => g.setS r (BitVec.ofNat 64 (slotsNat 0 sl))
  | .taken => g

/-- An outstanding access that is a load: neither an atomic's old value nor a store that its home is to take. -/
def Outst.cached (o : Outst) : Bool :=
  match o.dest with
  | .laneOld _ _ => false
  | .uniOld _ => false
  | .taken => false
  | _ => true

/-- Every byte has arrived. -/
def slotsFull (sl : List Slot) : Bool := sl.all (fun x => x.val.isSome)

/-- Registers that an outstanding access keeps pending (R64). -/
def OutDest.vregs : OutDest → List VReg
  | .lane r wide => if wide then [r, vplus r 1, vplus r 2, vplus r 3] else [r]
  | .probe r _ => [r]
  | .laneOld r cas => if cas then [r, vplus r 1] else [r]
  | _ => []
def OutDest.sregs : OutDest → List SReg
  | .uni r => [r]
  | .uniOld r => [r]
  | _ => []
def OutDest.kregs : OutDest → List KReg
  | .probe _ p => [p]
  | _ => []

/-- The registers of a group. -/
def Group.regs (g : Group) : Regs :=
  { pcs := g.pcs, active := g.active, v := g.v, s := g.s, k := g.k, fpcr := g.fpcr, fpsr := g.fpsr, gen := g.gen, fpw := g.fpw }

/-- A group with other registers. -/
def Group.withRegs (g : Group) (r : Regs) : Group :=
  { g with pcs := r.pcs, active := r.active, v := r.v, s := r.s, k := r.k, fpcr := r.fpcr, fpsr := r.fpsr, gen := r.gen, fpw := r.fpw }

/-- The registers that an access keeps, changed by `f` if what changes them, numbered `id`, issued before the access. -/
def Outst.keep (o : Outst) (id : Nat) (f : Group → Group) : Outst :=
  if id < o.id then { o with regs := (f (Group.empty.withRegs o.regs)).regs } else o

/-- An access of the issuing agent joins its outstanding ones, or is complete at once; `g0` is the group as it issued. -/
def State.await (s : State) (d : OutDest) (sl : List Slot) (remote : Bool) (g0 : Group) : State :=
  let g := s.grp
  if slotsFull sl && !remote then s.setGrp (g.writeResult d sl)
  else
    { s.setGrp { g with
        outs := g.outs ++ [{ id := s.net.nextId, dest := d, slots := sl, remote := remote, regs := g0.regs, bad := [] }]
        status := if remote then .remote [] else g.status } with
      net := { s.net with nextId := s.net.nextId + 1 } }

/-- After an access has issued the issuing lanes move on; a group that waits for a REMOTE access issues nothing further (R261). -/
def State.moveOn (s : State) : State := s.advance

/-- A group whose REMOTE access has had every byte may issue again (R261). -/
def Group.settle (g : Group) : Group :=
  match g.status with
  | .remote [] => if g.outs.any (·.remote) then g else { g with status := .run }
  | _ => g

/-- A view point for every line begins a new view, whose loads take no renewal that was asked for before (R227). -/
def State.bumpView (s : State) (t : Nat) : State :=
  s.setTeamOf t { s.teamOf t with viewFrom := s.net.nextId, lineFrom := [] }

/-- A view point for some lines (R227). -/
def State.bumpLines (s : State) (t : Nat) (lines : List Nat) : State :=
  let x := s.teamOf t
  s.setTeamOf t { x with lineFrom := lines.foldl (fun f l => Tab.set f l s.net.nextId) x.lineFrom }

/-- The first message number of a team's view of a line. -/
def Team.fromOf (x : Team) (line : Nat) : Nat := Nat.max x.viewFrom (Tab.get 0 x.lineFrom line)

/-- Clear the stable marks of team `t` on the lines that `p` names; copies kept for no one go (R227). -/
def clearStable (t : Nat) (p : Copy → Bool) (ks : List Copy) : List Copy :=
  (ks.map (fun k => if p k then { k with stable := k.stable.filter (fun u => u ≠ t) } else k)).filter
    (fun k => k.latest || !k.stable.isEmpty)

/-- The lines of a team's view overflow area that hold unpublished bytes: those that a view point leaves there (R230). -/
def Team.unpubOvf (x : Team) : List Nat := x.ovf.filter (fun l => x.unpub.any (fun p => p.1 / 128 * 128 == l))

/-- A view point of team `t` for every line (R227). -/
def State.viewPoint (s : State) (t : Nat) : State :=
  let s := s.adjust (s.teamOf t).core
  let x := s.teamOf t
  let c := s.coreOf x.core
  ((s.setCoreOf x.core { c with copies := clearStable t (fun _ => true) c.copies }).setTeamOf t { x with ovf := x.unpubOvf }).bumpView t

end Sys2Proof.Machine
end

