-- ==== Sys2Proof/Machine/Flags.lean ====
section
/-!
DEFINITION. The floating-point environment of a group: cr.fpcr and cr.fpsr (R55), the sticky flags (R79), and the
collection of trap 0x07 (R82, R334).
-/

namespace Sys2Proof.Machine

open Sys2Proof

/-- cr.fpcr.rm. -/
def Group.rm (g : Group) : Rm := Rm.ofNat' (g.fpcr.toNat % 4)
/-- cr.fpcr.fz. -/
def Group.fz (g : Group) : Bool := g.fpcr.getLsbD 7
/-- The trap enables of cr.fpcr in the bit order of cr.fpsr. -/
def Group.enables (g : Group) : BitVec 5 := (g.fpcr >>> 2).setWidth 5

/-- The flags of all acting lanes, ORed. -/
def orFlags (l : List (Nat × Flags)) : BitVec 5 := l.foldl (fun a p => a ||| p.2.bits) 0

/-- The lanes whose flags are enabled, in ascending order. -/
def enabledLanes (en : BitVec 5) (l : List (Nat × Flags)) : List (Nat × Flags) :=
  l.filter (fun p => p.2.bits &&& en != 0)

/-- A mask of lanes. -/
def laneMask (m : List Nat) : BitVec 32 := BitVec.ofNat 32 (m.foldl (fun a l => a + 2 ^ l) 0)

/-- Set the sticky flags that an instruction at `pc` raises in its acting lanes, and open or extend the collection
window when an enabled one is among them (R79, R82, R334). -/
def Group.raiseFlags (g : Group) (pc : Nat) (l : List (Nat × Flags)) : Group :=
  let g' := { g with fpsr := g.fpsr ||| (orFlags l).setWidth 64 }
  match enabledLanes g.enables l with
  | [] => g'
  | (l0, f0) :: rest =>
    match g.fpw with
    | none =>
      { g' with fpw := some { pc := pc, mask := laneMask (l0 :: rest.map (·.1)), lane := l0, flags := f0.bits, more := 0,
                              since := 0 } }
    | some w => { g' with fpw := some { w with more := Nat.min (w.more + 1) 32767 } }

end Sys2Proof.Machine
end

