-- ==== Sys2Proof/Machine/Operands.lean ====
section
/-!
DEFINITION. The operand forms. A lane instruction reads its sources in every lane, releases the registers whose
last-use bits are set, and then writes its destination in the lanes that act (R66, R77); a uniform instruction reads
its sources, releases them, and writes one register once (R111). Each form is one operation that the meanings share.
-/

namespace Sys2Proof.Machine

open Sys2Proof

/-! ### Lane forms -/

/-- The form of an integer lane instruction (R77, R84): `f g l` is the result in lane `l` of the group as it issues;
`rel` are the registers released at issue. -/
def State.laneOp (s : State) (q : Fin 4) (rel : List VReg) (d : VReg) (f : Group → Nat → Word) : State :=
  let g := s.grp
  let m := g.actors q
  let s1 := rel.foldl State.releaseV s
  let g1 := s1.grp
  (s1.setGrp (g1.setV d (mergeLanes m (f g) (g1.getV d)))).advance

/-- Registers of a list whose last-use bit is set. -/
def marked (l : List (Bool × VReg)) : List VReg := (l.filter (·.1)).map (·.2)

/-- The form of a floating-point lane instruction: as `laneOp`, and the flags of the acting lanes are raised (R79). -/
def State.laneOpFp (s : State) (q : Fin 4) (rel : List VReg) (d : VReg) (f : Group → Nat → Word × Flags) : State :=
  let g := s.grp
  let m := g.actors q
  let s1 := rel.foldl State.releaseV s
  let g1 := s1.grp
  let g2 := g1.setV d (mergeLanes m (fun l => (f g l).1) (g1.getV d))
  (s1.setGrp (g2.raiseFlags g.pc.toNat (m.map (fun l => (l, (f g l).2))))).advance

/-- The form of a comparison: the bits of a predicate in the acting lanes (R69, R89). -/
def State.cmpOp (s : State) (q : Fin 4) (rel : List VReg) (p : KReg) (f : Group → Nat → Bool × Flags) : State :=
  let g := s.grp
  let m := g.actors q
  let s1 := rel.foldl State.releaseV s
  let g1 := s1.grp
  let g2 := g1.setK p (mergeBits m (fun l => (f g l).1) (g1.kBits p))
  (s1.setGrp (g2.raiseFlags g.pc.toNat (m.map (fun l => (l, (f g l).2))))).advance

/-- The form of a prefix over the acting lanes in ascending order (R100): the running value in each of them. -/
def scanFrom (first : Word → Word × Flags) (comb : Word → Word → Word × Flags) (a : Nat → Word) :
    Option Word → List Nat → List (Nat × Word × Flags)
  | _, [] => []
  | none, l :: t =>
    let r := first (a l)
    (l, r) :: scanFrom first comb a (some r.1) t
  | some run, l :: t =>
    let r := comb run (a l)
    (l, r) :: scanFrom first comb a (some r.1) t

/-- The entry of a lane in the steps of a scan. -/
def scanAt (l : Nat) : List (Nat × Word × Flags) → Word × Flags
  | [] => (0, .none)
  | (j, r) :: t => if j = l then r else scanAt l t

/-! ### Uniform forms -/

/-- The form of a uniform instruction: sources are read, released, and the destination written (R111). -/
def State.uniOp (s : State) (rel : List SReg) (d : SReg) (f : Group → DWord) : State :=
  let x := f s.grp
  let s1 := rel.foldl State.releaseS s
  (s1.setGrp (s1.grp.setS d x)).advance

/-- Registers of a list whose last-use bit is set. -/
def markedS (l : List (Bool × SReg)) : List SReg := (l.filter (·.1)).map (·.2)

/-- The form of an instruction that reads a lane register into a uniform register (R117 to R119). -/
def State.laneToUni (s : State) (y : Bool) (a : VReg) (d : SReg) (f : Group → DWord) : State :=
  let x := f s.grp
  let s1 := s.lastV y a
  (s1.setGrp (s1.grp.setS d x)).advance

/-! ### Addresses (R15, R71, R116) -/

/-- The effective address of lane `l` in an L-form memory operand: s(sb) + sign-extended v(va), in 64 bits. -/
def Group.laneAddr (g : Group) (a : VReg) (s : SReg) (l : Nat) : Nat :=
  (g.getS s + sext64 (g.lane a l)).toNat

/-- Bytes of an access size (R40, R46). -/
def lsizeBytes : LSize → Nat
  | .b8 => 1 | .b16 => 2 | .b32 => 4 | .x4 => 16
def usizeBytes : USize → Nat
  | .b8 => 1 | .b16 => 2 | .b32 => 4 | .b64 => 8

/-- The effective address of a uniform memory operand: s(sa) + offset × size (R116). -/
def Group.uniAddr (g : Group) (a : SReg) (w : USize) (x : BitVec 11) : Nat :=
  (g.getS a + BitVec.ofNat 64 (x.toNat * usizeBytes w)).toNat

/-- The data of a store in lane `l`: the low bytes of vs, or of vs to vs + 3 (R150, R284). -/
def Group.storeData (g : Group) (d : VReg) (w : LSize) (l : Nat) : List Byte :=
  match w with
  | .x4 => [0, 1, 2, 3].flatMap (fun j => bytesLE 4 (g.lane (vplus d j) l).toNat)
  | _ => bytesLE (lsizeBytes w) (g.lane d l).toNat

end Sys2Proof.Machine
end

