-- ==== Sys2Proof/Machine/LaneInt.lean ====
section
/-!
DEFINITION. The meanings of the integer lane instructions: arithmetic and logic (R84 to R88), comparisons and
selection (R89, R92), movement between lanes (R97 to R101), and the integer functions of LUN (R102).
-/

namespace Sys2Proof.Machine

open Sys2Proof

/-- Signed minimum and maximum, natural minimum and maximum of two elements. -/
def sMin {w : Nat} (a b : BitVec w) : BitVec w := if a.slt b then a else b
def sMax {w : Nat} (a b : BitVec w) : BitVec w := if a.slt b then b else a
def nMin {w : Nat} (a b : BitVec w) : BitVec w := if a.ult b then a else b
def nMax {w : Nat} (a b : BitVec w) : BitVec w := if a.ult b then b else a

/-- High half of the signed and of the natural product. -/
def mulHigh {w : Nat} (a b : BitVec w) : BitVec w := BitVec.ofInt w (a.toInt * b.toInt / (2 ^ w : Nat))
def mulHighN {w : Nat} (a b : BitVec w) : BitVec w := BitVec.ofNat w (a.toNat * b.toNat / 2 ^ w)

/-- Shifts by a natural count that is not reduced (R86, R112). -/
def shl {w : Nat} (a : BitVec w) (n : Nat) : BitVec w := if n < w then a <<< n else 0
def shr {w : Nat} (a : BitVec w) (n : Nat) : BitVec w := if n < w then a >>> n else 0
def sar {w : Nat} (a : BitVec w) (n : Nat) : BitVec w := if n < w then a.sshiftRight n else if a.msb then BitVec.allOnes w else 0

/-- The condition of an integer comparison (R41): the signed order, and the natural order. -/
def testS {w : Nat} (c : Cond) (a b : BitVec w) : Bool :=
  match c with
  | .eq => a == b
  | .ne => a != b
  | .lt => a.slt b
  | .le => a.sle b
  | .gt => b.slt a
  | .ge => b.sle a
  | .un => false
  | .ord => false
def testN {w : Nat} (c : Cond) (a b : BitVec w) : Bool :=
  match c with
  | .eq => a == b
  | .ne => a != b
  | .lt => a.ult b
  | .le => a.ule b
  | .gt => b.ult a
  | .ge => b.ule a
  | .un => false
  | .ord => false

/-- A three-register integer instruction. -/
def State.lane2 (s : State) (d a b : VReg) (y z : Bool) (q : Fin 4) (f : Word → Word → Word) : State :=
  s.laneOp q (marked [(y, a), (z, b)]) d (fun g l => f (g.lane a l) (g.lane b l))
/-- A lane instruction with one register source. -/
def State.lane1 (s : State) (d a : VReg) (y : Bool) (q : Fin 4) (f : Word → Word) : State :=
  s.laneOp q (marked [(y, a)]) d (fun g l => f (g.lane a l))
/-- A lane instruction with a uniform operand: its low 32 bits, read once (R88). -/
def State.laneUni (s : State) (d a : VReg) (b : SReg) (y z : Bool) (q : Fin 4) (f : Word → Word → Word) : State :=
  let u := (s.grp.getS b).setWidth 32
  (s.lastS z b).laneOp q (marked [(y, a)]) d (fun g l => f (g.lane a l) u)
/-- A read of va in another lane; the lanes that do not act are read too (R97). -/
def State.laneMove (s : State) (d a : VReg) (y : Bool) (q : Fin 4) (src : Nat → Nat) : State :=
  s.laneOp q (marked [(y, a)]) d (fun g l => g.lane a (src l))

/-- The integer steps of LSCAN and REDL in ascending lane order, as results of the acting lanes (R100). -/
def intScan (f : Word → Word → Word) (a : Nat → Word) (m : List Nat) : List (Nat × Word × Flags) :=
  scanFrom (fun x => (x, .none)) (fun r x => (f r x, .none)) a none m
/-- An integer LSCAN. -/
def State.laneScan (s : State) (d a : VReg) (y : Bool) (q : Fin 4) (f : Word → Word → Word) : State :=
  s.laneOp q (marked [(y, a)]) d (fun g l => (scanAt l (intScan f (g.lane a) (g.actors q))).1)

/-- a + b. (R84) -/
def execIadd (d a b : VReg) (y z : Bool) (q : Fin 4) (s : State) : Out :=
  .next (s.lane2 d a b y z q (fun a b => a + b))

/-- a − b. (R84) -/
def execIsub (d a b : VReg) (y z : Bool) (q : Fin 4) (s : State) : Out :=
  .next (s.lane2 d a b y z q (fun a b => a - b))

/-- low 32 bits of a × b. (R84) -/
def execImul (d a b : VReg) (y z : Bool) (q : Fin 4) (s : State) : Out :=
  .next (s.lane2 d a b y z q (fun a b => a * b))

/-- high 32 bits of the signed product. (R84) -/
def execImulh (d a b : VReg) (y z : Bool) (q : Fin 4) (s : State) : Out :=
  .next (s.lane2 d a b y z q (fun a b => mulHigh a b))

/-- high 32 bits of the natural product. (R84) -/
def execNmulhLane (d a b : VReg) (y z : Bool) (q : Fin 4) (s : State) : Out :=
  .next (s.lane2 d a b y z q (fun a b => mulHighN a b))

/-- a × b + d, low 32 bits; vd is a third source. (R85) -/
def execImad (d a b : VReg) (y z : Bool) (q : Fin 4) (s : State) : Out :=
  .next (s.laneOp q (marked [(y, a), (z, b)]) d (fun g l => g.lane a l * g.lane b l + g.lane d l))

/-- the smaller, signed. (R84) -/
def execImin (d a b : VReg) (y z : Bool) (q : Fin 4) (s : State) : Out :=
  .next (s.lane2 d a b y z q (fun a b => sMin a b))

/-- the larger, signed. (R84) -/
def execImax (d a b : VReg) (y z : Bool) (q : Fin 4) (s : State) : Out :=
  .next (s.lane2 d a b y z q (fun a b => sMax a b))

/-- the smaller, natural. (R84) -/
def execNminLane (d a b : VReg) (y z : Bool) (q : Fin 4) (s : State) : Out :=
  .next (s.lane2 d a b y z q (fun a b => nMin a b))

/-- the larger, natural. (R84) -/
def execNmaxLane (d a b : VReg) (y z : Bool) (q : Fin 4) (s : State) : Out :=
  .next (s.lane2 d a b y z q (fun a b => nMax a b))

/-- a AND b. (R84) -/
def execAndLane (d a b : VReg) (y z : Bool) (q : Fin 4) (s : State) : Out :=
  .next (s.lane2 d a b y z q (fun a b => a &&& b))

/-- a OR b. (R84) -/
def execOrLane (d a b : VReg) (y z : Bool) (q : Fin 4) (s : State) : Out :=
  .next (s.lane2 d a b y z q (fun a b => a ||| b))

/-- a XOR b. (R84) -/
def execXorLane (d a b : VReg) (y z : Bool) (q : Fin 4) (s : State) : Out :=
  .next (s.lane2 d a b y z q (fun a b => a ^^^ b))

/-- a AND NOT b. (R84) -/
def execAndnLane (d a b : VReg) (y z : Bool) (q : Fin 4) (s : State) : Out :=
  .next (s.lane2 d a b y z q (fun a b => a &&& ~~~b))

/-- a shifted left by the whole element, zeros in. (R86) -/
def execShlLane (d a b : VReg) (y z : Bool) (q : Fin 4) (s : State) : Out :=
  .next (s.lane2 d a b y z q (fun a b => shl a b.toNat))

/-- a shifted right by the whole element, zeros in. (R86) -/
def execShrLane (d a b : VReg) (y z : Bool) (q : Fin 4) (s : State) : Out :=
  .next (s.lane2 d a b y z q (fun a b => shr a b.toNat))

/-- a shifted right by the whole element, copies of a[31] in. (R86) -/
def execSarLane (d a b : VReg) (y z : Bool) (q : Fin 4) (s : State) : Out :=
  .next (s.lane2 d a b y z q (fun a b => sar a b.toNat))

/-- Compare signed elements into a predicate. (R89) -/
def execIcmp (p : KReg) (c : Cond) (a b : VReg) (y z : Bool) (q : Fin 4) (s : State) : Out :=
  .next (s.cmpOp q (marked [(y, a), (z, b)]) p (fun g l => (testS c (g.lane a l) (g.lane b l), .none)))

/-- Compare natural elements into a predicate. (R89) -/
def execNcmp (p : KReg) (c : Cond) (a b : VReg) (y z : Bool) (q : Fin 4) (s : State) : Out :=
  .next (s.cmpOp q (marked [(y, a), (z, b)]) p (fun g l => (testN c (g.lane a l) (g.lane b l), .none)))

/-- Compare signed elements with an immediate into a predicate. (R89) -/
def execIcmpi (p : KReg) (c : Cond) (a : VReg) (i : BitVec 8) (y : Bool) (q : Fin 4) (s : State) : Out :=
  .next (s.cmpOp q (marked [(y, a)]) p (fun g l => (testS c (g.lane a l) (sext32 i), .none)))

/-- va where the selector bit is set, vb elsewhere, in every issuing lane. (R92) -/
def execSel (d a b : VReg) (y z : Bool) (k : Fin 4) (s : State) : Out :=
  .next (s.laneOp 0 (marked [(y, a), (z, b)]) d (fun g l => if g.getK (kq k) l then g.lane a l else g.lane b l))

/-- a + sext(imm8). (R87) -/
def execIaddi (d a : VReg) (i : BitVec 8) (y : Bool) (q : Fin 4) (s : State) : Out :=
  .next (s.lane1 d a y q (fun a => a + sext32 i))

/-- a AND sext(imm8). (R87) -/
def execAndiLane (d a : VReg) (i : BitVec 8) (y : Bool) (q : Fin 4) (s : State) : Out :=
  .next (s.lane1 d a y q (fun a => a &&& sext32 i))

/-- a OR sext(imm8). (R87) -/
def execOriLane (d a : VReg) (i : BitVec 8) (y : Bool) (q : Fin 4) (s : State) : Out :=
  .next (s.lane1 d a y q (fun a => a ||| sext32 i))

/-- a XOR sext(imm8). (R87) -/
def execXoriLane (d a : VReg) (i : BitVec 8) (y : Bool) (q : Fin 4) (s : State) : Out :=
  .next (s.lane1 d a y q (fun a => a ^^^ sext32 i))

/-- a << n. (R87) -/
def execShliLane (d a : VReg) (n : BitVec 5) (y : Bool) (q : Fin 4) (s : State) : Out :=
  .next (s.lane1 d a y q (fun a => shl a n.toNat))

/-- a >> n, zeros in. (R87) -/
def execShriLane (d a : VReg) (n : BitVec 5) (y : Bool) (q : Fin 4) (s : State) : Out :=
  .next (s.lane1 d a y q (fun a => shr a n.toNat))

/-- a >> n, copies of a[31] in. (R87) -/
def execSariLane (d a : VReg) (n : BitVec 5) (y : Bool) (q : Fin 4) (s : State) : Out :=
  .next (s.lane1 d a y q (fun a => sar a n.toNat))

/-- a + S. (R88) -/
def execIadds (d a : VReg) (b : SReg) (y z : Bool) (q : Fin 4) (s : State) : Out :=
  .next (s.laneUni d a b y z q (fun a u => a + u))

/-- low 32 bits of a × S. (R88) -/
def execImuls (d a : VReg) (b : SReg) (y z : Bool) (q : Fin 4) (s : State) : Out :=
  .next (s.laneUni d a b y z q (fun a u => a * u))

/-- S in every acting lane. (R101) -/
def execBcast (d : VReg) (b : SReg) (z : Bool) (q : Fin 4) (s : State) : Out :=
  let u := (s.grp.getS b).setWidth 32
  .next ((s.lastS z b).laneOp q [] d (fun _ _ => u))

/-- The element of va in lane vb[4:0]. (R98) -/
def execShfl (d a b : VReg) (y z : Bool) (q : Fin 4) (s : State) : Out :=
  .next (s.laneOp q (marked [(y, a), (z, b)]) d (fun g l => g.lane a ((g.lane b l).toNat % 32)))

/-- The element of va in lane k. (R99) -/
def execShfliIndex (d a : VReg) (k : BitVec 5) (y : Bool) (q : Fin 4) (s : State) : Out :=
  .next (s.laneMove d a y q (fun _ => k.toNat))

/-- The element of va in lane l − k, or l itself. (R99) -/
def execShfliUp (d a : VReg) (k : BitVec 5) (y : Bool) (q : Fin 4) (s : State) : Out :=
  .next (s.laneMove d a y q (fun l => if k.toNat ≤ l then l - k.toNat else l))

/-- The element of va in lane l + k, or l itself. (R99) -/
def execShfliDown (d a : VReg) (k : BitVec 5) (y : Bool) (q : Fin 4) (s : State) : Out :=
  .next (s.laneMove d a y q (fun l => if l + k.toNat ≤ 31 then l + k.toNat else l))

/-- The element of va in lane l XOR k. (R99) -/
def execShfliXor (d a : VReg) (k : BitVec 5) (y : Bool) (q : Fin 4) (s : State) : Out :=
  .next (s.laneMove d a y q (fun l => l ^^^ k.toNat))

/-- Inclusive prefix sum modulo 2^32 over the acting lanes. (R100) -/
def execLscanAddI32 (d a : VReg) (y : Bool) (q : Fin 4) (s : State) : Out :=
  .next (s.laneScan d a y q (fun r x => r + x))

/-- Inclusive prefix signed maximum over the acting lanes. (R100) -/
def execLscanMaxI32 (d a : VReg) (y : Bool) (q : Fin 4) (s : State) : Out :=
  .next (s.laneScan d a y q (sMax))

/-- Inclusive prefix signed minimum over the acting lanes. (R100) -/
def execLscanMinI32 (d a : VReg) (y : Bool) (q : Fin 4) (s : State) : Out :=
  .next (s.laneScan d a y q (sMin))

/-- A. (R102) -/
def execMov (d a : VReg) (y : Bool) (q : Fin 4) (s : State) : Out :=
  .next (s.lane1 d a y q (fun a => a))

/-- NOT a. (R102) -/
def execNot (d a : VReg) (y : Bool) (q : Fin 4) (s : State) : Out :=
  .next (s.lane1 d a y q (fun a => ~~~a))

/-- 0 − a. (R102) -/
def execNeg (d a : VReg) (y : Bool) (q : Fin 4) (s : State) : Out :=
  .next (s.lane1 d a y q (fun a => 0 - a))

/-- A where it is not negative, else 0 − a. (R102) -/
def execAbs (d a : VReg) (y : Bool) (q : Fin 4) (s : State) : Out :=
  .next (s.lane1 d a y q (fun a => if a.msb then 0 - a else a))

/-- Count of leading zeros. (R102) -/
def execClzLane (d a : VReg) (y : Bool) (q : Fin 4) (s : State) : Out :=
  .next (s.lane1 d a y q (fun a => BitVec.ofNat 32 (leadingZeros 32 a.toNat)))

/-- Count of ones. (R102) -/
def execPopcLane (d a : VReg) (y : Bool) (q : Fin 4) (s : State) : Out :=
  .next (s.lane1 d a y q (fun a => BitVec.ofNat 32 (popCount 32 a.toNat)))

/-- The bits reversed. (R102) -/
def execBrev (d a : VReg) (y : Bool) (q : Fin 4) (s : State) : Out :=
  .next (s.lane1 d a y q (fun a => BitVec.ofNat 32 (reverseBits 32 a.toNat)))

/-- A[7:0] sign-extended. (R102) -/
def execSext8 (d a : VReg) (y : Bool) (q : Fin 4) (s : State) : Out :=
  .next (s.lane1 d a y q (fun a => sext32 (a.setWidth 8)))

/-- A[15:0] sign-extended. (R102) -/
def execSext16 (d a : VReg) (y : Bool) (q : Fin 4) (s : State) : Out :=
  .next (s.lane1 d a y q (fun a => sext32 (a.setWidth 16)))

/-- A XOR 0x8000_0000. (R102) -/
def execFneg (d a : VReg) (y : Bool) (q : Fin 4) (s : State) : Out :=
  .next (s.lane1 d a y q (fun a => a ^^^ 0x80000000))

/-- A AND 0x7FFF_FFFF. (R102) -/
def execFabs (d a : VReg) (y : Bool) (q : Fin 4) (s : State) : Out :=
  .next (s.lane1 d a y q (fun a => a &&& 0x7FFFFFFF))

/-- The lane number. (R102) -/
def execLaneid (d : VReg) (q : Fin 4) (s : State) : Out :=
  .next (s.laneOp q [] d (fun _ l => BitVec.ofNat 32 l))

end Sys2Proof.Machine
end

