-- ==== Sys2Proof/Machine/Access.lean ====
section
/-!
DEFINITION. Translation and access checks: page-table walks (R273 to R276), homes and replicas (R272, R279), the
copy that a load may use (R226, R227), rights (R278), the checks of the four address spaces (R71 to R73), and the
residency of window pages (R263, R266).
-/

namespace Sys2Proof.Machine

open Sys2Proof

/-! ### Physical addresses and homes (R272, R275) -/

def isDevicePa (pa : Nat) : Bool := decide (pa < 0xC000000000)
def isHostPa (pa : Nat) : Bool := decide (0x0001000000000000 ≤ pa) && decide (pa < 0x0010000000000000)

def lineOf (a : Nat) : Nat := a / 128 * 128
/-- The compute die that homes an address. -/
def homeDie (a : Nat) : Nat :=
  (bitsOf a 11 11 + bitsOf a 10 10 + bitsOf a 9 9 + bitsOf a 8 8 + bitsOf a 7 7) % 2
/-- The home slice of an address, 16 · die + slice. -/
def homeSlice (a : Nat) : Nat := 16 * homeDie a + bitsOf a 10 7

/-- The little-endian quad at a physical address. -/
def State.quadAt (s : State) (pa : Nat) : Nat := s.mem.readLE pa 8

/-! ### Poison and dead dies (R252, R253) -/

def State.dieAt (s : State) (d : Nat) : Die :=
  vget { alive := true, gated := false, fenced := false, inc := 1, cocoon := none, stale := false } s.dev.dies d
def State.linkAt (s : State) (l : Nat) : Link := vget .up s.dev.links l

/-- A die answers requests. -/
def State.dieLive (s : State) (d : Nat) : Bool := (s.dieAt d).alive && !(s.dieAt d).fenced

/-- A line reads as poisoned where no write has made it whole: its die has rejoined since (R253). -/
def State.stalePa (s : State) (line : Nat) : Bool := isDevicePa line && (s.dieAt (homeDie line)).stale

/-- Some of `n` bytes at offset `o` of a line are poisoned. -/
def Poison.hits (p : Poison) (o n : Nat) : Bool :=
  match p with
  | .clean => false
  | .low => decide (o < 64) && decide (0 < n)
  | .high => decide (64 < o + n) && decide (0 < n)
  | .whole => decide (0 < n)

/-- The poison of a line one of whose granules is lost (R387). -/
def Poison.lose (p : Poison) (upper : Bool) : Poison :=
  match p, upper with
  | .clean, false => .low
  | .low, false => .low
  | .clean, true => .high
  | .high, true => .high
  | _, _ => .whole

/-- The poison of a line after a write of the bytes that `w` names: one that is written whole is cured, and so is a lost granule that
is (R253, R391; DEDUCED, log entry 13). -/
def Poison.written (p : Poison) (w : Nat → Bool) : Poison :=
  let lo := (List.range 64).all w
  let hi := (List.range 64).all (fun i => w (64 + i))
  match p with
  | .clean => .clean
  | .low => if lo then .clean else .low
  | .high => if hi then .clean else .high
  | .whole => if lo && hi then .clean else .whole

/-- How memory keeps a line that is not in its slice. -/
def State.memState (s : State) (line : Nat) : Poison := Tab.get (if s.stalePa line then .whole else .clean) s.memPoison line

/-- The poison of a line: by its entry in its slice, or as memory keeps it. -/
def State.poisonOf (s : State) (line : Nat) : Poison :=
  match Tab.find? s.lines line with
  | some h => h.poison
  | none => s.memState line

/-- A core's load of the line at a physical line address meets poison (R392). -/
def State.poisoned (s : State) (line : Nat) : Bool := (s.poisonOf line).hits 0 128

/-- A read of `n` bytes at a physical address, within a line, meets poison. -/
def State.poisonedIn (s : State) (pa n : Nat) : Bool := (s.poisonOf (lineOf pa)).hits (pa % 128) n

/-- A physical line whose home cannot answer: its die is dead, or it is host memory and the link has failed. -/
def State.homeGone (s : State) (pa : Nat) : Bool :=
  if isHostPa pa then !s.dev.hostUp else !s.dieLive (homeDie pa)

/-! ### Page tables (R273 to R276) -/

def attrOf (n : Nat) : Attr := if n = 0 then .leased else if n = 1 then .hosted else if n = 2 then .uncached else .remote

/-- Ticks of a lease code (R275). -/
def leaseTicks (c : Nat) : Nat := if c = 0 then 64 else 2 ^ (c - 1)

/-- The leaf entry `e` at physical address `at_`, found where a page of `size` bytes is mapped; none where R275 ends
the walk in trap 0x04. `sub` marks a sub-table entry and `l3` a level-3 entry. -/
def readLeaf (e at_ size : Nat) (l3 sub : Bool) : Option Leaf :=
  let attr := attrOf (bitsOf e 3 2)
  let rd := bitOf e 8
  let ch := bitOf e 7
  let span := if ch then 0x200000 else size
  let pa := if attr = .remote then bitsOf e 44 16 * 0x10000
    else bitsOf e 51 16 * 0x10000 + (if sub then bitsOf e 15 12 * 0x1000 else 0)
  let code := bitsOf e 15 12
  let bad := (attr != .remote && bitsOf e 63 52 != 0)
    || bitsOf e 11 10 != 0
    || (attr == .leased && !sub && decide (14 ≤ code))
    || (rd && (attr != .leased || (span != 0x10000 && span != 0x200000)))
    || (ch && !l3)
    || (sub && attr != .hosted)
    || pa % size != 0
    || (attr != .remote && !(isDevicePa pa || (isHostPa pa && attr == .hosted)))
    || (rd && !isDevicePa (pa + span))
  if bad then none
  else some { pa := pa, size := span, attr := attr, dev := if attr = .remote then bitsOf e 63 45 else 0
              lease := if sub then 64 else leaseTicks code, rs := bitOf e 9, rd := rd, s := bitOf e 6, x := bitOf e 5
              w := bitOf e 4, at_ := at_ }

/-- The table that a pointer entry names; none where R274 ends the walk. -/
def nextTable (e : Nat) (l3 : Bool) : Option Nat :=
  if bitsOf e 63 52 != 0 || bitsOf e 6 2 != 0 || (!l3 && bitsOf e 15 7 != 0) then none
  else some (bitsOf e 51 7 * 128)

/-- The table entry at a physical address; none where its line reads as poisoned, or its home cannot answer (R251 to R253, R392). -/
def State.tableQuad (s : State) (pa : Nat) : Option Nat := if s.homeGone pa || s.poisonedIn pa 8 then none else some (s.quadAt pa)

/-- What a walk comes to: a leaf; no translation, trap 0x04 (R274, R275); or a table line that cannot be read, trap 0x09, status 0x01 or
a poisoned response (DEDUCED, log entry 90; R251 to R253, R392). -/
inductive Walked where
  | leaf (l : Leaf)
  | noMap
  | lost
  deriving DecidableEq, Repr

/-- The end of a walk at a leaf entry, if it is a leaf that R275 lets stand. -/
def Walked.ofLeaf (l : Option Leaf) : Walked :=
  match l with
  | some l => .leaf l
  | none => .noMap

/-- The walk of the table at `l1pa` for a virtual address, the host window aside (R273 to R276). -/
def State.walkTable (s : State) (l1pa va : Nat) : Walked :=
  if 2 ^ 52 ≤ va then .noMap
  else match s.tableQuad (l1pa + 8 * bitsOf va 51 42) with
  | none => .lost
  | some e1 =>
    if e1 % 4 != 3 then .noMap
    else match nextTable e1 false with
    | none => .noMap
    | some t2 =>
      let a2 := t2 + 8 * bitsOf va 41 29
      match s.tableQuad a2 with
      | none => .lost
      | some e2 =>
        if e2 % 2 = 0 then .noMap
        else if e2 % 4 = 1 then .ofLeaf (readLeaf e2 a2 0x20000000 false false)
        else match nextTable e2 false with
        | none => .noMap
        | some t3 =>
          let a3 := t3 + 8 * bitsOf va 28 16
          match s.tableQuad a3 with
          | none => .lost
          | some e3 =>
            if e3 % 2 = 0 then .noMap
            else if e3 % 4 = 1 then .ofLeaf (readLeaf e3 a3 0x10000 true false)
            else match nextTable e3 true with
            | none => .noMap
            | some t4 =>
              let a4 := t4 + 8 * bitsOf va 15 12
              match s.tableQuad a4 with
              | none => .lost
              | some e4 => if e4 % 4 = 1 then .ofLeaf (readLeaf e4 a4 0x1000 false true) else .noMap

/-- A physical address lies in the window that the host has committed (R386). -/
def State.inHostWindow (s : State) (pa : Nat) : Bool :=
  match s.dev.hdm with
  | some (b, n) => decide (b ≤ pa) && decide (pa < b + n)
  | none => false

/-- The leaf of the table at `l1pa` for a virtual address, if the walk comes to one; a page in the host window must be HOSTED (R273 to
R276, R386). -/
def State.walk (s : State) (l1pa va : Nat) : Option Leaf :=
  match s.walkTable l1pa va with
  | .leaf l => if l.attr != .hosted && l.attr != .remote && s.inHostWindow l.pa then none else some l
  | .noMap => none
  | .lost => none

/-- The walk meets a table line that cannot be read (R251 to R253, R392). -/
def State.walkLost (s : State) (l1pa va : Nat) : Bool := s.walkTable l1pa va == .lost

/-- Bytes that one leaf entry maps: a 64 KiB entry of a 2 MiB group maps its own 64 KiB (R276). -/
def Leaf.span (l : Leaf) : Nat := if l.size = 0x200000 then 0x10000 else l.size

/-- The physical address of a virtual address through a leaf, its own frame. -/
def Leaf.phys (l : Leaf) (va : Nat) : Nat := l.pa + va % l.span

/-- The page that holds an address: its first address. -/
def Leaf.page (l : Leaf) (va : Nat) : Nat := va / l.size * l.size

/-- The physical address that a core on die `d` reads through a leaf: for a read-duplicated page, replica `d` (R279). -/
def Leaf.physFor (l : Leaf) (d va : Nat) : Nat :=
  let p0 := l.phys va
  if l.rd && homeDie p0 != d then p0 / l.size * l.size + l.size + Nat.xor (p0 % l.size) 0x800 else p0

/-- The level-1 table of a team's context (R273). -/
def State.l1Of (s : State) (t : Nat) : Nat := (s.teamOf t).ctx.l1pa

/-- The die of a core. -/
def dieOf (c : Nat) : Nat := c / 144

/-! ### Declared outputs (R341) -/

/-- A byte inside a write or read-write declaration of a grid. -/
def Grid.declares (g : Grid) (va : Nat) : Bool :=
  g.decls.any (fun d => decide (2 ≤ d.mode) && decide (d.base ≤ va) && decide (va < d.base + d.extent))

/-- A line that holds such a byte. -/
def Grid.declaresLine (g : Grid) (line : Nat) : Bool :=
  g.decls.any (fun d => decide (2 ≤ d.mode) && decide (d.base < line + 128) && decide (line < d.base + d.extent))

/-- The grid whose shadow a team's accesses to a line act on, if any. -/
def State.tagOf (s : State) (t line : Nat) : Option Nat :=
  let g := (s.teamOf t).grid
  if (s.gridOf g).declaresLine line then some g else none

/-! ### Copies (R226, R227) -/

/-- The copy of a line that team `t` on core `c` may read now: the one stable for it, else the newest one while its
lease runs (R226) or, on a HOSTED page, until it is invalidated (R255). -/
def State.readable (s : State) (t : Nat) (va : Nat) : Option Copy :=
  let x := s.teamOf t
  let c := s.coreOf x.core
  let line := lineOf va
  let tag := s.tagOf t line
  let mine := c.copies.filter (fun k => decide (k.asid = x.asid) && decide (k.line = line) && decide (k.tag = tag))
  match mine.find? (fun k => k.stable.contains t) with
  | some k => some k
  | none => mine.find? (fun k => k.latest && (k.leaf.attr == .hosted || decide (c.ct ≤ k.rts)))

/-- A load of the team, whose view of its line began with message `n` or later, still awaits a byte of the line. -/
def State.awaitingFrom (s : State) (t line n : Nat) : Bool :=
  (s.teamOf t).agents.any (fun a => (s.agent t a).outs.any (fun o =>
    o.cached && o.slots.any (fun sl => sl.val.isNone && lineOf sl.va == line && decide (n ≤ sl.since))))

/-- A load of the team's present view of a line still awaits its renewal. -/
def State.awaiting (s : State) (t line : Nat) : Bool := s.awaitingFrom t line ((s.teamOf t).fromOf line)

/-- The copy of a line that a load may take at issue: the readable one, but while an earlier load awaits the line only a stable
one, so that the loads of one view agree and a later load sees nothing older (R75, R76). -/
def State.usable (s : State) (t va : Nat) : Option Copy :=
  match s.readable t va with
  | none => none
  | some k => if k.stable.contains t || !s.awaitingFrom t (lineOf va) 0 then some k else none

/-- Mark the usable copies of lines stable for team `t` (R227). -/
def State.markStable (s : State) (t : Nat) (lines : List Nat) : State :=
  let x := s.teamOf t
  let c := s.coreOf x.core
  let mark (k : Copy) : Copy :=
    if lines.contains k.line && decide (s.usable t k.line = some k) && !k.stable.contains t then
      { k with stable := t :: k.stable } else k
  s.setCoreOf x.core { c with copies := c.copies.map mark }

/-- The leaf whose rights an access of a team uses: that of its core's copy, else that of the walk (R278). -/
def State.leafFor (s : State) (t va : Nat) : Option Leaf :=
  match s.readable t va with
  | some k => some k.leaf
  | none => s.walk (s.l1Of t) va

/-! ### Checks (R52, R71 to R73, R278, R281) -/

/-- What the checks of one access find. -/
inductive Chk where
  | ok
  /-- a trap of R52 with its faulting address -/
  | trap (code fva : Nat)
  /-- an absent global page (R281) -/
  | absent (page : Nat)
  /-- a write to a read-duplicated page (R280) -/
  | rdup (page : Nat)
  /-- an away window page (R266): team and page -/
  | away (t page : Nat)
  /-- an access directed at a team that is not resident, which the control die holds (R327) -/
  | held (t : Nat)
  deriving DecidableEq, Repr

/-- The kinds of global access that the rights are checked for: `dadd` is ATOMG.dadd.f32 (R219), `uatom` a UATOM of a scope
below system (R289), `probe` an LDGP (R282), and `atomic` any other atomic. -/
inductive Acc where
  | load | store | fetch | atomic | dadd | uatom | probe
  deriving DecidableEq, Repr

/-- The access writes. -/
def Acc.writes (a : Acc) : Bool := a == .store || a == .atomic || a == .dadd || a == .uatom

/-- The access is not for a page of this attribute (R219, R278, R289). -/
def Acc.badAttr (a : Acc) (x : Attr) : Bool := (a == .dadd && x != .leased) || (a == .uatom && (x == .hosted || x == .remote))

/-- The rights, the residency and the poison of the page and line of a global access, in this order (R278, R281): which of
0x05 and 0x09 a lane that meets both reports is a DESIGN CHOICE, log entry 76. -/
def State.chkLeaf (s : State) (t va : Nat) (acc : Acc) (l : Leaf) : Chk :=
  let sup := (s.teamOf t).sup
  let writes := acc.writes
  if l.s && !sup then .trap trapProtection va
  else if writes && !l.w then .trap trapProtection va
  else if acc = .fetch && !l.x then .trap trapProtection va
  else if acc.badAttr l.attr then .trap trapProtection va
  else if l.attr = .remote && decide (l.dev / 1024 ≠ s.dev.dom) then .trap trapProtection va
  else if !l.rs then
    if acc ≠ .probe && (s.teamOf t).closed.contains (l.page va) then .trap trapNoMap va else .absent (l.page va)
  else if writes && l.rd then .rdup (l.page va)
  else if acc ≠ .store && l.attr ≠ .remote && (s.readable t va).isNone then
    let pa := lineOf (l.physFor (dieOf (s.teamOf t).core) va)
    if s.homeGone pa || s.poisoned pa then .trap trapPoison va else .ok
  else .ok

/-- The trap of an access that its walk gives no leaf: 0x09 where a table line cannot be read, else 0x04 (R56, R274). -/
def State.noLeaf (s : State) (l1pa va : Nat) : Nat := if s.walkLost l1pa va then trapPoison else trapNoMap

/-- The checks of a global access of `n` bytes at `va`; alignment is checked by the caller (R71, R73). -/
def State.chkGlobal (s : State) (t va : Nat) (acc : Acc) : Chk :=
  if 2 ^ 52 ≤ va then .trap trapNoMap va
  else match s.leafFor t va with
  | none => .trap (s.noLeaf (s.l1Of t) va) va
  | some l => s.chkLeaf t va acc l

/-- The window of a team in bytes; an ended team has none (R285). -/
def Team.window (x : Team) : Nat := if x.status = .ended then 0 else x.lswin * 1024

/-- A window page of team `t` has a resident frame (R263). -/
def State.pageIn (s : State) (t page : Nat) : Bool :=
  (s.coreOf (s.teamOf t).core).ltt.any (fun e => decide (e.team = t) && decide (e.vpage = page) && decide (e.state = 0) && !e.shd)

/-- The checks of an access at offset `off` of team `t`'s window (R71, R266). -/
def State.chkWindow (s : State) (t off fva : Nat) : Chk :=
  if (s.teamOf t).window ≤ off then .trap trapRange fva
  else if s.pageIn t (off / 2048) then .ok else .away t (off / 2048)

/-- The team at position `p` of team `t`'s cluster; a handler team is a cluster of its own (R285, R335). -/
def State.member (s : State) (t p : Nat) : Option Nat :=
  let x := s.teamOf t
  s.teamKeys.find? (fun u =>
    let z := s.teamOf u
    decide (z.grid = x.grid) && decide (z.cluster = x.cluster) && decide (z.py * z.w + z.px = p) && z.handles == x.handles)

/-- An access that team `t` has directed at a team that was away is to be delivered: `t` is resident, or has been switched out by a
request (R327). That of a team that a trap has halted waits for its return (DEDUCED, log entry 88). -/
def State.deliverable (s : State) (t : Nat) : Bool :=
  let st := (s.teamOf t).status
  st == .placed || st == .saved || st == .atBoundary

/-- An access that another agent directed at team `u` while it was away is to be delivered first (R327). -/
def State.behindHeld (s : State) (u : Nat) : Bool :=
  match s.net.held.find? (fun p => p.2.2 == u && s.deliverable p.1) with
  | some p => (p.1, p.2.1) != s.cur
  | none => false

/-- The checks of a cluster-window address (R71, R285, R327). -/
def State.chkCluster (s : State) (t va : Nat) : Chk :=
  let x := s.teamOf t
  if 2 ^ 26 ≤ va then .trap trapNoMap va
  else if x.w * x.h ≤ bitsOf va 25 22 then .trap trapNoMap va
  else match s.member t (bitsOf va 25 22) with
  | none => .trap trapRange va
  | some u =>
    let z := s.teamOf u
    if z.window ≤ bitsOf va 21 0 then .trap trapRange va
    else if z.status ≠ .placed || s.behindHeld u then .held u
    else s.chkWindow u (bitsOf va 21 0) va

/-- The checks of a parameter-space address (R71, R285). -/
def State.chkParam (s : State) (t a : Nat) : Chk :=
  if 65536 ≤ a then .trap trapNoMap a else s.chkGlobal t ((s.teamOf t).param + a) .load

/-- A lane that reads an uncorrectable byte of a window, among `n` at offset `off` of team `u`'s, and meets nothing else meets 0x09
(R284). -/
def State.chkBytes (s : State) (u off n fva : Nat) (acc : Acc) (k : Chk) : Chk :=
  if k = .ok && acc ≠ .store && (s.teamOf u).lsBad.any (fun o => off ≤ o && decide (o < off + n)) then .trap trapPoison fva else k

/-- The address spaces of the loads, stores and lane atomics. -/
inductive Space where
  | global | window | cluster | param
  deriving DecidableEq, Repr

/-- The checks of one access of `n` bytes, alignment first (R52, R71 to R73). That 0x03 comes ahead of 0x08 in a lane that meets
both is a DESIGN CHOICE, log entry 76. -/
def State.chk (s : State) (sp : Space) (t va n : Nat) (acc : Acc) : Chk :=
  if va % n ≠ 0 then .trap trapMisaligned va
  else match sp with
  | .global => s.chkGlobal t va acc
  | .window => s.chkBytes t va n va acc (s.chkWindow t va va)
  | .cluster => s.chkBytes ((s.member t (bitsOf va 25 22)).getD t) (bitsOf va 21 0) n va acc (s.chkCluster t va)
  | .param => s.chkParam t va

/-- The verdict on the checks of all acting lanes in ascending order: the first trap; else the pages that are absent,
read-duplicated or away; else ok (R52). -/
inductive Verdict where
  | ok
  | trap (code fva : Nat)
  | absent (pages : List Nat)
  | rdup (pages : List Nat)
  | away (pages : List (Nat × Nat))
  | held (t : Nat)
  deriving DecidableEq, Repr

def firstTrap : List Chk → Option (Nat × Nat)
  | [] => none
  | .trap c v :: _ => some (c, v)
  | _ :: t => firstTrap t

def verdict (l : List Chk) : Verdict :=
  match firstTrap l with
  | some (c, v) => .trap c v
  | none =>
    match distinct (l.filterMap (fun k => match k with | .absent p => some p | _ => none)) with
    | p :: ps => .absent (p :: ps)
    | [] =>
      match distinct (l.filterMap (fun k => match k with | .rdup p => some p | _ => none)) with
      | p :: ps => .rdup (p :: ps)
      | [] =>
        match l.filterMap (fun k => match k with | .away t p => some (t, p) | _ => none) with
        | p :: ps => .away (p :: ps).eraseDups
        | [] =>
          match l.filterMap (fun k => match k with | .held t => some t | _ => none) with
          | t :: _ => .held t
          | [] => .ok

/-! ### Results and refusals of issued accesses (R50, R52, R56, R64) -/

/-- The refusal of the lowest-numbered lane, at its lowest address (R52). -/
def lowestBad : List (Nat × Nat × Nat) → Option (Nat × Nat × Nat)
  | [] => none
  | x :: t => match lowestBad t with
    | none => some x
    | some y => if y.1 < x.1 || (y.1 == x.1 && decide (y.2.2 < x.2.2)) then some y else some x

/-- A group as it was when access `o` issued: its registers, and nothing outstanding that issued with it or later (R50, R56). -/
def Group.rollback (g : Group) (o : Outst) : Group :=
  { g.withRegs o.regs with
    status := .run
    outs := g.outs.filter (fun p => decide (p.id < o.id))
    stores := g.stores.filter (fun p => decide (p.id ≤ o.id)) }

/-- An agent's access is undone after it has issued: its group stands at it again, and what the agent issued after it is not done.
No lasting effect can have come after it, for instructions that have one wait, and so do stores that are to be performed (R50,
R56; DEDUCED, log entry 17). -/
def State.undoAccess (s : State) (t a : Nat) (o : Outst) : State :=
  { s.setAgent t a ((s.agent t a).rollback o) with
    net := { s.net with
      reqs := s.net.reqs.filter (fun r => !(r.team == t && r.agent == a && decide (o.id ≤ r.id) && (match r.kind with
        | .uload _ _ => true
        | _ => false)))
      held := s.net.held.filter (fun p => (p.1, p.2.1) != (t, a)) } }

/-- An access is refused after it has issued: it is undone and the team takes the trap there (R50, R56, R261, R284). -/
def State.trapAccess (s : State) (t a : Nat) (o : Outst) (code fva : Nat) : State :=
  let s1 := s.undoAccess t a o
  let x := s1.teamOf t
  (s1.setTeamOf t { x with hbq := x.hbq.filter (fun p => p.2 != a) }).trapAgent t a code kindFault fva 0

/-- A byte that an access still awaits cannot be refused now: it has come, or its page is mapped and absent (R52, R281). -/
def State.unrefused (s : State) (t : Nat) (x : Slot) : Bool :=
  x.val.isSome || (match s.walk (s.l1Of t) x.va with
    | some l => !l.rs
    | none => false)

/-- The oldest access of an agent, some of whose bytes were refused and none of whose others can still be, traps in the lowest lane
that was refused, once its team is placed (R52, R56). -/
def State.trapBad (s : State) (t a : Nat) : State :=
  if (s.teamOf t).status ≠ .placed then s
  else match (s.agent t a).outs.head?.filter (fun o => !o.bad.isEmpty && o.slots.all (s.unrefused t)) with
  | none => s
  | some o => match lowestBad o.bad with
    | none => s
    | some b => s.trapAccess t a o b.2.1 b.2.2

/-- Give the outstanding accesses of one agent the bytes that `f` supplies, and complete those that are full; accesses that issued
after one keep its result as well. One that was refused in some lane traps once it has every answer (R52, R56). -/
def State.fill (s : State) (t a : Nat) (f : Outst → Slot → Option Byte) : State :=
  let g := s.agent t a
  let fillOne (o : Outst) : Outst :=
    { o with slots := o.slots.map (fun x => match x.val with
        | some _ => x
        | none => { x with val := f o x }) }
  let outs := g.outs.map fillOne
  let full (o : Outst) : Bool := slotsFull o.slots && o.bad.isEmpty
  let done := outs.filter full
  let left := (outs.filter (fun o => !full o)).map (fun p =>
    done.foldl (fun p o => p.keep o.id (fun h => h.writeResult o.dest o.slots)) p)
  let g1 := done.foldl (fun (g : Group) o => g.writeResult o.dest o.slots) { g with outs := left }
  (s.setAgent t a g1.settle).trapBad t a

/-- Bytes of an agent's accesses are refused with trap code `code`: `f` names the bytes of an access, and `at_` the address that
is at fault for one (R52, R284). -/
def State.refuse (s : State) (t a code : Nat) (f : Outst → Slot → Bool) (at_ : Slot → Nat) : State :=
  let g := s.agent t a
  let one (o : Outst) : Outst :=
    let hit (x : Slot) : Bool := x.val.isNone && f o x
    { o with bad := o.bad ++ (o.slots.filter hit).map (fun x => (x.lane, code, at_ x))
             slots := o.slots.map (fun x => if hit x then { x with val := some 0 } else x) }
  (s.setAgent t a { g with outs := g.outs.map one }).trapBad t a

end Sys2Proof.Machine
end

