-- ==== Sys2Proof/Machine/Home.lean ====
section
/-!
DEFINITION. Home slices: the times of a line (R224), renewals (R226), publications (R231, R307) and atomics (R239,
R287) at the home or in an attempt's shadow (R341), the HOSTED directory (R255 to R258), and the copies that replies
install in a core's L1 (R226, R228, R231).
-/

namespace Sys2Proof.Machine

open Sys2Proof

/-! ### Lines and their times (R224, R245) -/

/-- The home line at a physical line address; a line never touched starts with wts = rts = M (R224), and a line whose
generation bit is stale is converted as it is touched (R245). A line of host memory, whose home on the control die the spec gives no M,
starts at the M of a compute slice (DESIGN CHOICE, log entry 85). -/
def State.hline (s : State) (pa : Nat) : HLine :=
  match Tab.find? s.lines pa with
  | none =>
    let m := vget 0 s.dev.memo (homeSlice pa)
    { wts := m, rts := m, gen := s.genBit, poison := s.memState pa, held := [] }
  | some h => if h.gen = s.genBit then h else { h with wts := lowered h.wts, rts := lowered h.rts, gen := s.genBit }

def State.setHline (s : State) (pa : Nat) (h : HLine) : State := { s with lines := Tab.set s.lines pa h }

/-- Lines that a home slice of 12 MiB holds (R4). -/
def sliceLines : Nat := 98304

/-- A grid's spill area is full: it fails with 0x0D and its held updates are discarded (R242). -/
def State.spillFull (s : State) (g rank : Nat) : State :=
  let gr := s.gridOf g
  let s1 := s.setGridOf g { gr with held := [], failing := match gr.failing with
    | some f => some f
    | none => some (2, trapAbort, 0, 0, rank) }
  { s1 with lines := s1.lines.map (fun p => (p.1, { p.2 with held := p.2.held.filter (fun d => d.grid != g) })) }

/-- Write the buffer of a line as one sorted run for each grid that has entries in it (R221). -/
def State.spillLine (s : State) (pa : Nat) : State :=
  let h := s.hline pa
  let gs := distinct (h.held.map (·.grid))
  let s1 := s.setHline pa { h with held := [] }
  gs.foldl (fun s g =>
    let gr := s.gridOf g
    if 8192 ≤ gr.runs then s.spillFull g 0xFFFFFFFF
    else s.setGridOf g { gr with runs := gr.runs + 1, held := gr.held ++ h.held.filter (fun d => d.grid == g) }) s1

/-- A line leaves its slice for memory: its slice's M rises to its rts, updates that it holds are written as runs, and memory
keeps its poison (R4, R221, R224, R392). -/
def State.evictLine (s : State) (v : Nat) : State :=
  match Tab.find? s.lines v with
  | none => s
  | some _ =>
    let s1 := if (s.hline v).held.isEmpty then s else s.spillLine v
    let h := s1.hline v
    let i := homeSlice v
    { s1 with
      lines := Tab.del s1.lines v
      memPoison := if h.poison = (if s1.stalePa v then .whole else .clean) then Tab.del s1.memPoison v else Tab.set s1.memPoison v h.poison
      dev := { s1.dev with memo := lanesOf (fun j =>
        if j = i then Nat.max (vget 0 s1.dev.memo i) h.rts else vget 0 s1.dev.memo j) } }

/-- The home slice of the line at `pa` makes room: the named line `v` of the slice goes to memory; if none of the slice is named, one
that a free value picks goes once the slice is full (R4, R224). -/
def State.evictHome (s : State) (pa : Nat) (v : Option Nat) : State :=
  let i := homeSlice pa
  let named := v.filter (fun v => decide (homeSlice v = i) && decide (v ≠ pa) && (Tab.find? s.lines v).isSome)
  match named with
  | some v => s.evictLine v
  | none =>
    if s.lines.length < sliceLines || (Tab.find? s.lines pa).isSome then s
    else
      let ls := (s.lines.filter (fun p => homeSlice p.1 == i)).map (·.1)
      if ls.length < sliceLines then s
      else ({ s with fresh := s.fresh + 1 } : State).evictLine (ls.getD ((Config.freeBits s.fresh).toNat % ls.length) 0)

/-- The lines of a page go to memory, each raising its slice's M (R224, R277). -/
def State.dropPage (s : State) (pa size : Nat) : State :=
  ((s.lines.map (·.1)).filter (fun l => decide (pa ≤ l) && decide (l < pa + size))).foldl State.evictLine s

/-- A write to a table line: the MTBs lose every translation whose walk read the line, and the homes every line of the pages
that those mapped (R277). -/
def State.dropMtb (s : State) (pa : Nat) : State :=
  let hit (e : MtbEntry) : Bool := e.tables.contains pa
  let s1 := { s with dev := { s.dev with mtb := s.dev.mtb.filter (fun e => !hit e) } }
  (s.dev.mtb.filter hit).foldl (fun s e => s.dropPage e.pa e.size) s1

/-- The 128 bytes of a line. -/
def State.lineData (s : State) (pa : Nat) : List Byte := s.mem.readN pa 128

/-- The shadow line of a grid's attempt at virtual line `line`; its first touch takes the home line's data and times
(R341). -/
def State.shadowLine (s : State) (g line pa : Nat) : ShadowLine :=
  match Tab.find? (s.gridOf g).shadow line with
  | some x => x
  | none => let h := s.hline pa; { wts := h.wts, rts := h.rts, bytes := s.lineData pa, written := [] }

def State.setShadowLine (s : State) (g line : Nat) (x : ShadowLine) : State :=
  let gr := s.gridOf g
  s.setGridOf g { gr with shadow := Tab.set gr.shadow line x }

/-- The byte that a list of (key, byte) pairs, newest first, holds under a key. -/
def pairAt (l : List (Nat × Byte)) (k : Nat) : Option Byte := (l.find? (fun p => p.1 == k)).map (·.2)

/-- A line as agents with the given tag see it at its home: declared bytes come from the shadow (R341). -/
def State.seenLine (s : State) (tag : Option Nat) (line pa : Nat) : List Byte :=
  match tag with
  | none => s.lineData pa
  | some g =>
    let x := s.shadowLine g line pa
    let gr := s.gridOf g
    (List.range 128).map (fun i =>
      if gr.declares (line + i) then (pairAt x.written i).getD (x.bytes.getD i 0) else s.mem.read (pa + i))

/-- The time of a line that an UNCACHED load reads; an attempt's first touch of a line puts it into the shadow (R234,
R341). -/
def State.readAt (s : State) (tag : Option Nat) (line pa : Nat) : State × Nat :=
  match tag with
  | none => (s, (s.hline pa).wts)
  | some g => let x := s.shadowLine g line pa; (s.setShadowLine g line x, x.wts)

/-! ### Paths between the dies (R248, R250) -/

def State.linkUp (s : State) (l : Nat) : Bool := s.linkAt l == .up

/-- A link that carries nothing until it has retrained, if it can (R250). -/
def State.linkOut (s : State) (l : Nat) : Bool := s.linkAt l == .down || s.linkAt l == .retraining

/-- The links that a message between die `a` and die `b` takes, 2 being the control die: the direct one, or the way round by
the third die while the direct one is down or retraining (R248). -/
def State.route (s : State) (a b : Nat) : List Nat :=
  let direct := if a = 2 then 1 + b else if b = 2 then 1 + a else 0
  if a = b then [] else if s.linkOut direct then [0, 1, 2].filter (fun l => l != direct) else [direct]

/-- A message between two dies passes now; over a link that sleeps or wakes it is held (R250). -/
def State.pathOk (s : State) (a b : Nat) : Bool := (s.route a b).all s.linkUp
/-- The control die reaches a compute die. -/
def State.pathCtl (s : State) (a : Nat) : Bool := s.pathOk 2 a

/-- The die that homes a physical address; the control die homes host memory (R257). -/
def homeOf (pa : Nat) : Nat := if isHostPa pa then 2 else homeDie pa

/-- The links that a message between two dies takes come up if they sleep or wake: a write that the model makes in one step is held for
them within it (R250; DEDUCED, log entry 91). -/
def State.wakeRoute (s : State) (a b : Nat) : State :=
  (s.route a b).foldl (fun s l =>
    if s.linkAt l = .asleep || s.linkAt l = .waking then { s with dev := { s.dev with links := vset s.dev.links l .up } } else s) s

/-- The same for the ways from die `a` to the homes of physical addresses (R250). -/
def State.wakeHomes (s : State) (a : Nat) (pas : List Nat) : State :=
  (distinct (pas.map homeOf)).foldl (fun s d => s.wakeRoute a d) s

/-! ### Renewals (R226, R255, R341) -/

/-- A renewal at the home at core time `ct`: the line's lease is extended; its data and times are returned. -/
def State.renewAt (s : State) (tag : Option Nat) (line pa ct : Nat) (l : Leaf) : State × List Byte × Nat × Nat :=
  match tag with
  | some g =>
    let x := s.shadowLine g line pa
    let rts := if l.attr = .hosted then x.rts else Nat.max x.rts (Nat.max ct x.wts + l.lease)
    let s' := (s.setShadowLine g line { x with rts := rts }).noteTime rts
    (s', s.seenLine tag line pa, s.timeAfter rts x.wts, s.timeAfter rts rts)
  | none =>
    let h := s.hline pa
    let rts := if l.attr = .hosted then h.rts else Nat.max h.rts (Nat.max ct h.wts + l.lease)
    let s' := (s.setHline pa { h with rts := rts }).noteTime rts
    (s', s.lineData pa, s.timeAfter rts h.wts, s.timeAfter rts rts)

/-! ### Publications (R231, R255, R307) -/

/-- The copy that a reply brings to its core (R226, R231, R239). -/
def State.copyOf (s : State) (r : Rep) : Option Copy :=
  let line := lineOf r.va
  let mk (data : List Byte) (wts rts : Nat) (l : Leaf) (inc : Nat) : Copy :=
    { asid := r.asid, line := line, data := data, wts := wts, rts := rts, leaf := l, inc := inc, tag := s.tagOf r.team line
      latest := !r.gone, stable := [] }
  match r.kind with
  | .renewed data wts rts l inc _ => some (mk data wts rts l inc)
  | .published data w l inc => some (mk data w w l inc)
  | .atomic data w l inc _ _ => if l.attr = .uncached then none else some (mk data w w l inc)
  | .uncached _ _ _ _ => none
  | .failed _ _ => none
  | .failedOp _ _ _ _ => none

/-- Who publishes a line: its core and the ASID that it names the line under; none for the control die and engines. -/
abbrev Publisher := Option (Nat × Nat)

/-- The copy on core `c` of virtual line `line` is the publisher's own, which its reply replaces (R231). -/
def Publisher.owns (w : Publisher) (line c : Nat) (k : Copy) : Bool := w == some (c, k.asid) && k.line == line

/-- The dies whose cores hold a copy of a HOSTED line, the publisher's own aside: their invalidations must pass before a write
merges (R250, R255). -/
def State.holderDies (s : State) (pa line : Nat) (who : Publisher) : List Nat :=
  distinct ((s.cores.filter (fun p => p.2.copies.any (fun k => k.latest && k.leaf.attr == .hosted
    && decide (lineOf (k.leaf.phys k.line) = pa) && !who.owns line p.1 k))).map (fun p => dieOf p.1))

/-- The invalidations of a HOSTED line reach every die that holds it. -/
def State.holdersReached (s : State) (pa line : Nat) (who : Publisher) : Bool :=
  (s.holderDies pa line who).all (fun d => !s.dieLive d || s.pathOk (homeOf pa) d)

/-- The ways of a HOSTED line's invalidations, from its home to every die that holds it, come up (R250, R255). -/
def State.wakeHolders (s : State) (pa line : Nat) (who : Publisher) : State :=
  ((s.holderDies pa line who).filter s.dieLive).foldl (fun s d => s.wakeRoute (homeOf pa) d) s

/-- The copies that are hit lose their place, on every core and on their way to it, but for those that `keep` names; one that is
stable for a team stays for that team (R255). -/
def State.dropCopies (s : State) (hit : Copy → Bool) (keep : Nat → Copy → Bool) : State :=
  let cut (c : Nat) (ks : List Copy) : List Copy :=
    (ks.map (fun k => if hit k && !keep c k then { k with latest := false } else k)).filter (fun k => k.latest || !k.stable.isEmpty)
  { s with
    cores := s.cores.map (fun p => (p.1, { p.2 with copies := cut p.1 p.2.copies }))
    net := { s.net with reps := s.net.reps.map (fun r =>
      if (s.copyOf r).any (fun k => hit k && !keep r.core k) then { r with gone := true } else r) } }

/-- A HOSTED line loses every core copy, under whatever address it is held, but the publisher's own of `line` (R255). -/
def State.invalidate (s : State) (pa line : Nat) (who : Publisher) : State :=
  s.dropCopies (fun k => k.leaf.attr == .hosted && decide (lineOf (k.leaf.phys k.line) = pa)) (who.owns line)

/-- The same for a line of grid `g`'s shadow, which only copies with its tag show (R341). -/
def State.invalidateShadow (s : State) (g line : Nat) (who : Publisher) : State :=
  s.dropCopies (fun k => k.leaf.attr == .hosted && decide (k.tag = some g) && decide (k.line = line)) (who.owns line)

/-- Where a published byte goes: in the home line of a physical address, or in a shadow line. -/
structure Landing where
  va     : Nat
  pa     : Nat
  shadow : Bool
  hosted : Bool
  val    : Byte
  deriving DecidableEq, Repr

/-- The landings of bytes published under a context and a tag; a byte without a mapping lands nowhere. -/
def State.landings (s : State) (l1pa : Nat) (tag : Option Nat) (bs : List (Nat × Byte)) : List Landing :=
  bs.filterMap (fun p => match s.walk l1pa p.1 with
    | none => none
    | some l =>
      let sh := match tag with
        | some g => (s.gridOf g).declares p.1
        | none => false
      some { va := p.1, pa := l.phys p.1, shadow := sh, hosted := l.attr == .hosted, val := p.2 })

/-- The largest rts + 1 among the lines that landings touch (R231, R307). -/
def State.landingFloor (s : State) (tag : Option Nat) (ls : List Landing) : Nat :=
  maxOf 0 (ls.map (fun x =>
    if x.shadow then (s.shadowLine (tag.getD 0) (lineOf x.va) (lineOf x.pa)).rts + 1 else (s.hline (lineOf x.pa)).rts + 1))

/-- The home line `pa` with the bytes that land in it, all at time `w`; a line written whole is poisoned no longer (R253, R391). A
HOSTED line loses its copies, and one that holds table entries the translations made of them (R255, R277). -/
def State.mergeHome (s : State) (ls : List Landing) (w : Nat) (who : Publisher) (pa : Nat) : State :=
  let mine := ls.filter (fun x => !x.shadow && decide (lineOf x.pa = pa))
  let s0 := s.evictHome pa none
  let h := s0.hline pa
  let poison := h.poison.written (fun i => mine.any (fun x => x.pa == pa + i))
  let s1 := { s0.setHline pa { h with wts := w, rts := w, poison := poison } with
    mem := s.mem.writeList (mine.map (fun x => (x.pa, x.val))) }
  match mine.find? (·.hosted) with
  | some x => ((s1.wakeHolders pa (lineOf x.va) who).invalidate pa (lineOf x.va) who).dropMtb pa
  | none => s1

/-- The shadow line `line` of grid `g` with the bytes that land in it, all at time `w`. -/
def State.mergeShadow (s : State) (ls : List Landing) (g w line : Nat) (who : Publisher) : State :=
  let mine := ls.filter (fun x => x.shadow && decide (lineOf x.va = line))
  let x := s.shadowLine g line (lineOf (mine.headD { va := 0, pa := 0, shadow := false, hosted := false, val := 0 }).pa)
  let s1 := s.setShadowLine g line
    { x with wts := w, rts := w, written := (mine.map (fun y => (y.va - line, y.val))).reverse ++ x.written }
  if mine.any (·.hosted) then s1.invalidateShadow g line who else s1

/-- Publish what has been resolved to landings, with one write time W := max(t, every rts + 1) (R231, R307). A home that is dead
or has fenced itself takes nothing (R251). -/
def State.publishTo (s : State) (tag : Option Nat) (all : List Landing) (t : Nat) (who : Publisher) : State × Nat :=
  let ls := all.filter (fun x => x.shadow || !s.homeGone x.pa)
  let w := Nat.max t (s.landingFloor tag ls)
  let homes := distinct ((ls.filter (fun x => !x.shadow)).map (fun x => lineOf x.pa))
  let shadows := distinct ((ls.filter (fun x => x.shadow)).map (fun x => lineOf x.va))
  let s1 := homes.foldl (fun s pa => s.mergeHome ls w who pa) s
  let s2 := shadows.foldl (fun s line => s.mergeShadow ls (tag.getD 0) w line who) s1
  (s2.noteTime w, s2.timeAfter w w)

/-- The physical lines of the tables that a walk reads (R273, R277). -/
def State.walkLines (s : State) (l1pa va : Nat) : List Nat :=
  let next (a : Nat) (l3 : Bool) : Option Nat := (s.tableQuad a).bind (fun e => if e % 4 = 3 then nextTable e l3 else none)
  let a1 := l1pa + 8 * bitsOf va 51 42
  match next a1 false with
  | none => [lineOf a1]
  | some t2 =>
    let a2 := t2 + 8 * bitsOf va 41 29
    match next a2 false with
    | none => [lineOf a1, lineOf a2]
    | some t3 =>
      let a3 := t3 + 8 * bitsOf va 28 16
      match next a3 true with
      | none => [lineOf a1, lineOf a2, lineOf a3]
      | some t4 => [lineOf a1, lineOf a2, lineOf a3, lineOf (t4 + 8 * bitsOf va 15 12)]

/-- The slice's MTB keeps the translation of a line that it has served: a read-duplicated page maps two frames (R277, R279). -/
def State.noteWalk (s : State) (l1pa va : Nat) (l : Leaf) : State :=
  let e : MtbEntry := { slice := homeSlice va, tables := s.walkLines l1pa va, pa := l.pa, size := l.span }
  let es := if l.rd then [e, { e with pa := l.pa + l.size }] else [e]
  { s with dev := { s.dev with mtb := es.filter (fun e => !s.dev.mtb.contains e) ++ s.dev.mtb } }

/-- The MTBs keep the translations of the lines of some addresses (R277). -/
def State.noteWalks (s : State) (l1pa : Nat) (vas : List Nat) : State :=
  (distinct (vas.map lineOf)).foldl (fun s va => match s.walk l1pa va with
    | some l => s.noteWalk l1pa va l
    | none => s) s

/-- Publish bytes, later entries over earlier ones; W is returned (R231, R307). -/
def State.publish (s : State) (l1pa : Nat) (tag : Option Nat) (bs : List (Nat × Byte)) (t : Nat) (who : Publisher) :
    State × Nat :=
  (s.noteWalks l1pa (bs.map (·.1))).publishTo tag (s.landings l1pa tag bs) t who

/-- A time of 2^32 - 1 is not taken while a rebase is outstanding (R246). -/
def State.tooLate (s : State) (t : Nat) : Bool := s.dev.rebase && decide (2 ^ 32 - 1 ≤ t)

/-- A publication of backing copies or zero maps, made at time `t` and in one step from die `a`, 2 being the control die (R250, R264). -/
def State.publishFrom (s : State) (a l1pa : Nat) (bs : List (Nat × Byte)) (t : Nat) : State :=
  ((s.wakeHomes a ((s.landings l1pa none bs).map (·.pa))).publish l1pa none bs t none).1

/-- J rises to the write time of a publication (R254). -/
def State.raiseJ (r : State × Nat) : State × Nat :=
  ({ r.1 with dev := { r.1.dev with j := Nat.max r.1.dev.j r.2 } }, r.2)

/-- Publish bytes at physical addresses at the ingress time J (R254). -/
def State.publishPa (s : State) (bs : List (Nat × Byte)) : State × Nat :=
  State.raiseJ ((s.wakeHomes 2 (bs.map (·.1))).publishTo none
    (bs.map (fun b => { va := b.1, pa := b.1, shadow := false, hosted := true, val := b.2 })) s.dev.j none)

/-- A publication that the control die makes, or lets in, at the ingress time J, which rises to its W (R254). -/
def State.publishJ (s : State) (l1pa : Nat) (tag : Option Nat) (bs : List (Nat × Byte)) : State × Nat :=
  State.raiseJ ((s.wakeHomes 2 ((s.landings l1pa tag bs).map (·.pa))).publish l1pa tag bs s.dev.j none)

/-- (address, byte) pairs of bytes from an address on. -/
def bytesAt (a : Nat) (bs : List Byte) : List (Nat × Byte) := (List.range bs.length).map (fun i => (a + i, bs.getD i 0))

/-- Bytes of a quad at an address (R6). -/
def quadBytes (a v : Nat) : List (Nat × Byte) := bytesAt a (bytesLE 8 v)

/-! ### Atomics (R183, R287, R289) -/

/-- add32 of R183 with SAT = 0: RNE, subnormals kept, no flags. -/
def add32 (a b : Nat) : Nat := (fp32.deliver .rne false (fAdd .rne (fp32.decode a) (fp32.decode b))).1

/-- The new value of an atomic on a word of `k` bytes. -/
def atomNew (op : AOp) (k old b c : Nat) : Nat :=
  let m := 2 ^ (8 * k)
  let sg (x : Nat) : Int := if m / 2 ≤ x then (x : Int) - m else x
  match op with
  | .add => (old + b) % m
  | .fadd => add32 (old % m) (b % m)
  | .min => if sg (b % m) < sg old then b % m else old
  | .max => if sg old < sg (b % m) then b % m else old
  | .and => Nat.land old (b % m)
  | .or => Nat.lor old (b % m)
  | .xor => Nat.xor old (b % m)
  | .xchg => b % m
  | .cas => if old = b % m then c % m else old

/-- An atomic at the home of `va` or in its shadow: the old value and its write time (R239). -/
def State.atomicAt (s : State) (l1pa : Nat) (tag : Option Nat) (va pa k : Nat) (op : AOp) (b c t : Nat)
    (who : Publisher) : State × Nat × Nat :=
  let old := natLE (((s.seenLine tag (lineOf va) (lineOf pa)).drop (va - lineOf va)).take k)
  let r := s.publish l1pa tag (bytesAt va (bytesLE k (atomNew op k old b c))) t who
  (r.1, old, r.2)

/-! ### Copies that replies install -/

/-- Install a renewed copy, stable for the teams `ts`; older copies of the line stay only for the other teams that hold them
stable (R226, R227). -/
def Core.install (c : Core) (ts : List Nat) (k : Copy) : Core :=
  let old (j : Copy) : Bool := decide (j.asid = k.asid) && decide (j.line = k.line) && decide (j.tag = k.tag)
  let rest := (c.copies.map (fun j =>
      if old j then { j with latest := false, stable := j.stable.filter (fun u => !ts.contains u) } else j)).filter
    (fun j => j.latest || !j.stable.isEmpty)
  { c with copies := { k with stable := ts } :: rest }

/-- A published line replaces every copy of it on the publishing core, stable ones included (R228, R231), unless it has
been invalidated on its way (R255). -/
def Core.replace (c : Core) (k : Copy) : Core :=
  let rest := c.copies.filter (fun j => !(decide (j.asid = k.asid) && decide (j.line = k.line)))
  { c with copies := if k.latest then k :: rest else rest }

/-! ### L1 and the view overflow areas (R227, R229, R230, R262) -/

/-- Lines that an L1 of a size code holds: 16 in each of its frames (R262). -/
def l1Lines (code : Nat) : Nat := 16 * (64 * 2 ^ code)

/-- The lines that the L1 of a core holds, each version in a line of its own: copies, and unpublished lines of resident
teams, that are not in a view overflow area. -/
def State.inL1 (s : State) (core : Nat) : List Nat :=
  let out (u l : Nat) : Bool := (s.teamOf u).ovf.contains l
  (((s.coreOf core).copies.filter (fun k => k.latest || k.stable.any (fun u => !out u k.line))).map (·.line))
    ++ (s.teamKeys.filter (fun u => (s.teamOf u).core == core && (s.teamOf u).status == .placed)).flatMap (fun u =>
      (distinct ((s.teamOf u).unpub.map (fun p => lineOf p.1))).filter (fun l => !out u l))

/-- The teams whose view overflow areas a line's eviction puts it in: those it is stable for, or holds unpublished bytes
of (R227, R229). -/
def State.keepers (s : State) (core line : Nat) : List Nat :=
  let stable := (s.coreOf core).copies.flatMap (fun c => if c.line == line then c.stable else [])
  s.teamKeys.filter (fun u =>
    let x := s.teamOf u
    x.core == core && x.status == .placed && !x.ovf.contains line
      && (stable.contains u || x.unpub.any (fun p => lineOf p.1 == line)))

/-- L1 evicts `line`: copies that are stable for teams, and unpublished bytes, go to the view overflow areas of their teams,
from which they are read as before. A team whose area is full takes a forced point first (R227, R229, R230). -/
def State.evictCopy (s : State) (core line : Nat) : State :=
  let ks := s.keepers core line
  let full := ks.filter (fun u => decide (4096 ≤ (s.teamOf u).ovf.length))
  if !full.isEmpty then full.foldl (fun s u => s.setTeamOf u { s.teamOf u with forced := true }) s
  else
    let k := s.coreOf core
    let s1 := s.setCoreOf core { k with copies := (k.copies.map (fun c =>
      if c.line == line then { c with latest := false } else c)).filter (fun c => c.latest || !c.stable.isEmpty) }
    ks.foldl (fun s u => let x := s.teamOf u; s.setTeamOf u { x with ovf := x.ovf ++ [line] }) s1

/-- Room for one more line in the L1 of a core: a named line is evicted, or, once L1 is full, one that a free value picks. -/
def State.makeRoom (s : State) (core : Nat) (victim : Option Nat) : State :=
  match victim with
  | some v => s.evictCopy core v
  | none =>
    let ls := s.inL1 core
    if ls.length < l1Lines (s.coreOf core).l1 then s
    else ({ s with fresh := s.fresh + 1 } : State).evictCopy core (ls.getD ((Config.freeBits s.fresh).toNat % ls.length) 0)

/-- Bytes of a store become unpublished bytes of team `t` (R229). -/
def State.addUnpub (s : State) (t : Nat) (bs : List (Nat × Byte)) : State :=
  let x := s.teamOf t
  let s1 := if bs.all (fun b => x.unpub.any (fun p => lineOf p.1 == lineOf b.1)) then s else s.makeRoom x.core none
  let y := s1.teamOf t
  s1.setTeamOf t { y with unpub := bs.reverse ++ y.unpub }

/-! ### Host-held granules (R256 to R258) -/

/-- What of a physical range is to be had from the host first: granules that it holds in one of the given states, and lines of its
own memory that the control die does not hold (R256, R257). -/
def State.hostGranules (s : State) (a n : Nat) (st : List Nat) : List Nat :=
  if isHostPa a then (distinct ((addrRange a n).map lineOf)).filter (fun l => !s.dev.hostLines.contains l)
  else (distinct ((addrRange a n).map (fun x => x / 64 * 64))).filter (fun g => st.contains (Tab.get 0 s.dev.gran g))

/-- A core holds a copy of a HOSTED line (R256). -/
def State.coreHolds (s : State) (pa : Nat) : Bool :=
  s.cores.any (fun p => p.2.copies.any (fun k => k.latest && k.leaf.attr == .hosted && decide (lineOf (k.leaf.phys k.line) = pa)))

/-- The states of a 4 KiB region in the directory; `split` stands for one split into granules (R256). -/
inductive RegionState where
  | ri | rc | rh | split
  deriving DecidableEq, Repr

/-- The states of a 64-byte granule (R256). -/
inductive GranState where
  | gi | gc | ghs | ghe
  deriving DecidableEq, Repr

/-- The state of a region: who holds anything of it (R256). -/
def State.regionState (s : State) (r : Nat) : RegionState :=
  match (List.range 32).any (fun i => s.coreHolds (r + 128 * i)), (s.hostGranules r 4096 [1, 2]).isEmpty with
  | false, true => .ri
  | true, true => .rc
  | false, false => .rh
  | true, false => .split

/-- The state of a granule (R256). -/
def State.granState (s : State) (g : Nat) : GranState :=
  match Tab.get 0 s.dev.gran g with
  | 0 => if s.coreHolds (lineOf g) then .gc else .gi
  | 1 => .ghs
  | _ => .ghe

/-- What the host holds exclusively of the tables that a walk reads: the walk is a HOSTED access (R257, R277). -/
def State.tableHeld (s : State) (l1pa va : Nat) : List Nat :=
  (s.walkLines l1pa va).flatMap (fun l => s.hostGranules l 128 [2])

/-- Send the snoops for granules, and the CXL.cache requests for lines of host memory, that are not yet outstanding (R257). -/
def State.snoop (s : State) (gs : List Nat) (inv : Bool) : State :=
  { s with net := { s.net with
      snoops := s.net.snoops ++ (gs.filter (fun g => !isHostPa g && !s.net.snoops.any (fun p => p.1 == g))).map (fun g => (g, inv))
      hostRq := s.net.hostRq ++ gs.filter (fun g => isHostPa g && !s.net.hostRq.contains g) } }

/-- The host action that an access of a HOSTED line needs first: snoops of the granules that the host holds, or a request for the
line of host memory (R257, R258). None when nothing is needed. -/
def State.hostFirst (s : State) (l : Leaf) (a n : Nat) (inv : Bool) : Option State :=
  let gs := s.hostGranules a n (if inv then [1, 2] else [2])
  if l.attr ≠ .hosted || gs.isEmpty then none else some (s.snoop gs inv)

/-! ### Requests on their way (R248, R250) -/

/-- The core of a team runs: its die is neither dead, fenced nor gated (R251, R252, R394). -/
def State.coreRuns (s : State) (t : Nat) : Bool :=
  let d := dieOf (s.teamOf t).core
  s.dieLive d && !(s.dieAt d).gated

/-- A team is resident on a core that runs: what its core does for it happens (R251). -/
def State.onCore (s : State) (t : Nat) : Bool := (s.teamOf t).status == .placed && s.coreRuns t

/-- The home slice that a request of core `c` goes to: a read-duplicated page is read on the core's own die (R279), and 32 is
the control die. -/
def State.reqSlice (s : State) (r : Req) : Nat :=
  match s.walk (s.l1Of r.team) r.va with
  | some l => if isHostPa l.pa then 32 else if l.rd then 16 * dieOf r.core + bitsOf r.va 10 7 else homeSlice r.va
  | none => homeSlice r.va

/-- A home reaches the core over the links as they stand, or is gone, which its own die answers (R252). -/
def State.reqPath (s : State) (r : Req) : Bool :=
  let d := s.reqSlice r / 16
  s.pathOk (dieOf r.core) d || (decide (d < 2) && !s.dieLive d)

/-- The directory needs room and evicts the entry of the 4 KiB region `r`: every core that holds a line of it is invalidated, once
its die can be reached, every MTB whose walk read one loses its translation, and every granule of the host is back-invalidated (R256,
R277). -/
def State.reclaim (s : State) (r : Nat) : State :=
  let lines := (List.range 32).map (fun i => r + 128 * i)
  if r % 4096 ≠ 0 || !lines.all (fun l => s.holdersReached l l none) then s
  else (lines.foldl (fun s l => (s.invalidate l l none).dropMtb l) s).snoop (s.hostGranules r 4096 [1, 2]) true

/-- Request `n` can be handled: no earlier one of its core and slice is in flight, and its path is up (R248, R250). -/
def State.reqReady (s : State) (n : Nat) : Bool :=
  match s.net.reqs[n]? with
  | none => false
  | some r =>
    s.reqPath r && !(s.net.reqs.take n).any (fun q => q.core == r.core && s.reqSlice q == s.reqSlice r)

/-- Take request `n` out of the messages in flight. -/
def State.dropReq (s : State) (n : Nat) : State :=
  { s with net := { s.net with reqs := s.net.reqs.eraseIdx n } }

/-- The reply that refuses a request: an atomic, a store and a dadd update in the lane that sent them (R50, R52, R252). -/
def ReqKind.refusal (k : ReqKind) (code : Nat) : RepKind :=
  match k with
  | .renew _ => .failed code false
  | .publish _ => .failed code true
  | .ustore bs lane => .failedOp code bs.length lane true
  | .dadd _ i _ _ => .failedOp code 4 (i % 32) true
  | .atomic _ n _ _ lane => .failedOp code n lane true
  | .uload n lane => .failedOp code n lane false

/-- A publication or an atomic brings its core no copy of a line that still reads as poisoned (R253), nor of a HOSTED line of which the
host holds a granule exclusively (R256, R258). -/
def State.noCopy (s : State) (r : Req) (k : RepKind) : Bool :=
  let bad (l : Leaf) : Bool :=
    let pa := lineOf (l.phys r.va)
    s.poisoned pa || (l.attr == .hosted && !(s.hostGranules pa 128 [2]).isEmpty)
  match k with
  | .published _ _ l _ => bad l
  | .atomic _ _ l _ _ _ => bad l
  | _ => false

/-- Reply to a request, in the order of its slice and core (R248). -/
def State.reply (s : State) (r : Req) (k : RepKind) : State :=
  { s with net := { s.net with
      reps := s.net.reps ++ [{ id := r.id, core := r.core, team := r.team, agent := r.agent, asid := r.asid, va := r.va,
                               kind := k, slice := s.reqSlice r, gone := s.noCopy r k }] } }

end Sys2Proof.Machine
end

