-- ==== Sys2Proof/Machine/Window.lean ====
section
/-!
DEFINITION. Local store as pages: frames of a core (R262, R263), the backing region of a team (R264), filling and
evicting pages (R265, R266, R268), and the bytes of a window (R238).
-/

namespace Sys2Proof.Machine

open Sys2Proof

/-! ### The context record's parts (R320, R324)

Where in its record a structure lies is not architectural; the header locates it. DESIGN CHOICE, log entry 24; unsafe for a
claim that names such an offset. -/

def recTrap : Nat := 0x1000
def recPages : Nat := 0x3000
def recLate : Nat := 0x8000
def recPhase : Nat := 0x10000
def recSpill : Nat := 0x60000
def recView : Nat := 0xB0000
def recBack : Nat := 0x130000

/-- Bytes of the record of a team with a window of `kib` KiB, a multiple of 4 KiB. -/
def recSize (kib : Nat) : Nat := (recBack + 2048 + kib * 1024 + 4095) / 4096 * 4096

/-- The backing region base of a team (R264). -/
def Team.bkva (x : Team) : Nat := x.recVA + recBack

/-! ### Reads and writes of the control die and the cores through a context's tables -/

/-- The byte at a virtual address under a level-1 table; 0 where nothing is mapped. -/
def State.readVa (s : State) (l1pa va : Nat) : Byte :=
  match s.walk l1pa va with
  | none => 0
  | some l => s.mem.read (l.phys va)

/-- `n` bytes from a virtual address. -/
def State.readVaN (s : State) (l1pa va n : Nat) : List Byte := (addrRange va n).map (s.readVa l1pa)

/-- A quad at a virtual address. -/
def State.quadVa (s : State) (l1pa va : Nat) : Nat := natLE (s.readVaN l1pa va 8)

/-- The 64-byte granules that `n` bytes from an address lie in. -/
def granulesOf (a n : Nat) : List Nat := (List.range ((a % 64 + n + 63) / 64)).map (fun i => a / 64 * 64 + 64 * i)

/-- The granule at a virtual address cannot be read: it is poisoned, or its home, or that of a table on the way to it, cannot answer
(R251 to R253, R387, R392). -/
def State.badGranule (s : State) (l1pa a : Nat) : Bool :=
  match s.walk l1pa a with
  | some l => l.attr != .remote && (s.homeGone (l.phys a) || s.poisonedIn (l.phys a) 64)
  | none => s.walkLost l1pa a

/-- Some of `n` bytes at a virtual address cannot be read. -/
def State.badVa (s : State) (l1pa va n : Nat) : Bool := (granulesOf va n).any (s.badGranule l1pa)

/-! ### Frames (R262) -/

/-- Frames of L1 for a size code: local store takes the frames from there to 767. -/
def l1Frames (code : Nat) : Nat := 64 * 2 ^ code

/-- The lowest local-store frame that no entry holds. -/
def Core.freeFrame (c : Core) : Option Nat :=
  ((List.range 768).filter (fun f => decide (l1Frames c.l1 ≤ f))).find? (fun f => !c.ltt.any (fun e => e.frame == f))

/-- The window pages, (team, page), that shadow bytes lie in. -/
def shadowPages (sh : List (Nat × Nat × Byte)) : List (Nat × Nat) :=
  ((sh.filter (fun x => x.1 != 0)).map (fun x => (x.1 - 1, x.2.1 / 2048))).eraseDups

/-- A command's shadow bytes stand in frames (R267). -/
def Cmd.holds (c : Cmd) : Bool := c.stage == .shadow || c.stage == .published || c.stage == .deferred || (c.stage == .complete && c.status == 0x0B)

/-- A window page has a shadow: its two frames are pinned (R267, R268). -/
def State.pinned (s : State) (t page : Nat) : Bool :=
  s.net.cmds.any (fun c => c.holds && c.shadow.any (fun x => x.1 == t + 1 && x.2.1 / 2048 == page))

/-- A page filled for an agent that has not issued again since (R266). -/
def State.heldPage (s : State) (t page : Nat) : Bool :=
  s.groups.any (fun p => p.2.hold.contains (t, page) && (s.teamOf (p.1 / 32)).status == .placed)

/-- The pages of `n` bytes from an offset. -/
def pagesOf (off n : Nat) : List Nat := (List.range ((off % 2048 + n + 2047) / 2048)).map (fun i => off / 2048 + i)

/-- An issued store that is not yet performed targets a page, over the network or from the team itself (R268). -/
def State.targeted (s : State) (t page : Nat) : Bool :=
  s.groups.any (fun p => (s.teamOf (p.1 / 32)).status == .placed && p.2.stores.any (fun w =>
    w.target == .window t && (pagesOf w.addr w.bytes.length).contains page))

/-- Shadow frames of core `c` whose shadows have been discarded are free (R267). -/
def State.sweepShadows (s : State) (c : Nat) : State :=
  let k := s.coreOf c
  if k.ltt.any (fun e => e.shd && !s.pinned e.team e.vpage) then
    s.setCoreOf c { k with ltt := k.ltt.filter (fun e => !e.shd || s.pinned e.team e.vpage) }
  else s

/-- The backing copy of a page of team `t` takes its 2,048 bytes from die `a`, but for those that are uncorrectable, whose lines stay
poisoned, and its
zero-map bit is cleared (R264, R268, R391). -/
def State.writeBack (s : State) (a t page ct : Nat) (data : List Byte) (bad : List Nat) : State :=
  let x := s.teamOf t
  let l1 := x.ctx.l1pa
  let z := x.bkva + page / 8
  let old := (s.readVa l1 z).toNat
  let bit := 2 ^ (page % 8)
  let new := if old / bit % 2 = 1 then old - bit else old
  let good := (bytesAt (2048 * page) data).filter (fun b => !bad.contains b.1)
  s.publishFrom a l1 (good.map (fun b => (x.bkva + 2048 + b.1, b.2)) ++ [(z, BitVec.ofNat 8 new)]) ct

/-- A page leaves its frame: dirty bytes go to the backing copy (R268). -/
def State.evict (s : State) (c : Nat) (e : Ltt) : State :=
  let x := s.teamOf e.team
  let s1 := if e.dirty then s.writeBack (dieOf c) e.team e.vpage (s.ctSent c) (x.ls.readN (2048 * e.vpage) 2048) x.lsBad else s
  let y := s1.teamOf e.team
  let s2 := s1.setTeamOf e.team { y with
    ls := y.ls.filter (fun p => p.1 / 2048 != e.vpage), lsBad := y.lsBad.filter (fun o => o / 2048 != e.vpage) }
  let k := s2.coreOf c
  s2.setCoreOf c { k with ltt := k.ltt.filter (fun f => !(f.team == e.team && f.vpage == e.vpage && !f.shd)) }

/-- An entry may leave its frame: it is not pinned, not held for a replay, and not named by `keep` (R266, R268). -/
def State.evictable (s : State) (keep : List (Nat × Nat)) (e : Ltt) : Bool :=
  !e.shd && !s.pinned e.team e.vpage && !s.targeted e.team e.vpage && !s.heldPage e.team e.vpage && !keep.contains (e.team, e.vpage)

/-- The entry that is evicted when no frame is free: which one is not architectural (R268). -/
def State.victim (s : State) (c : Nat) (keep : List (Nat × Nat)) : Option Ltt := (s.coreOf c).ltt.find? (s.evictable keep)

/-- A frame of core `c`, free or freed by an eviction, and room in its table of 4,096 entries (R263, R268). -/
def State.takeFrame (s : State) (c : Nat) (keep : List (Nat × Nat)) : State × Option Nat :=
  let s0 := s.sweepShadows c
  let full := decide (4096 ≤ (s0.coreOf c).ltt.length)
  let s1 := match (if full then none else (s0.coreOf c).freeFrame) with
    | some _ => s0
    | none => match s0.victim c keep with
      | some e => s0.evict c e
      | none => s0
  (s1, if 4096 ≤ (s1.coreOf c).ltt.length then none else (s1.coreOf c).freeFrame)

/-- The bytes that an away page reads as: its backing copy, or zeros (R264, R265). -/
def State.backing (s : State) (t page : Nat) : List (Nat × Byte) :=
  let x := s.teamOf t
  let l1 := x.ctx.l1pa
  if bitOf (s.readVa l1 (x.bkva + page / 8)).toNat (page % 8) then []
  else bytesAt (2048 * page) (s.readVaN l1 (x.bkva + 2048 * (page + 1)) 2048)

/-- The bytes of an away page whose backing copy, or whose bit in the zero map, cannot be read (R264, R284, R392). -/
def State.backingBad (s : State) (t page : Nat) : List Nat :=
  let x := s.teamOf t
  let l1 := x.ctx.l1pa
  let b := x.bkva + 2048
  if s.badVa l1 (x.bkva + page / 8) 1 then addrRange (2048 * page) 2048
  else if (s.backing t page).isEmpty then []
  else ((granulesOf (b + 2048 * page) 2048).filter (s.badGranule l1)).flatMap (fun a => addrRange (a - b) 64)

/-- Frames of a core that engine commands pin: shadows, and the frames of the pages that they shadow (R268). -/
def State.pinCount (s : State) (c : Nat) : Nat :=
  ((s.coreOf c).ltt.filter (fun e => s.pinned e.team e.vpage)).length

/-- Give a page of team `t` a frame and its bytes: from the backing copy, or zeros (R265). `keep` are pages that must
stay (R266). Nothing happens when the page is resident or no frame can be had; that of a page with a shadow is pinned, and is one of at
most 256 (R268). -/
def State.fillPage (s : State) (keep : List (Nat × Nat)) (t page : Nat) : State :=
  if s.pageIn t page || (s.pinned t page && decide (256 ≤ s.pinCount (s.teamOf t).core)) then s
  else
    let c := (s.teamOf t).core
    let r := s.takeFrame c keep
    match r.2 with
    | none => r.1
    | some f =>
      let x := r.1.teamOf t
      let s2 := r.1.setTeamOf t { x with ls := x.ls.writeList (r.1.backing t page), lsBad := x.lsBad ++ r.1.backingBad t page }
      let k := s2.coreOf c
      s2.setCoreOf c { k with ltt := k.ltt ++
        [{ team := t, vpage := page, frame := f, dirty := false, acc := false, state := 0, shd := false }] }

/-- Frames that a core could give now: free ones and those of entries that may leave (R266). -/
def State.frameStock (s : State) (c : Nat) : Nat :=
  let k := (s.sweepShadows c).coreOf c
  768 - l1Frames k.l1 - (k.ltt.filter (fun e => !s.evictable [] e)).length

/-- Core `c` would have more than 256 pinned frames once the pages `ps` have their shadows (R268). -/
def State.overPinned (s : State) (ps : List (Nat × Nat)) (c : Nat) : Bool :=
  let mine := ps.filter (fun p => (s.teamOf p.1).core == c)
  decide (256 < s.pinCount c + mine.length + (mine.filter (fun p => s.pageIn p.1 p.2)).length)

/-- A command of team `own` may go on with a page of team `t`'s window while that team is away: only its own team's, which the control
die keeps; an access directed at another team waits for it (R312, R327, R339). -/
def State.awayOwn (s : State) (own t : Nat) : Bool :=
  let st := (s.teamOf t).status
  t == own && (st == .saved || st == .trapped || st == .atBoundary)

/-- A page of a team stands in a frame of its core, or its shadow does (R267, R268). -/
def State.framed (s : State) (t page : Nat) : Bool :=
  (s.coreOf (s.teamOf t).core).ltt.any (fun e => e.team == t && e.vpage == page)

/-- Bind a shadow frame for each of the pages `ps` of resident teams, for a command of team `own`; none while another team is away, a
core has no frame or table entry to give, or its engine commands would pin more than 256 frames (R267, R268, R312). -/
def State.bindShadows (s : State) (own : Nat) (ps0 : List (Nat × Nat)) : Option State :=
  let ps := ps0.filter (fun p => !s.awayOwn own p.1)
  let cores := distinct (ps.map (fun p => (s.teamOf p.1).core))
  if ps.any (fun p => (s.teamOf p.1).status != .placed) || cores.any (s.overPinned ps) then none
  else ps.foldl (fun r p => match r with
    | none => none
    | some s =>
      let c := (s.teamOf p.1).core
      let q := s.takeFrame c ps
      q.2.map (fun f =>
        let k := q.1.coreOf c
        q.1.setCoreOf c { k with ltt := k.ltt.filter (fun e => !(e.shd && e.team == p.1 && e.vpage == p.2)) ++
          [{ team := p.1, vpage := p.2, frame := f, dirty := true, acc := false, state := 0, shd := true }] })) (some s)

/-- Fill each of a list of pages (team, page). -/
def State.fillPages (s : State) (ps : List (Nat × Nat)) : State :=
  ps.foldl (fun s p => s.fillPage ps p.1 p.2) s

/-! ### The bytes of a window (R238) -/

/-- Bytes from an offset of team `t`'s window. -/
def State.windowRead (s : State) (t off n : Nat) : List Byte := (s.teamOf t).ls.readN off n

/-- Mark the pages of a range accessed, and dirty when they are written (R263). -/
def Core.touch (c : Core) (t : Nat) (pages : List Nat) (wr : Bool) : Core :=
  { c with ltt := c.ltt.map (fun e =>
      if e.team == t && pages.contains e.vpage then { e with acc := true, dirty := e.dirty || wr } else e) }

/-- Reads of window bytes (team, offset, count) mark their pages accessed (R263). -/
def State.readWindows (s : State) (l : List (Nat × Nat × Nat)) : State :=
  l.foldl (fun s p => let c := (s.teamOf p.1).core; s.setCoreOf c ((s.coreOf c).touch p.1 (pagesOf p.2.1 p.2.2) false)) s

/-- Perform a store to team `t`'s window (R238). -/
def State.windowWrite (s : State) (t off : Nat) (bs : List Byte) : State :=
  let x := s.teamOf t
  let s1 := s.setTeamOf t { x with ls := x.ls.writeN off bs, lsBad := x.lsBad.filter (fun o => o < off || decide (off + bs.length ≤ o)) }
  let c := s1.coreOf x.core
  s1.setCoreOf x.core (c.touch t (pagesOf off bs.length) true)

/-- The shadow of a page becomes its frame: the bytes of the visible frame, or of the backing copy of an away page, with the
engine's over them; the old frame is freed (R267). -/
def State.swapShadow (s : State) (t page : Nat) (bs : List (Nat × Byte)) : State :=
  let x := s.teamOf t
  let base := if s.pageIn t page then x.ls else x.ls.writeList (s.backing t page)
  let bad := if s.pageIn t page then x.lsBad else x.lsBad ++ s.backingBad t page
  let s1 := s.setTeamOf t { x with ls := base.writeList bs, lsBad := bad.filter (fun o => !bs.any (fun b => b.1 == o)) }
  let k := s1.coreOf x.core
  let has := k.ltt.any (fun e => e.shd && e.team == t && e.vpage == page)
  s1.setCoreOf x.core { k with ltt :=
    (k.ltt.filter (fun e => !(has && !e.shd && e.team == t && e.vpage == page))).map (fun e =>
      if e.team == t && e.vpage == page then { e with shd := false, dirty := true, acc := true } else e) }

/-- The shadow of a page of a team that is away becomes its backing copy (R264, R267, R312). -/
def State.swapAway (s : State) (t page : Nat) (bs : List (Nat × Byte)) : State :=
  s.writeBack 2 t page (s.teamOf t).ct ((Memory.writeList (Memory.writeList [] (s.backing t page)) bs).readN (2048 * page) 2048)
    ((s.backingBad t page).filter (fun o => !bs.any (fun b => b.1 == o)))

/-! ### Issued stores (R75, R229, R238) -/

/-- A store of the issuing agent joins the stores that it has issued and not performed. -/
def Group.issueStore (g : Group) (p : PStore) : Group := { g with stores := g.stores ++ [p] }

/-- The phase of team `t` has held a store or atomic to local store or the window (R318): marked as it issues, and again as it
is performed, for a side sequencer's store may be performed in a later phase. -/
def State.usedWindow (s : State) (t : Nat) : State :=
  let x := s.teamOf t
  s.setTeamOf t { x with used := { x.used with localStore := true } }

/-- A store to the window of a team that is away: to its frame, where an engine's shadow keeps the page in one, else to its backing copy
(R264, R312). -/
def State.storeAway (s : State) (u off : Nat) (bs : List Byte) : State :=
  (pagesOf off bs.length).foldl (fun s p =>
    let mine := (bytesAt off bs).filter (fun b => b.1 / 2048 == p)
    if s.pageIn u p then s.windowWrite u ((mine.headD (0, 0)).1) (mine.map (·.2)) else s.swapAway u p mine) s

/-- Perform one issued store of team `t`. The window of a team that has ended meanwhile is gone, and the store with it
(DEDUCED, log entry 43). -/
def State.performStore (s : State) (t : Nat) (p : PStore) : State :=
  match p.target with
  | .global => s.addUnpub t (bytesAt p.addr p.bytes)
  | .window u =>
    if (s.teamOf u).status = .ended then s
    else if (s.teamOf u).status = .placed then (s.usedWindow t).windowWrite u p.addr p.bytes
    else (s.usedWindow t).storeAway u p.addr p.bytes

/-- Frames for the pages that an issued window store of a resident team needs (R266). -/
def State.fillFor (s : State) (p : PStore) : State :=
  match p.target with
  | .global => s
  | .window u =>
    if (s.teamOf u).status = .placed then s.fillPages ((pagesOf p.addr p.bytes.length).map (fun g => (u, g))) else s

/-- A store of team `t` can be performed now: a window store needs its team resident and its page in a frame (R266, R327), unless that
team has ended, or is the team itself, which is away (R312). -/
def State.canPerform (s : State) (t : Nat) (p : PStore) : Bool :=
  match p.target with
  | .global => true
  | .window u => (s.teamOf u).status == .ended || s.awayOwn t u
    || ((s.teamOf u).status == .placed && (pagesOf p.addr p.bytes.length).all (s.pageIn u))

/-- No access of the group that issued before a store can still be refused (R50, R56; DEDUCED, log entry 17). -/
def Group.settled (g : Group) (p : PStore) : Bool := g.outs.all (fun o => decide (p.id ≤ o.id))

/-- Perform the stores of an agent that satisfy `f`, as far as they can be performed; those to one target in issue
order. -/
def State.drainIf (s : State) (t a : Nat) (f : PStore → Bool) : State :=
  let g := s.agent t a
  if !g.stores.any f then s
  else
    let go (acc : State × List PStore) (p : PStore) : State × List PStore :=
      let s1 := if f p then acc.1.fillFor p else acc.1
      if f p && g.settled p && s1.canPerform t p && !acc.2.any (fun q => q.target == p.target) then (s1.performStore t p, acc.2)
      else (s1, acc.2 ++ [p])
    let r := g.stores.foldl go (s, [])
    let g' := r.1.agent t a
    r.1.setAgent t a { g' with stores := r.2 }

/-- Perform every issued store of the current agent (R229, R133). -/
def State.drain (s : State) : State := s.drainIf s.cur.1 s.cur.2 (fun _ => true)

/-- Perform the issued stores of the current agent to the window of team `u` (R238). -/
def State.drainWindow (s : State) (u : Nat) : State :=
  s.drainIf s.cur.1 s.cur.2 (fun p => p.target == .window u)

/-- The stores of the current agent are all performed. -/
def State.drained (s : State) : Bool := s.grp.stores.isEmpty

/-- The latest issued store of an agent to a target that holds a byte. -/
def storeByte (k : StoreTarget) (l : List PStore) (a : Nat) : Option Byte :=
  l.foldl (fun r p =>
    if p.target == k && decide (p.addr ≤ a) && decide (a < p.addr + p.bytes.length) then p.bytes[a - p.addr]? else r)
    none

/-- A byte that the team itself wrote and that is not yet in a copy: issued by this agent, unpublished, or published and
not yet acknowledged (R75, R76, R229). -/
def State.ownByte (s : State) (t a va : Nat) : Option Byte :=
  let x := s.teamOf t
  match storeByte .global (s.agent t a).stores va with
  | some b => some b
  | none => match pairAt x.unpub va with
    | some b => some b
    | none => (x.pubs.reverse.find? (fun p => p.line == lineOf va && p.bytes.any (fun y => y.1 == va % 128))).bind
        (fun p => pairAt p.bytes (va % 128))

end Sys2Proof.Machine
end

