-- ==== Sys2Proof/Machine/Sched.lean ====
section
/-!
DEFINITION. Switching teams out and in: the context record (R324), the phase record (R325), the trap record (R333), the
modes of pre-emption (R326 to R330), the switch-outs that come from no request (R266, R280, R281, R327), and late
replies (R331).
-/

namespace Sys2Proof.Machine

open Sys2Proof

/-! ### Records in memory (R324, R325, R333) -/

/-- The groups of a team that have not ended. -/
def State.liveGroups (s : State) (t : Nat) : List Nat :=
  (List.range (s.teamOf t).ngrp).filter (fun a => (s.agent t a).status != .ended)

def stateCode (x : TStatus) : Nat :=
  match x with
  | .queued => 0 | .placed => 0 | .saved => 1 | .atBoundary => 2 | .cocooned => 3 | .trapped => 4 | .ended => 0

/-- The header of a context record. -/
def State.recordHeader (s : State) (t : Nat) : List Byte :=
  let x := s.teamOf t
  let ph := x.status == .atBoundary
  let tr := x.status == .trapped
  bytesLE 8 (x.asid * 2 ^ 32 + (s.liveGroups t).length * 2 ^ 24 + stateCode x.status * 2 ^ 16 + 1)
    ++ bytesLE 8 (x.rank * 2 ^ 32 + x.node)
    ++ bytesLE 8 ((if tr then recTrap else 0) * 2 ^ 32 + (if ph then recPhase else 0))
    ++ bytesLE 8 (x.plist.length * 2 ^ 32 + recPages) ++ bytesLE 8 (x.late.length * 2 ^ 32 + recLate)
    ++ bytesLE 8 x.bkva ++ bytesLE 8 (x.recVA + recSpill) ++ bytesLE 8 (x.recVA + recView)

/-- An entry of the late-reply table (R331). -/
def lateBytes (l : LateReply) : List Byte :=
  bytesLE 8 (l.lane * 2 ^ 19 + l.reg * 2 ^ 12 + l.grp % 16 * 2 ^ 8 + l.kind) ++ bytesLE 8 l.value.toNat

/-- The registers of a carry set as a phase record holds them (R325). -/
def Group.carryBytes (g : Group) (c : List CarryReg) : List Byte :=
  let bs := c.flatMap (fun r => match r with
    | .v r => (List.range 32).flatMap (fun l => bytesLE 4 (g.lane r l).toNat)
    | .s r => bytesLE 8 (g.getS r).toNat
    | .k r => bytesLE 4 (g.kBits r).toNat)
  bs ++ List.replicate ((8 - bs.length % 8) % 8) 0

/-- The carry set of an index; none for the empty set (R29). -/
def Kernel.carrySet (k : Kernel) (cset : Nat) : List CarryReg := if cset = 0xFFFF then [] else k.carry.getD cset []

/-- The phase record of a team (R325). -/
def State.phaseRecord (s : State) (t : Nat) (sav rst : Bool) : List Byte :=
  let x := s.teamOf t
  let live := s.liveGroups t
  bytesLE 8 x.rpc
    ++ bytesLE 8 (x.bct * 2 ^ 32 + (if rst then 2 ^ 25 else 0) + (if sav then 2 ^ 24 else 0) + live.length * 2 ^ 16 + x.cset)
    ++ live.flatMap (fun a => (s.agent t a).carryBytes (x.kernel.carrySet x.cset))

/-- Write the record of a team that has one, at the ingress time J (R254). -/
def State.writeRecord (s : State) (t : Nat) (sav rst : Bool) : State :=
  let x := s.teamOf t
  if x.recVA = 0 then s
  else
    let ph := if x.status = .atBoundary then bytesAt (x.recVA + recPhase) (s.phaseRecord t sav rst) else []
    (s.publishJ x.ctx.l1pa none (bytesAt x.recVA (s.recordHeader t)
      ++ bytesAt (x.recVA + recPages) (x.plist.flatMap (bytesLE 8))
      ++ bytesAt (x.recVA + recLate) (x.late.flatMap lateBytes) ++ ph)).1

/-- Write the late-reply table of a team that is away, with the header that counts its entries, at J (R254, R331). -/
def State.writeLate (s : State) (t : Nat) : State :=
  let x := s.teamOf t
  if x.recVA = 0 then s
  else (s.publishJ x.ctx.l1pa none (bytesAt x.recVA (s.recordHeader t)
    ++ bytesAt (x.recVA + recLate) (x.late.flatMap lateBytes))).1

/-- An entry of a page list (R263). -/
def Ltt.listed (e : Ltt) : Nat :=
  e.vpage + 2 ^ 15 + e.frame * 2 ^ 18 + (if e.dirty then 2 ^ 28 else 0) + (if e.acc then 2 ^ 29 else 0)

/-- An entry of a page list that a restore accepts, for an L1 of size code `l1` (R263). -/
def listedOk (l1 n : Nat) : Bool :=
  n / 2 ^ 40 == 0 && bitsOf n 39 31 == 0 && bitsOf n 17 16 == 0 && bitsOf n 14 11 == 0
    && (!bitOf n 15 || (decide (l1Frames l1 ≤ bitsOf n 27 18) && decide (bitsOf n 27 18 ≤ 767)))

/-- The floating-point fields of a trap record: the window of the reporting group, else that of the lowest group with an
open one (R334): group and window. -/
def State.fpReport (s : State) (t : Nat) (rep : Nat) : Option (Nat × FpWindow) :=
  let x := s.teamOf t
  match (s.agent t rep).fpw with
  | some w => if rep < 16 then some (rep, w) else none
  | none =>
    (List.range x.ngrp).findSome? (fun a => ((s.agent t a).fpw).map (fun w => (a, w)))

/-- The trap record of a team with its report, field by field as R333 lays it out: cause, reporting agent, faulting address, the
collected floating-point report, and the state of each group and side sequencer (R333). -/
def State.trapRecord (s : State) (t : Nat) (r : TrapInfo) : List Byte :=
  let x := s.teamOf t
  let side := r.agent - 15
  let src := if r.agent < 16 then 0 else side
  let rgrp := if r.agent < 16 then r.agent else 0
  let fp := s.fpReport t r.agent
  let q0 := r.code + rgrp * 2 ^ 16 + src * 2 ^ 20 + r.kind * 2 ^ 24 + x.asid * 2 ^ 32 + r.svc * 2 ^ 48
  let q2 := match fp with
    | none => 0
    | some (_, w) => w.mask.toNat + w.lane * 2 ^ 32 + w.flags.toNat * 2 ^ 40 + w.more * 2 ^ 48 + 2 ^ 63
  let grp (a : Nat) : List Byte :=
    if a < x.ngrp then
      let g := s.agent t a
      (List.range 32).flatMap (fun l => bytesLE 8 (g.lanePc l).toNat) ++ bytesLE 8 (g.skid * 2 ^ 32 + g.active.toNat)
        ++ bytesLE 8 g.fpsr.toNat ++ bytesLE 8 g.fpcr.toNat ++ List.replicate 8 0
    else List.replicate 0x120 0
  let rep := s.agent t r.agent
  let seq (a entry : Nat) : List Byte :=
    if entry = 0xFFFFFFFF then List.replicate 32 0
    else
      let g := s.agent t a
      bytesLE 8 ((g.lanePc 0).toNat % 0x4000) ++ bytesLE 8 (g.skid * 2 ^ 8 + g.seqSt) ++ List.replicate 16 0
  bytesLE 8 q0 ++ bytesLE 8 r.fva ++ bytesLE 8 q2
    ++ bytesLE 8 (match fp with | some (_, w) => w.pc | none => 0)
    ++ bytesLE 8 (x.node + x.rank * 2 ^ 32) ++ bytesLE 8 (match fp with | some (a, _) => a | none => 0)
    ++ List.replicate 16 0
    ++ (List.range 16).flatMap grp
    ++ (List.range 64).flatMap (fun i => bytesLE 8 (if i = 63 then 0 else (vget 0 rep.s i).toNat))
    ++ seq 16 x.kernel.fore ++ seq 17 x.kernel.hind

/-! ### Taking a team off its core (R217, R237, R328) -/

/-- Waits that a switched-out agent issues again when it is placed. -/
def GStatus.resumed (x : GStatus) : GStatus :=
  match x with
  | .boundary _ _ => .run
  | .waitb => .run
  | .stall _ => .run
  | .emul => .run
  | .block _ => .run
  | .trapped => .run
  | y => y

/-- Replace every agent of a team. -/
def State.mapAgents (s : State) (t : Nat) (f : Group → Group) : State :=
  (s.teamOf t).agents.foldl (fun s a => s.setAgent t a (f (s.agent t a))) s

/-- Stable copies and tiles of a team leave its core with it; its window pages go to their backing copies, their entries to its
page list, but for those that an engine command has shadowed, which stay pinned in their frames; its CT is recorded, the core
adjusting first (R217, R237, R246, R263, R268, R269). -/
def State.unload (s0 : State) (t : Nat) : State :=
  let s := s0.adjust (s0.teamOf t).core
  let x := s.teamOf t
  let c := s.coreOf x.core
  let mine := c.copies.filter (fun k => k.stable.contains t)
  let arr := if c.holder = some t then some (c.tiles, c.table) else x.array
  let c' := { c with copies := clearStable t (fun _ => true) c.copies
                     holder := if c.holder = some t then none else c.holder }
  let s1 := (s.setCoreOf x.core c').setTeamOf t { x with
    kept := mine, array := arr, ct := Nat.max x.ct c.ct, hbq := []
    plist := (c.ltt.filter (fun e => e.team == t && !e.shd)).map (fun e =>
      ({ e with dirty := e.dirty && s.pinned t e.vpage } : Ltt).listed) }
  (c.ltt.filter (fun e => e.team == t && !e.shd && !s.pinned t e.vpage)).foldl (fun s e => s.evict x.core e) s1

/-- Save a team where it stands (R328): its agents stop, and it leaves its core in state `st`. A transfer of R215 restarts. One that a
side sequencer's trap halts at a completed boundary is still there when it resumes (R317). -/
def State.saveTeam (s : State) (t : Nat) (st : TStatus) : State :=
  let s1 := (s.unload t).mapAgents t (fun g => { g with
    status := g.status.resumed, skid := 0, xfer := [], fpw := if st = .trapped then none else g.fpw })
  let x := s1.teamOf t
  (s1.setTeamOf t { x with status := st, request := none, begun := none, atB := x.atB && st == .trapped }).writeRecord t true false

/-- A team that has completed a boundary leaves there, with a phase record: `sav` marks a save, `rst` a flush (R317, R325, R328).
Its side sequencers stop as in any save. -/
def State.leaveAtBoundary (s : State) (t : Nat) (sav rst : Bool) : State :=
  let s1 := (s.unload t).mapAgents t (fun g => { g with status := g.status.resumed, skid := 0, xfer := [] })
  let x := s1.teamOf t
  (s1.setTeamOf t { x with status := .atBoundary, request := none }).writeRecord t sav rst

/-- A team is switched out where it stands: at the boundary that it has completed, or between boundaries (R317, R324). -/
def State.leaveNow (s : State) (t : Nat) : State := if (s.teamOf t).atB then s.leaveAtBoundary t true false else s.saveTeam t .saved

/-- A side sequencer of the team runs (R138). -/
def State.sideRuns (s : State) (t : Nat) : Bool := (s.agent t 16).seqSt == 1 || (s.agent t 17).seqSt == 1

/-- A team may be flushed (R218, R318, R329). R229 says that a phase that has published bytes early through a home atomic or a forced
point is never flushed, and R329 excuses an idempotent node from that: the model follows R329, which states the conditions
(DESIGN CHOICE, log entry 66). -/
def State.mayFlush (s : State) (t : Nat) : Bool :=
  let x := s.teamOf t
  let u := x.used
  !u.localStore && !u.matrix && !u.side && !s.sideRuns t && x.restart.isSome && !u.engine
    && ((s.gridOf x.grid).idem || !(u.atomic || u.launch || u.uncached || u.release))

/-- A team that stands at a completed boundary leaves there as its request asks: a drain once the tickets and atomics of its agents
have come, halted side sequencers included, or as a save while a side sequencer runs; a flush with rst = 1 (R138, R317, R328). -/
def State.leaveAsked (s : State) (t : Nat) : State :=
  let x := s.teamOf t
  match x.request with
  | none => s
  | some m =>
    let owed := x.agents.any (fun a => !(s.agent t a).tickets.isEmpty || (s.agent t a).outs.any (fun o => !o.cached))
    if !x.atB || x.status ≠ .placed then s
    else if m = 1 && !s.sideRuns t then (if owed then s else s.leaveAtBoundary t false false)
    else s.leaveAtBoundary t (m != 3) (m == 3)

/-- Discard the held dadd updates of a team's current phase (R243). -/
def State.dropHeld (s : State) (t : Nat) : State :=
  let x := s.teamOf t
  let mine (d : Dadd) : Bool := d.grid == x.grid && d.team == t && d.phase == x.phase + 1
  let gr := s.gridOf x.grid
  let s1 := s.setGridOf x.grid { gr with held := gr.held.filter (fun d => !mine d) }
  { s1 with lines := s1.lines.map (fun p => (p.1, { p.2 with held := p.2.held.filter (fun d => !mine d) })) }

/-- What the abandoned run of a flushed team still has in flight: its loads and the updates of the phase that is restarted are dropped,
and the replies of what is performed all the same find no agent (R243, R331). -/
def State.abandonRun (s : State) (t : Nat) : State :=
  { s with net := { s.net with
      held := s.net.held.filter (fun p => p.1 != t)
      reqs := (s.net.reqs.filter (fun r => r.team != t || (match r.kind with
        | .renew _ => false
        | .uload _ _ => false
        | .dadd _ _ _ p => p != (s.teamOf t).phase + 1
        | _ => true))).map (fun r => if r.team == t then { r with agent := 18 } else r)
      reps := (s.net.reps.filter (fun r => r.team != t || (match r.kind with
        | .renewed _ _ _ _ _ _ => false
        | _ => true))).map (fun r => if r.team == t then { r with agent := 18 } else r)
      remote := s.net.remote.map (fun r => match r.kind with
        | .load _ _ => if r.team == t then { r with agent := 18 } else r
        | .store _ => if r.team == t then { r with agent := 18 } else r
        | .atomic _ _ _ _ _ => if r.team == t then { r with agent := 18 } else r
        | _ => r) } }

/-- A team's barrier counts as its restart point holds them, with the arrivals that others have made since: those above 65,535
are held (R131, R324, R328). -/
def Team.restoreHb (x : Team) : Team :=
  { x with
    hb := vecOf 8 (fun i => Nat.min 65535 (vget 0 x.restHb i))
    restHb := vecOf 8 (fun i => Nat.min 65535 (vget 0 x.restHb i))
    hbHeld := ((List.finRange 8).flatMap (fun i => List.replicate (vget 0 x.restHb i.val - 65535) (i, none))) ++ x.hbHeld }

/-- Flush and restart (R328): unpublished bytes, stable marks and held updates go; the restart point is reinstated, barrier counts
included. -/
def State.flushTeam (s : State) (t : Nat) : State :=
  let s0 := (s.dropHeld t).abandonRun t
  let x := s0.teamOf t
  let c := s0.coreOf x.core
  let s1 := (s0.setCoreOf x.core { c with copies := clearStable t (fun _ => true) c.copies }).unload t
  let s2 := (x.restart.getD []).foldl (fun s p => s.setAgent t p.1 p.2) s1
  let y := (s2.teamOf t).restoreHb
  (s2.setTeamOf t { y with status := .atBoundary, request := none, unpub := [], kept := [], ovf := [], forced := false, used := PhaseUse.none, begun := none, atB := true }).writeRecord
    t false true

/-- The mode that the scheduler's choice takes (R330): a save in the first phase, whose length is unknown; else a flush if the team may
be flushed, a drain, or a save. How long phases last is not modelled, so between the three it is a free value once a phase
length is known (log entry 66). -/
def State.chooseMode (s : State) (t : Nat) : State × Nat :=
  let x := s.teamOf t
  if x.phase = 0 then (s, 2)
  else
    let r := (Config.freeBits s.fresh).toNat % 3
    let m := if r = 0 then (if s.mayFlush t then 3 else 1) else if r = 1 then 1 else 2
    ({ s with fresh := s.fresh + 1 }, m)

/-- The teams of a team's cluster, itself included; a handler team stands alone. -/
def State.clusterOf (s : State) (t : Nat) : List Nat :=
  let x := s.teamOf t
  if x.handles.isSome then [t]
  else s.teamKeys.filter (fun u =>
    let z := s.teamOf u
    z.grid == x.grid && z.cluster == x.cluster && z.handles.isNone)

/-- The boundary that a team waits at has begun: the last group's arrival has completed the count, of a CBAR in the whole cluster
(R127, R129, R328). -/
def State.boundaryBegun (s : State) (t : Nat) : Bool :=
  match (s.teamOf t).begun with
  | none => false
  | some false => true
  | some true => (s.clusterOf t).all (fun u => (s.teamOf u).status == .ended || (s.teamOf u).begun == some true)

/-- A request for one resident team, in mode 0 scheduler's choice, 1 drain, 2 save, 3 flush; nothing is saved off the halted cores of a
fenced or dead die (R251, R326, R328). -/
def State.preemptOne (s : State) (t mode : Nat) : State :=
  let x := s.teamOf t
  if x.status ≠ .placed || x.trap.isSome || !s.dieLive (dieOf x.core) then s
  else
    let r := if mode = 0 then s.chooseMode t else (s, mode)
    let m := if (r.2 = 1 && r.1.sideRuns t) || (r.2 = 3 && !r.1.mayFlush t) then 2 else r.2
    let x := r.1.teamOf t
    if r.1.boundaryBegun t || m = 1 || x.atB then (r.1.setTeamOf t { x with request := some m }).leaveAsked t
    else if m = 3 then r.1.flushTeam t
    else r.1.saveTeam t .saved

/-- A request for a team applies to its whole cluster (R327). -/
def State.preempt (s : State) (t mode : Nat) : State := (s.clusterOf t).foldl (fun s u => s.preemptOne u mode) s

/-- The siblings of a team that leaves without a request take the scheduler's choice (R327). -/
def State.preemptSiblings (s : State) (t : Nat) : State :=
  ((s.clusterOf t).filter (fun u => u != t)).foldl (fun s u => s.preemptOne u 0) s

/-- The team leaves and waits for `pages`, each asked of the page service (R281). A team that a trap is halting leaves by that halt
alone: the agent stops here and tries again when the team resumes (R332). -/
def State.awaitPages (s : State) (t : Nat) (pages : List Nat) : State :=
  if (s.teamOf t).trap.isSome then s
  else
  let s1 := s.leaveNow t
  let x := s1.teamOf t
  let s2 := s1.setTeamOf t { x with awaits := pages, missing := pages.length }
  let ask := (pages.map (fun p => (x.asid, p))).filter (fun p => !s2.net.pageRq.contains p)
  ({ s2 with net := { s2.net with pageRq := s2.net.pageRq ++ ask } }).preemptSiblings t

/-- The team leaves and waits for the collapse of a read-duplicated page, unless a trap is halting it (R280, R332). -/
def State.awaitCollapse (s : State) (t page : Nat) : State :=
  if (s.teamOf t).trap.isSome then s
  else
  let s1 := s.leaveNow t
  let x := s1.teamOf t
  let s2 := s1.setTeamOf t { x with awaits := [page], missing := 1 }
  let ask := if s2.net.collapse.contains (x.asid, page) then [] else [(x.asid, page)]
  ({ s2 with net := { s2.net with collapse := s2.net.collapse ++ ask } }).preemptSiblings t

/-- The issuing agent stops for what the checks of its access found; it has had no effect (R52, R73, R266, R280, R281). -/
def State.stop (s : State) (v : Verdict) (emulated : Bool) : State :=
  match v with
  | .ok => s
  | .trap c a =>
    if c = trapMisaligned && emulated then s.setGrp { s.grp with status := .emul } else s.raise c a
  | .absent ps => s.awaitPages s.cur.1 ps
  | .rdup ps => s.awaitCollapse s.cur.1 (ps.headD 0)
  | .away ps => s.setGrp { s.grp with status := .stall ps }
  | .held u =>
    let e := (s.cur.1, s.cur.2, u)
    if s.net.held.contains e then s else { s with net := { s.net with held := s.net.held ++ [e] } }

/-- An agent that has issued holds its frames no longer, and waits for no team (R266, R327). -/
def State.issued (s : State) (t a : Nat) : State :=
  let g := s.agent t a
  let s1 := if g.hold.isEmpty then s else s.setAgent t a { g with hold := [] }
  if s1.net.held.isEmpty then s1
  else { s1 with net := { s1.net with held := s1.net.held.filter (fun p => (p.1, p.2.1) != (t, a)) } }

/-- An issue counts towards the skid of a halting team and towards the 64 instructions of an open collection window; `g0` is the
group before it (R332, R334). -/
def State.countIssue (s : State) (t a : Nat) (halting : Bool) (g0 : Group) : State :=
  let g := s.agent t a
  if !halting && g0.fpw.isNone then s
  else s.setAgent t a { g with
    skid := if halting then g.skid + 1 else g.skid
    fpw := match g0.fpw, g.fpw with
      | some _, some w => some { w with since := w.since + 1 }
      | _, w => w }

end Sys2Proof.Machine
end

