-- ==== Sys2Proof/Machine/LoadStore.lean ====
section
/-!
DEFINITION. The meanings of the loads and stores: lane loads and stores (R283 to R285), the probe load (R282), the
transposed load (R216), and the uniform loads and stores (R116). A load of global memory takes at issue every byte
that its team wrote or holds a readable copy of, and waits for the rest without holding its group; a store is performed
some time after it has issued.
-/

namespace Sys2Proof.Machine

open Sys2Proof

/-- One access of a lane: lane, address, bytes. -/
structure LaneAcc where
  lane : Nat
  va   : Nat
  n    : Nat
  deriving DecidableEq, Repr

/-- The attribute of the page of an access; LEASED where nothing is mapped. -/
def State.attrAt (s : State) (t va : Nat) : Attr := ((s.leafFor t va).map (·.attr)).getD .leased

/-- The byte that a cached load finds at issue: the team's own, else that of the usable copy (R75, R76, R226). -/
def State.cachedByte (s : State) (t a va : Nat) : Option Byte :=
  match s.ownByte t a va with
  | some b => some b
  | none => (s.usable t va).bind (fun k => k.data[va - k.line]?)

/-- The slots of an access; a page that is not cached gives none of its bytes at issue (R234, R259). -/
def State.slotsFor (s : State) (t a : Nat) (x : LaneAcc) : List Slot :=
  let at_ := s.attrAt t x.va
  let cached := at_ == .leased || at_ == .hosted
  (List.range x.n).map (fun i =>
    { lane := x.lane, idx := i, va := x.va + i, val := if cached then s.cachedByte t a (x.va + i) else none
      since := (s.teamOf t).fromOf (lineOf (x.va + i)) })

/-- A renewal that the team's present view of the line may use is on its way. -/
def State.renewing (s : State) (t line : Nat) : Bool :=
  let x := s.teamOf t
  s.net.reqs.any (fun r => r.team == t && r.va == line && decide (x.fromOf line ≤ r.id) && (match r.kind with
    | .renew _ => true
    | _ => false))
  || s.net.reps.any (fun r => r.team == t && r.va == line && decide (x.fromOf line ≤ r.id) && (match r.kind with
    | .renewed _ _ _ _ _ _ => true
    | _ => false))

/-- The request that the accesses of one line send: a renewal if a byte is missing, or one access to the home for all lanes
that name the line, so that they see one value of it (R74, R226, R234, R259). -/
def State.requestLine (s : State) (t line : Nat) (xs : List LaneAcc) (sl : List Slot) : State :=
  match xs with
  | [] => s
  | x :: _ =>
    let lo := xs.foldl (fun m y => Nat.min m y.va) x.va
    let n := maxOf 0 (xs.map (fun y => y.va + y.n)) - lo
    match s.attrAt t x.va with
    | .uncached => s.sendHere lo (.uload n x.lane)
    | .remote =>
      match s.leafFor t lo with
      | some l => s.sendRemote l.dev 1 (l.phys lo) lo (.load n x.lane)
      | none => s
    | _ =>
      if sl.all (fun y => y.val.isSome) || s.renewing t line then s else s.sendHere line (.renew false)

/-- The requests that a load sends, one for each line that it names. -/
def State.requestLoad (s : State) (t : Nat) (xs : List LaneAcc) (sl : List Slot) : State :=
  (distinct (xs.map (fun x => lineOf x.va))).foldl (fun s line =>
    s.requestLine t line (xs.filter (fun x => lineOf x.va == line)) (sl.filter (fun y => lineOf y.va == line))) s

/-- The team awaits the old value of an atomic on a line (R239). -/
def State.atomicAway (s : State) (t line : Nat) : Bool :=
  s.net.reqs.any (fun r => r.team == t && lineOf r.va == line && (match r.kind with
    | .atomic _ _ _ _ _ => true
    | _ => false))
  || s.net.reps.any (fun r => r.team == t && lineOf r.va == line && (match r.kind with
    | .atomic _ _ _ _ _ _ => true
    | .failedOp _ _ _ old => old
    | _ => false))

/-- A load is not issued while its team awaits an atomic on a line that it names, whose result it is to see (R75), nor while some
of its bytes in a line stand in publications on their way and others are to be asked for, which another core's store could part
(R72). It has had no effect yet. -/
def State.loadHeld (s : State) (sp : Space) (xs : List LaneAcc) : Bool :=
  let t := s.cur.1
  let base := if sp = .param then s.team.param else 0
  let at_ (x : LaneAcc) : Attr := s.attrAt t (base + x.va)
  match sp with
  | .window => false
  | .cluster => false
  | _ => xs.any (fun x => (at_ x == .leased || at_ x == .hosted) && (s.atomicAway t (lineOf (base + x.va))
      || (s.team.pubs.any (fun p => p.line == lineOf (base + x.va))
        && (addrRange (base + x.va) x.n).any (fun a => (s.cachedByte t s.cur.2 a).isNone))))

/-- A load that checks have passed: the copies that it reads become stable, what is missing is asked for, and the access joins
the outstanding ones; `g0` is the group as it issued (R226, R227, R284). -/
def State.loadSlots (s : State) (d : OutDest) (xs : List LaneAcc) (sl : List Slot) (g0 : Group) : State :=
  let t := s.cur.1
  let read := sl.filter (fun y => (s.ownByte t s.cur.2 y.va).isNone)
  let s1 := s.markStable t (distinct (read.map (fun y => lineOf y.va)))
  (s1.requestLoad t xs sl).await d sl (xs.any (fun x => s.attrAt t x.va == .remote)) g0

/-- Global loads of some lanes into `d`, from their checks on (R226, R284). -/
def State.loadGlobal (s : State) (d : OutDest) (xs : List LaneAcc) (g0 : Group) : State :=
  s.loadSlots d xs (xs.flatMap (s.slotsFor s.cur.1 s.cur.2)) g0

/-- The window and offset that a local-store or cluster-window address names. -/
def State.windowOf (s : State) (sp : Space) (va : Nat) : Nat × Nat :=
  match sp with
  | .cluster => ((s.member s.cur.1 (bitsOf va 25 22)).getD s.cur.1, bitsOf va 21 0)
  | _ => (s.cur.1, va)

/-- Window loads of some lanes: the agent's earlier stores to those windows come first (R75, R238). A load of a sibling's window, like
an ATOMW, is performed in the turn in which it issues, so that loads at two owners never arrive out of order (DESIGN CHOICE, log
entry 10). -/
def State.loadWindow (s : State) (sp : Space) (d : OutDest) (xs : List LaneAcc) (g0 : Group) : State :=
  let at_ := xs.map (fun x => (x, s.windowOf sp x.va))
  let s1 := (distinct (at_.map (·.2.1))).foldl State.drainWindow s
  let slots := at_.flatMap (fun p =>
    let bs := s1.windowRead p.2.1 p.2.2 p.1.n
    (List.range p.1.n).map (fun i =>
      ({ lane := p.1.lane, idx := i, va := p.1.va + i
         val := some ((storeByte (.window p.2.1) s1.grp.stores (p.2.2 + i)).getD (bs.getD i 0)), since := 0 } : Slot)))
  (s1.readWindows (at_.map (fun p => (p.2.1, p.2.2, p.1.n)))).await d slots false g0

/-- Loads of some lanes in a space; parameter space is global memory from cr.param on (R285). -/
def State.load (s : State) (sp : Space) (d : OutDest) (xs : List LaneAcc) (g0 : Group) : State :=
  match sp with
  | .global => s.loadGlobal d xs g0
  | .param => s.loadGlobal d (xs.map (fun x => { x with va := s.team.param + x.va })) g0
  | _ => s.loadWindow sp d xs g0

/-- The phase has held a store to an UNCACHED or REMOTE page (R329). -/
def State.usedUncached (s : State) : State :=
  let x := s.team
  s.setTeam { x with used := { x.used with uncached := true } }

/-- One store of the issuing agent, of lane `lane` (R229, R234, R238, R259). -/
def State.storeOne (s : State) (sp : Space) (lane va : Nat) (bs : List Byte) : State :=
  match sp with
  | .global =>
    match s.attrAt s.cur.1 va with
    | .uncached => (s.sendHere va (.ustore bs lane)).usedUncached
    | .remote =>
      match s.leafFor s.cur.1 va with
      | some l => (s.sendRemote l.dev 1 (l.phys va) va (.store bs)).usedUncached
      | none => s
    | _ => s.setGrp (s.grp.issueStore { id := s.net.nextId, target := .global, addr := va, bytes := bs })
  | _ =>
    let w := s.windowOf sp va
    (s.setGrp (s.grp.issueStore { id := s.net.nextId, target := .window w.1, addr := w.2, bytes := bs })).usedWindow s.cur.1

/-- Empty slots for a value of `k` bytes at `va` for a lane. -/
def emptySlots (lane va k : Nat) : List Slot :=
  (List.range k).map (fun i => { lane := lane, idx := i, va := va + i, val := none, since := 0 })

/-- The bytes of a store that its homes are still to take, which may refuse them in their lanes: those on UNCACHED pages (R52, R234,
R252). -/
def State.takenSlots (s : State) (sp : Space) (xs : List LaneAcc) : List Slot :=
  if sp = .global then (xs.filter (fun x => s.attrAt s.cur.1 x.va == .uncached)).flatMap (fun x => emptySlots x.lane x.va x.n) else []

/-- The issuing agent awaits that its homes take what it has sent them, if they are to take any; `g0` is the group as it issued. -/
def State.awaitTaken (s : State) (sl : List Slot) (g0 : Group) : State := if sl.isEmpty then s else s.await .taken sl false g0

/-- The verdict on the accesses of the acting lanes (R52, R284). -/
def State.judge (s : State) (sp : Space) (acc : Acc) (xs : List LaneAcc) : Verdict :=
  verdict (xs.map (fun x => s.chk sp s.cur.1 x.va x.n acc))

/-- The accesses of the acting lanes of an L-form memory instruction. -/
def Group.accesses (g : Group) (a : VReg) (b : SReg) (q : Fin 4) (n : Nat) : List LaneAcc :=
  (g.actors q).map (fun l => { lane := l, va := g.laneAddr a b l, n := n })

/-- The form of a lane load (R284). -/
def State.laneLoad (s : State) (sp : Space) (d a : VReg) (b : SReg) (w : LSize) (y : Bool) (q : Fin 4) : State :=
  let xs := s.grp.accesses a b q (lsizeBytes w)
  match s.judge sp .load xs with
  | .ok => if s.loadHeld sp xs then s else ((s.lastV y a).load sp (.lane d (w == .x4)) xs s.grp).moveOn
  | v => s.stop v true

/-- The form of a lane store (R284). -/
def State.laneStore (s : State) (sp : Space) (d a : VReg) (b : SReg) (w : LSize) (y : Bool) (q : Fin 4) : State :=
  let g := s.grp
  let xs := g.accesses a b q (lsizeBytes w)
  match s.judge sp .store xs with
  | .ok => ((xs.foldl (fun s x => s.storeOne sp x.lane x.va (g.storeData d w x.lane)) (s.lastV y a)).awaitTaken (s.takenSlots sp xs) g).advance
  | v => s.stop v true

/-- LDG (R284). -/
def execLdg (d a : VReg) (b : SReg) (w : LSize) (y : Bool) (q : Fin 4) (s : State) : Out := .next (s.laneLoad .global d a b w y q)
/-- STG (R284). -/
def execStg (d a : VReg) (b : SReg) (w : LSize) (y : Bool) (q : Fin 4) (s : State) : Out := .next (s.laneStore .global d a b w y q)
/-- LDL (R284). -/
def execLdl (d a : VReg) (b : SReg) (w : LSize) (y : Bool) (q : Fin 4) (s : State) : Out := .next (s.laneLoad .window d a b w y q)
/-- STL (R284). -/
def execStl (d a : VReg) (b : SReg) (w : LSize) (y : Bool) (q : Fin 4) (s : State) : Out := .next (s.laneStore .window d a b w y q)
/-- LDW (R285). -/
def execLdw (d a : VReg) (b : SReg) (w : LSize) (y : Bool) (q : Fin 4) (s : State) : Out := .next (s.laneLoad .cluster d a b w y q)
/-- STW (R285). -/
def execStw (d a : VReg) (b : SReg) (w : LSize) (y : Bool) (q : Fin 4) (s : State) : Out := .next (s.laneStore .cluster d a b w y q)
/-- LDK (R285). -/
def execLdk (d a : VReg) (b : SReg) (w : LSize) (y : Bool) (q : Fin 4) (s : State) : Out := .next (s.laneLoad .param d a b w y q)

/-- LDGP: absent pages give 0 and set kp; the other lanes load (R282). -/
def execLdgp (d a : VReg) (b : SReg) (p : KReg) (q : Fin 4) (s : State) : Out :=
  let g := s.grp
  let xs := g.accesses a b q 4
  let cs := xs.map (fun x => (x, s.chk .global s.cur.1 x.va 4 .probe))
  let gone (c : Chk) : Bool := match c with | .absent _ => true | _ => false
  match verdict ((cs.map (·.2)).filter (fun c => !gone c)) with
  | .ok =>
    let out := (cs.filter (fun c => gone c.2)).map (·.1.lane)
    let g1 := (g.setV d (mergeLanes out (fun _ => 0) (g.getV d))).setK p (mergeBits out (fun _ => true) (g.kBits p))
    let ys := (cs.filter (fun c => !gone c.2)).map (·.1)
    .next (if s.loadHeld .global ys then s else ((s.setGrp g1).load .global (.probe d p) ys g).moveOn)
  | v => .next (s.stop v false)

/-- The transposed address of LDLT (R216). -/
def transposed (a : Nat) : Nat :=
  let o := a % 4096
  a - o + 128 * (o / 4 % 32) + 4 * (o / 128) + o % 4

/-- LDLT (R216). Where the transposed address passes the window, 0x08 reports the lane's own address and not the transposed one, which the
rule leaves open (DESIGN CHOICE, log entry 85). -/
def execLdlt (d a : VReg) (b : SReg) (w : LSize) (y : Bool) (q : Fin 4) (s : State) : Out :=
  let xs := s.grp.accesses a b q (lsizeBytes w)
  let ts := xs.map (fun x => { x with va := transposed x.va })
  let cs := (xs.zip ts).map (fun p =>
    if p.1.va % p.1.n ≠ 0 then Chk.trap trapMisaligned p.1.va
    else s.chkBytes s.cur.1 p.2.va p.1.n p.1.va .load (s.chkWindow s.cur.1 p.2.va p.1.va))
  match verdict cs with
  | .ok => .next ((s.lastV y a).load .window (.lane d false) ts s.grp).advance
  | v => .next (s.stop v false)

/-- The form of a uniform load (R116). -/
def State.uniLoad (s : State) (sp : Space) (d a : SReg) (w : USize) (x : BitVec 11) : State :=
  let xs : List LaneAcc := [{ lane := 0, va := s.grp.uniAddr a w x, n := usizeBytes w }]
  match s.judge sp .load xs with
  | .ok => if s.loadHeld sp xs then s else (s.load sp (.uni d) xs s.grp).moveOn
  | v => s.stop v true

/-- The form of a uniform store (R116). -/
def State.uniStore (s : State) (sp : Space) (d a : SReg) (w : USize) (x : BitVec 11) : State :=
  let g := s.grp
  let va := g.uniAddr a w x
  let xs : List LaneAcc := [{ lane := 0, va := va, n := usizeBytes w }]
  match s.judge sp .store xs with
  | .ok => ((s.storeOne sp 0 va (bytesLE (usizeBytes w) (g.getS d).toNat)).awaitTaken (s.takenSlots sp xs) g).advance
  | v => s.stop v true

/-- LDGS (R116). -/
def execLdgs (d a : SReg) (w : USize) (x : BitVec 11) (s : State) : Out := .next (s.uniLoad .global d a w x)
/-- STGS (R116). -/
def execStgs (d a : SReg) (w : USize) (x : BitVec 11) (s : State) : Out := .next (s.uniStore .global d a w x)
/-- LDLS (R116). -/
def execLdls (d a : SReg) (w : USize) (x : BitVec 11) (s : State) : Out := .next (s.uniLoad .window d a w x)
/-- STLS (R116). -/
def execStls (d a : SReg) (w : USize) (x : BitVec 11) (s : State) : Out := .next (s.uniStore .window d a w x)
/-- LDKS (R116). -/
def execLdks (d a : SReg) (w : USize) (x : BitVec 11) (s : State) : Out := .next (s.uniLoad .param d a w x)

end Sys2Proof.Machine
end

