-- ==== Sys2Proof/Machine/Points.lean ====
section
/-!
DEFINITION. Visibility points (R231, R233, R134): the publications that a point sends, what each scope waits for, and
the wait itself. A point first has the agent's issued stores performed, then sends one request for each unpublished line
of the team, and is complete when every publication it waits for has been acknowledged.
-/

namespace Sys2Proof.Machine

open Sys2Proof

/-- Lines of which a team holds unpublished bytes. -/
def Team.unpubLines (x : Team) : List Nat := distinct (x.unpub.map (fun p => lineOf p.1))

/-- The unpublished bytes of a line, (offset, byte), one for each offset held. -/
def Team.unpubOf (x : Team) (line : Nat) : List (Nat × Byte) :=
  (List.range 128).filterMap (fun i => (pairAt x.unpub (line + i)).map (fun b => (i, b)))

/-- Send what team `t` holds unpublished of a line to its home, on behalf of agent `a`; the bytes stay readable by the
team until the reply (R229, R231). -/
def State.publishLine (s : State) (t a line : Nat) : State :=
  let x := s.teamOf t
  let bs := x.unpubOf line
  if bs.isEmpty then s
  else
    let s1 := s.setTeamOf t { x with
      unpub := x.unpub.filter (fun p => lineOf p.1 != line)
      pubs := x.pubs ++ [{ id := s.net.nextId, line := line, bytes := bs }] }
    s1.send x.core t a x.asid line (.publish bs)

/-- Send every unpublished line of team `t`; its evicted unpublished lines leave the view overflow area (R230, R231). -/
def State.publishAll (s : State) (t a : Nat) : State :=
  let ls := (s.teamOf t).unpubLines
  let s1 := ls.foldl (fun s l => s.publishLine t a l) s
  let x := s1.teamOf t
  s1.setTeamOf t { x with ovf := x.ovf.filter (fun l => !ls.contains l) }

/-- Absent pages that hold unpublished bytes of a team (R281). -/
def State.absentUnpub (s : State) (t : Nat) : List Nat :=
  let x := s.teamOf t
  distinct (x.unpubLines.filterMap (fun l => match s.walk x.ctx.l1pa l with
    | some f => if f.rs then none else some (f.page l)
    | none => none))

/-- An unpublished line on an absent page whose request has been closed: its address (R281). -/
def State.closedUnpub (s : State) (t : Nat) : Option Nat :=
  let x := s.teamOf t
  x.unpubLines.find? (fun l => match s.walk x.ctx.l1pa l with
    | some f => !f.rs && x.closed.contains (f.page l)
    | none => false)

/-- Every publication listed has been acknowledged. -/
def Team.acked (x : Team) (ids : List Nat) : Bool := !x.pubs.any (fun p => ids.contains p.id)

/-- A reply that an agent's atomics, stores and updates at their homes still await: every kind but a renewal's. -/
def RepKind.acks (k : RepKind) : Bool :=
  match k with
  | .renewed _ _ _ _ _ _ => false
  | .failed _ p => p
  | _ => true

/-- No home atomic and no UNCACHED store of an agent is still to be acknowledged (R134, R234). -/
def State.homeQuiet (s : State) (t a : Nat) : Bool :=
  !s.net.reqs.any (fun r => r.team == t && r.agent == a &&
      (match r.kind with | .atomic _ _ _ _ _ => true | .ustore _ _ => true | _ => false))
  && !s.net.reps.any (fun r => r.team == t && r.agent == a && (match r.kind with | .published _ _ _ _ => false | k => k.acks))

/-- The homes have accepted every dadd update of a team (R222). -/
def State.daddQuiet (s : State) (t : Nat) : Bool :=
  !s.net.reqs.any (fun r => r.team == t && (match r.kind with | .dadd _ _ _ _ => true | _ => false))

/-- No REMOTE store or atomic of an agent is still to be acknowledged (R134, R260). -/
def State.remoteQuiet (s : State) (t a : Nat) : Bool :=
  !s.net.remote.any (fun r => r.team == t && r.agent == a &&
      (match r.kind with | .store _ => true | .atomic _ _ _ _ _ => true | _ => false))

/-- What a scope waits for beyond the performance of the agent's own accesses (R134). -/
def State.scopeDone (s : State) (t a : Nat) (sc : Scope) (ids : List Nat) : Bool :=
  match sc with
  | .team => true
  | .cluster => true
  | .device => (s.teamOf t).acked ids && s.homeQuiet t a
  | .system => (s.teamOf t).pubs.isEmpty && s.homeQuiet t a && s.remoteQuiet t a

/-- The current agent is waiting at a point for the publications `ids`: it traps if one was refused (R252, R261, R278), goes
on with `fin` when all its scope asks for is done, and otherwise waits. -/
def State.pointWait (s : State) (sc : Scope) (ids : List Nat) (fin : State → State) : State :=
  let x := s.team
  match x.pubTrap, (if sc = .system then Tab.find? x.remTrap s.cur.2 else none) with
  | some (c, a), _ => (s.setTeam { x with pubTrap := none }).raise c a
  | none, some (c, a) => (s.setTeam { x with remTrap := Tab.del x.remTrap s.cur.2 }).raise c a
  | none, none =>
    if s.scopeDone s.cur.1 s.cur.2 sc ids then fin (s.setGrp { s.grp with status := .run })
    else s.setGrp { s.grp with status := .fence ids }

/-- The phase has held a release (R329). -/
def State.usedRelease (s : State) : State :=
  let x := s.team
  s.setTeam { x with used := { x.used with release := true } }

/-- A point of the current agent, `rel` when it is a visibility point; `fin` is what it does once complete. -/
def State.point (s : State) (rel : Bool) (sc : Scope) (fin : State → State) : State :=
  match s.grp.status with
  | .fence ids => s.pointWait sc ids fin
  | _ =>
    let s1 := s.drain
    if !s1.drained then s1
    else if !rel then s1.pointWait sc [] fin
    else match s1.closedUnpub s.cur.1, s1.absentUnpub s.cur.1 with
    | some a, _ => s1.raise trapNoMap a
    | none, p :: ps => s1.awaitPages s.cur.1 (p :: ps)
    | none, [] =>
      let n := s1.net.nextId
      let s2 := (s1.publishAll s.cur.1 s.cur.2).usedRelease
      s2.pointWait sc ((s2.team.pubs.filter (fun p => decide (n ≤ p.id))).map (·.id)) fin

end Sys2Proof.Machine
end

