-- ==== Sys2Proof/Machine/Atomics.lean ====
section
/-!
DEFINITION. The meanings of the atomics: ATOMG, ATOML, ATOMW and UATOM (R239, R286 to R289), and the deterministic add
ATOMG.dadd.f32 (R219, R220). A global atomic is sent to its home after its team's unpublished bytes of its own line; a
local-store atomic is performed as it issues.
-/

namespace Sys2Proof.Machine

open Sys2Proof

/-- The phase has held a home atomic (R329). -/
def State.usedAtomic (s : State) : State :=
  let x := s.team
  s.setTeam { x with used := { x.used with atomic := true } }

/-- Send one atomic to the home of its word, or over the fabric (R239, R259, R288). -/
def State.sendAtomic (s : State) (va : Nat) (op : AOp) (k : Nat) (b c : DWord) (lane : Nat) : State :=
  match s.leafFor s.cur.1 va with
  | none => s
  | some l =>
    if l.attr = .remote then s.sendRemote l.dev 1 (l.phys va) va (.atomic op k b c lane)
    else s.sendHere va (.atomic op k b c lane)

/-- Home atomics of some lanes with their operands, from their checks on (R239, R287). -/
def State.homeAtomics (s : State) (d : OutDest) (op : AOp) (k : Nat) (xs : List (LaneAcc × DWord × DWord)) (g0 : Group) :
    State :=
  let s1 := s.drain.usedAtomic
  let remote := xs.any (fun x => s.attrAt s.cur.1 x.1.va == .remote)
  let lines := distinct (xs.map (fun x => lineOf x.1.va))
  let s2 := lines.foldl (fun s l => s.publishLine s.cur.1 s.cur.2 l) s1
  let s3 := xs.foldl (fun s x => s.sendAtomic x.1.va op k x.2.1 x.2.2 x.1.lane) s2
  s3.await d (xs.flatMap (fun x => emptySlots x.1.lane x.1.va k)) remote g0

/-- The operands of a lane atomic: vd, and vd + 1 for cas (R287). -/
def Group.atomOperands (g : Group) (d : VReg) (l : Nat) : DWord × DWord :=
  ((g.lane d l).setWidth 64, (g.lane (vplus d 1) l).setWidth 64)

/-- The form of ATOMG (R286 to R288). -/
def State.atomg (s : State) (op : AOp) (d a : VReg) (b : SReg) (q : Fin 4) : State :=
  let g := s.grp
  let xs := g.accesses a b q 4
  match s.judge .global .atomic xs with
  | .ok => (s.homeAtomics (.laneOld d (op == .cas)) op 4 (xs.map (fun x => (x, g.atomOperands d x.lane))) g).moveOn
  | v => s.stop v false

/-- One lane's atomic on a word of a window; the old bytes join the slots (R238, R287). -/
def State.windowAtomic (s : State) (sp : Space) (op : AOp) (x : LaneAcc) (b c : DWord) : State × List Slot :=
  let w := s.windowOf sp x.va
  let old := s.windowRead w.1 w.2 4
  let new := bytesLE 4 (atomNew op 4 (natLE old) b.toNat c.toNat)
  (s.windowWrite w.1 w.2 new,
    (List.range 4).map (fun i => { lane := x.lane, idx := i, va := x.va + i, val := some (old.getD i 0), since := 0 }))

/-- The form of ATOML and ATOMW: the agent's earlier stores to the windows come first, then each lane in ascending
order (R74, R238). -/
def State.atomWindow (s : State) (sp : Space) (op : AOp) (d a : VReg) (b : SReg) (q : Fin 4) : State :=
  let g := s.grp
  let xs := g.accesses a b q 4
  match s.judge sp .atomic xs with
  | .ok =>
    let ws := distinct (xs.map (fun x => (s.windowOf sp x.va).1))
    let s1 := ws.foldl State.drainWindow s
    if s1.grp.stores.any (fun p => ws.any (fun w => p.target == .window w)) then s1
    else
      let r := xs.foldl (fun (acc : State × List Slot) x =>
        let o := g.atomOperands d x.lane
        let z := acc.1.windowAtomic sp op x o.1 o.2
        (z.1, acc.2 ++ z.2)) (s1.usedWindow s.cur.1, [])
      (r.1.await (.laneOld d (op == .cas)) r.2 false g).advance
  | v => s.stop v false

/-- The check of one lane of dadd: the page must be LEASED (R219, R278). -/
def State.chkDadd (s : State) (va : Nat) : Chk := s.chk .global s.cur.1 va 4 .dadd

/-- ATOMG.dadd.f32: each acting lane sends an update with its key to the home of its word, which is still to take it (R219, R220). -/
def execAtomgDaddF32 (d a : VReg) (b : SReg) (q : Fin 4) (s : State) : Out :=
  let g := s.grp
  let x := s.team
  let xs := g.accesses a b q 4
  match verdict (xs.map (fun z => s.chkDadd z.va)) with
  | .ok =>
    let s1 := xs.foldl (fun s z =>
      s.sendHere z.va (.dadd (g.lane d z.lane) (x.rank * 512 + s.cur.2 * 32 + z.lane) (vget 0 g.daddQ z.lane) (x.phase + 1))) s
    let m := xs.map (·.lane)
    let s2 := s1.awaitTaken (xs.flatMap (fun z => emptySlots z.lane z.va 4)) g
    let g1 := s2.grp
    .next (s2.setGrp { g1 with daddQ := lanesOf (fun l => vget 0 g.daddQ l + if m.contains l then 1 else 0) }).advance
  | v => .next (s.stop v false)

/-- ATOMG.add.i32 (R287). -/
def execAtomgAddI32 (d a : VReg) (b : SReg) (q : Fin 4) (s : State) : Out := .next (s.atomg .add d a b q)
/-- ATOMG.add.f32 (R287). -/
def execAtomgAddF32 (d a : VReg) (b : SReg) (q : Fin 4) (s : State) : Out := .next (s.atomg .fadd d a b q)
/-- ATOMG.min.i32 (R287). -/
def execAtomgMinI32 (d a : VReg) (b : SReg) (q : Fin 4) (s : State) : Out := .next (s.atomg .min d a b q)
/-- ATOMG.max.i32 (R287). -/
def execAtomgMaxI32 (d a : VReg) (b : SReg) (q : Fin 4) (s : State) : Out := .next (s.atomg .max d a b q)
/-- ATOMG.or (R287). -/
def execAtomgOr (d a : VReg) (b : SReg) (q : Fin 4) (s : State) : Out := .next (s.atomg .or d a b q)
/-- ATOMG.xchg (R287). -/
def execAtomgXchg (d a : VReg) (b : SReg) (q : Fin 4) (s : State) : Out := .next (s.atomg .xchg d a b q)
/-- ATOMG.cas (R287). -/
def execAtomgCas (d a : VReg) (b : SReg) (q : Fin 4) (s : State) : Out := .next (s.atomg .cas d a b q)
/-- ATOML.add.i32 (R287, R288). -/
def execAtomlAddI32 (d a : VReg) (b : SReg) (q : Fin 4) (s : State) : Out := .next (s.atomWindow .window .add d a b q)
/-- ATOML.add.f32 (R287, R288). -/
def execAtomlAddF32 (d a : VReg) (b : SReg) (q : Fin 4) (s : State) : Out := .next (s.atomWindow .window .fadd d a b q)
/-- ATOML.min.i32 (R287, R288). -/
def execAtomlMinI32 (d a : VReg) (b : SReg) (q : Fin 4) (s : State) : Out := .next (s.atomWindow .window .min d a b q)
/-- ATOML.max.i32 (R287, R288). -/
def execAtomlMaxI32 (d a : VReg) (b : SReg) (q : Fin 4) (s : State) : Out := .next (s.atomWindow .window .max d a b q)
/-- ATOML.and (R287, R288). -/
def execAtomlAnd (d a : VReg) (b : SReg) (q : Fin 4) (s : State) : Out := .next (s.atomWindow .window .and d a b q)
/-- ATOML.or (R287, R288). -/
def execAtomlOr (d a : VReg) (b : SReg) (q : Fin 4) (s : State) : Out := .next (s.atomWindow .window .or d a b q)
/-- ATOML.xchg (R287, R288). -/
def execAtomlXchg (d a : VReg) (b : SReg) (q : Fin 4) (s : State) : Out := .next (s.atomWindow .window .xchg d a b q)
/-- ATOML.cas (R287, R288). -/
def execAtomlCas (d a : VReg) (b : SReg) (q : Fin 4) (s : State) : Out := .next (s.atomWindow .window .cas d a b q)
/-- ATOMW.add.i32 (R287, R288). -/
def execAtomwAddI32 (d a : VReg) (b : SReg) (q : Fin 4) (s : State) : Out := .next (s.atomWindow .cluster .add d a b q)
/-- ATOMW.add.f32 (R287, R288). -/
def execAtomwAddF32 (d a : VReg) (b : SReg) (q : Fin 4) (s : State) : Out := .next (s.atomWindow .cluster .fadd d a b q)
/-- ATOMW.min.i32 (R287, R288). -/
def execAtomwMinI32 (d a : VReg) (b : SReg) (q : Fin 4) (s : State) : Out := .next (s.atomWindow .cluster .min d a b q)
/-- ATOMW.max.i32 (R287, R288). -/
def execAtomwMaxI32 (d a : VReg) (b : SReg) (q : Fin 4) (s : State) : Out := .next (s.atomWindow .cluster .max d a b q)
/-- ATOMW.and (R287, R288). -/
def execAtomwAnd (d a : VReg) (b : SReg) (q : Fin 4) (s : State) : Out := .next (s.atomWindow .cluster .and d a b q)
/-- ATOMW.or (R287, R288). -/
def execAtomwOr (d a : VReg) (b : SReg) (q : Fin 4) (s : State) : Out := .next (s.atomWindow .cluster .or d a b q)
/-- ATOMW.xchg (R287, R288). -/
def execAtomwXchg (d a : VReg) (b : SReg) (q : Fin 4) (s : State) : Out := .next (s.atomWindow .cluster .xchg d a b q)
/-- ATOMW.cas (R287, R288). -/
def execAtomwCas (d a : VReg) (b : SReg) (q : Fin 4) (s : State) : Out := .next (s.atomWindow .cluster .cas d a b q)

/-- The check of a UATOM: on HOSTED and REMOTE pages the scope must be system (R289). -/
def State.chkUatom (s : State) (va : Nat) (e : UScope) : Chk :=
  s.chk .global s.cur.1 va 8 (if e = .system then .atomic else .uatom)

/-- The form of UATOM: one atomic on a 64-bit word; for cas, sd is the comparand (R289). -/
def State.uatom (s : State) (op : AOp) (d a b : SReg) (y z : Bool) (e : UScope) : State :=
  let g := s.grp
  let va := (g.getS a).toNat
  let opnd := if op = .cas then g.getS d else g.getS b
  match verdict [s.chkUatom va e] with
  | .ok =>
    let s1 := (s.lastS y a).lastS z b
    (s1.homeAtomics (.uniOld d) op 8 [({ lane := 0, va := va, n := 8 }, opnd, g.getS b)] g).moveOn
  | v => s.stop v false
/-- UATOM.add (R289). -/
def execUatomAdd (d a b : SReg) (y z : Bool) (e : UScope) (s : State) : Out := .next (s.uatom .add d a b y z e)
/-- UATOM.min (R289). -/
def execUatomMin (d a b : SReg) (y z : Bool) (e : UScope) (s : State) : Out := .next (s.uatom .min d a b y z e)
/-- UATOM.max (R289). -/
def execUatomMax (d a b : SReg) (y z : Bool) (e : UScope) (s : State) : Out := .next (s.uatom .max d a b y z e)
/-- UATOM.and (R289). -/
def execUatomAnd (d a b : SReg) (y z : Bool) (e : UScope) (s : State) : Out := .next (s.uatom .and d a b y z e)
/-- UATOM.or (R289). -/
def execUatomOr (d a b : SReg) (y z : Bool) (e : UScope) (s : State) : Out := .next (s.uatom .or d a b y z e)
/-- UATOM.xor (R289). -/
def execUatomXor (d a b : SReg) (y z : Bool) (e : UScope) (s : State) : Out := .next (s.uatom .xor d a b y z e)
/-- UATOM.xchg (R289). -/
def execUatomXchg (d a b : SReg) (y z : Bool) (e : UScope) (s : State) : Out := .next (s.uatom .xchg d a b y z e)
/-- UATOM.cas (R289). -/
def execUatomCas (d a b : SReg) (y z : Bool) (e : UScope) (s : State) : Out := .next (s.uatom .cas d a b y z e)

end Sys2Proof.Machine
end

