-- ==== Sys2Proof/Machine/Boundary.lean ====
section
/-!
DEFINITION. Phase boundaries: arrival (R127 to R129), the beginning of a boundary with its publications (R231), and its
completion: undefined registers (R70), the restart point (R329), the join of core time (R235, R236), a grid's boundary
times (R241), and a pre-emption that was waiting for it (R328).
-/

namespace Sys2Proof.Machine

open Sys2Proof

/-- No active lane's PC differs from P (R62). -/
def Group.together (g : Group) : Bool := allLanes.all (fun l => !g.isActive l || g.lanePc l == g.pc)

/-- What a waiting group stands at. -/
def Group.standing (g : Group) : Option (Bool × Nat × Nat) :=
  match g.status with
  | .boundary c imm => some (c, imm, g.pc.toNat)
  | _ => none

/-- Every group of the team that has not ended waits at a boundary instruction. -/
def State.allArrived (s : State) (t : Nat) : Bool :=
  let l := s.liveGroups t
  !l.isEmpty && l.all (fun a => (s.agent t a).standing.isSome)

/-- A grid that has overflowed its spill area: its teams take 0x0D (R242). -/
def Grid.aborting (g : Grid) : Bool :=
  match g.failing with
  | some (_, code, _) => code == trapAbort
  | none => false

/-- Begin the boundary of a team whose groups have all arrived; `rep` reports a mismatch (R128). The team publishes every
line that it holds unpublished. -/
def State.tryBoundary (s : State) (t rep : Nat) : State :=
  let x := s.teamOf t
  if x.begun.isSome || !s.allArrived t then s
  else
    let st := (s.liveGroups t).filterMap (fun a => (s.agent t a).standing)
    match st with
    | [] => s
    | k :: rest =>
      if rest.any (fun j => j != k) then s.trapAgent t rep trapUniform kindFault 0 0
      else if (s.gridOf x.grid).aborting && x.handles.isNone then s.trapAgent t rep trapAbort kindFault 0 0
      else match s.closedUnpub t, s.absentUnpub t with
      | some a, _ => s.trapAgent t rep trapNoMap kindFault a 0
      | none, p :: ps => s.awaitPages t (p :: ps)
      | none, [] =>
        let s1 := s.publishAll t rep
        let y := s1.teamOf t
        s1.setTeamOf t { y with begun := some (k.1 && y.w * y.h != 1), got := 0 }

/-! ### Completion -/

/-- A group after a boundary: registers outside the carry set are undefined, drawn from `n` on; its lanes stand past the
boundary instruction (R70, R127). -/
def Group.passBoundary (g : Group) (c : List CarryReg) (n : Nat) : Group :=
  let keepV (i : Nat) : Bool := c.any (fun r => match r with | .v j => j.val == i | _ => false)
  let keepS (i : Nat) : Bool := c.any (fun r => match r with | .s j => j.val == i | _ => false)
  let keepK (i : Nat) : Bool := c.any (fun r => match r with | .k j => j.val == i | _ => false)
  let g1 := { g with
    v := vecOf 128 (fun i => if keepV i then vget (fillv 32 0) g.v i else freeVec (n + 32 * i))
    s := vecOf 64 (fun i => if keepS i then vget 0 g.s i else Config.freeBits (n + 4096 + i))
    k := vecOf 8 (fun i => if keepK i then vget 0 g.k i else (Config.freeBits (n + 4160 + i)).setWidth 32)
    daddQ := fillv 32 0, claimQ := 0, status := .run }
  g1.advance

/-- Undefined values that one group's boundary draws. -/
def boundaryDraw : Nat := 4168

/-- The carry-set index that a boundary immediate names, 0xFFFF for the empty set (R127). -/
def csetOf (imm : Nat) : Nat := if imm / 256 % 2 = 1 then 0xFFFF else imm % 256

/-- The groups of a team pass its boundary. -/
def State.passGroups (s : State) (t : Nat) (c : List CarryReg) : State :=
  (s.liveGroups t).foldl (fun s a =>
    { s.setAgent t a ((s.agent t a).passBoundary c s.fresh) with fresh := s.fresh + boundaryDraw }) s

/-- The grid counts a boundary of one of its teams, with the CT that the team contributes (R222, R241). -/
def State.countBoundary (s : State) (t : Nat) (ended : Bool) : State :=
  let x := s.teamOf t
  if x.handles.isSome then s
  else
    let g := s.gridOf x.grid
    let n := Tab.get 0 g.done x.rank + 1
    let ct := (s.coreOf x.core).ct
    s.setGridOf x.grid { g with
      done := if ended then g.done else Tab.set g.done x.rank n
      ended := if ended then x.rank :: g.ended else g.ended
      times := (n, ended, ct) :: g.times }

/-- A team's boundary completes; its core's CT has been joined. -/
def State.finishBoundary (s : State) (t : Nat) : State :=
  let x := s.teamOf t
  let imm := ((s.liveGroups t).filterMap (fun a => (s.agent t a).standing)).headD (false, 0, 0)
  let s1 := s.viewPoint t
  let s2 := (s1.passGroups t (x.kernel.carrySet (csetOf imm.2.1))).countBoundary t false
  let y := s2.teamOf t
  let s3 := s2.setTeamOf t { y with
    begun := none, got := 0, closed := [], phase := y.phase + 1, rpc := imm.2.2 + 4, cset := csetOf imm.2.1
    used := { PhaseUse.none with side := s2.sideRuns t }
    ct := (s2.coreOf y.core).ct, bct := (s2.coreOf y.core).ct, bcbar := imm.1, atB := true
    restart := some ((s2.liveGroups t).map (fun a => (a, s2.agent t a))), restHb := y.hb }
  s3.leaveAsked t

/-- A resident team waits at a boundary that has begun. -/
def State.waitsAt (s : State) (t : Nat) (cbar : Bool) : Bool :=
  let x := s.teamOf t
  x.begun == some cbar && s.onCore t && x.trap.isNone

/-- A boundary in progress has had every publication, atomic and UNCACHED store of its groups acknowledged, as FENCE.release.device
would, and every result of its groups has arrived (R231, R234, R235). -/
def State.boundaryReady (s : State) (t : Nat) (cbar : Bool) : Bool :=
  s.waitsAt t cbar && (s.teamOf t).pubs.isEmpty
    && (s.liveGroups t).all (fun a => (s.agent t a).outs.isEmpty) && (List.range (s.teamOf t).ngrp).all (s.homeQuiet t)

/-- A boundary whose publications were refused traps at the boundary (R252, R278); the lowest waiting group reports. -/
def State.boundaryTrap (s : State) (t : Nat) : State :=
  let x := s.teamOf t
  match x.pubTrap with
  | none => s
  | some (c, a) =>
    (s.setTeamOf t { x with pubTrap := none, begun := none }).trapAgent t ((s.liveGroups t).headD 0) c kindFault a 0

/-- A team whose grid has overflowed its spill area waits at a boundary: it traps at once (R242). -/
def State.abortsAt (s : State) (t : Nat) : Bool :=
  let x := s.teamOf t
  (s.gridOf x.grid).aborting && x.handles.isNone

/-- It takes trap 0x0D there (R242). -/
def State.boundaryAbort (s : State) (t : Nat) : State :=
  (s.setTeamOf t { s.teamOf t with begun := none }).trapAgent t ((s.liveGroups t).headD 0) trapAbort kindFault 0 0

/-- PHASE_BOUNDARY_COMPLETE (R235): CT := max(CT, every wts returned) + 1, and the view of the team ends. -/
def execPhaseBoundaryComplete (t : Nat) (s : State) : Out :=
  if s.waitsAt t false && s.abortsAt t then .next (s.boundaryAbort t)
  else if !s.boundaryReady t false then .next s
  else if (s.teamOf t).pubTrap.isSome then .next (s.boundaryTrap t)
  else
    let s0 := s.adjust (s.teamOf t).core
    let x := s0.teamOf t
    let c := s0.coreOf x.core
    let n := Nat.max c.ct x.got + 1
    .next (((s0.setCoreOf x.core { c with ct := n }).noteTime n).finishBoundary t)

/-- CBAR_BOUNDARY_COMPLETE (R236): every core of the cluster sets CT := J + 1. -/
def execCbarBoundaryComplete (cl : Nat) (s : State) : Out :=
  let all := s.teamKeys.filter (fun t =>
    let x := s.teamOf t
    x.cluster == cl && x.handles.isNone && x.status != .ended)
  match all.find? (fun t => s.waitsAt t true && s.abortsAt t) with
  | some t => .next (s.boundaryAbort t)
  | none =>
  if all.isEmpty || !all.all (fun t => s.boundaryReady t true) then .next s
  else match all.find? (fun t => (s.teamOf t).pubTrap.isSome) with
  | some t => .next (s.boundaryTrap t)
  | none =>
    let s0 := all.foldl (fun s t => s.adjust (s.teamOf t).core) s
    let j := maxOf 0 (all.map (fun t => Nat.max (s0.coreOf (s0.teamOf t).core).ct (s0.teamOf t).got))
    let s1 := all.foldl (fun s t =>
      let c := (s.teamOf t).core
      s.setCoreOf c { s.coreOf c with ct := j + 1 }) s0
    .next (all.foldl State.finishBoundary (s1.noteTime (j + 1)))

/-- The form of PHASE and CBAR: the checks, the arrival, and the beginning of the boundary when it is the last (R127 to
R129, R292). -/
def State.arriveBoundary (s : State) (cbar e : Bool) (c : BitVec 8) : State :=
  let t := s.cur.1
  let g := s.grp
  let x := s.team
  let imm := c.toNat + if e then 256 else 0
  let carry := x.kernel.carrySet (csetOf imm)
  match g.status with
  | .boundary _ _ => s
  | _ =>
    if (e && c != 0) || (!e && decide (x.kernel.carry.length ≤ c.toNat)) then s.raise trapIllegal 0
    else if !g.together then s.raise trapUniform 0
    else if g.tickets.any (fun p => !carry.contains (.s p.1)) then s.raise trapTicket 0
    else
      let s1 := s.drain
      if !s1.drained then s1
      else ((s1.setGrp { s1.grp with status := .boundary cbar imm }).setTeam { s1.team with atB := false }).tryBoundary t s.cur.2

/-- PHASE (R127). -/
def execPhase (e : Bool) (c : BitVec 8) (s : State) : Out := .next (s.arriveBoundary false e c)
/-- CBAR (R129). -/
def execCbar (e : Bool) (c : BitVec 8) (s : State) : Out := .next (s.arriveBoundary true e c)

end Sys2Proof.Machine
end

