-- ==== Sys2Proof/Machine/Digest.lean ====
section
/-!
DEFINITION. The SM3 digest that a collective logs (R383) and the CRC-32C that every line carries (R391). SM3 is the
hash of GB/T 32905-2016, which the manual names and does not restate.
-/

namespace Sys2Proof.Machine

open Sys2Proof

/-! ### SM3 -/

def sm3P0 (x : Word) : Word := x ^^^ x.rotateLeft 9 ^^^ x.rotateLeft 17
def sm3P1 (x : Word) : Word := x ^^^ x.rotateLeft 15 ^^^ x.rotateLeft 23

/-- Message words, newest first, extended by `n` words. -/
def sm3Extend : Nat → List Word → List Word
  | 0, w => w
  | n + 1, w =>
    let at_ (k : Nat) : Word := w.getD (k - 1) 0
    let x := sm3P1 (at_ 16 ^^^ at_ 9 ^^^ (at_ 3).rotateLeft 15) ^^^ (at_ 13).rotateLeft 7 ^^^ at_ 6
    sm3Extend n (x :: w)

/-- The eight chaining words. -/
structure Sm3 where
  a : Word
  b : Word
  c : Word
  d : Word
  e : Word
  f : Word
  g : Word
  h : Word
  deriving DecidableEq, Repr

def sm3Init : Sm3 :=
  ⟨0x7380166f, 0x4914b2b9, 0x172442d7, 0xda8a0600, 0xa96f30bc, 0x163138aa, 0xe38dee4d, 0xb0fb0e4e⟩

/-- Round `j` with message words `w` and `w'`. -/
def Sm3.round (v : Sm3) (j : Nat) (w w' : Word) : Sm3 :=
  let t : Word := if j < 16 then 0x79cc4519 else 0x7a879d8a
  let ff := if j < 16 then v.a ^^^ v.b ^^^ v.c else (v.a &&& v.b) ||| (v.a &&& v.c) ||| (v.b &&& v.c)
  let gg := if j < 16 then v.e ^^^ v.f ^^^ v.g else (v.e &&& v.f) ||| (~~~v.e &&& v.g)
  let ss1 := (v.a.rotateLeft 12 + v.e + t.rotateLeft (j % 32)).rotateLeft 7
  let ss2 := ss1 ^^^ v.a.rotateLeft 12
  { a := ff + v.d + ss2 + w', b := v.a, c := v.b.rotateLeft 9, d := v.c
    e := sm3P0 (gg + v.h + ss1 + w), f := v.e, g := v.f.rotateLeft 19, h := v.g }

/-- One 16-word block. -/
def Sm3.block (v : Sm3) (b : List Word) : Sm3 :=
  let w := (sm3Extend 52 b.reverse).reverse
  let r := (List.range 64).foldl (fun (r : Sm3) j =>
    let x := w.getD j 0
    r.round j x (x ^^^ w.getD (j + 4) 0)) v
  { a := r.a ^^^ v.a, b := r.b ^^^ v.b, c := r.c ^^^ v.c, d := r.d ^^^ v.d
    e := r.e ^^^ v.e, f := r.f ^^^ v.f, g := r.g ^^^ v.g, h := r.h ^^^ v.h }

/-- Big-endian words of bytes. -/
def beWords : List Byte → List Word
  | a :: b :: c :: d :: t => (a ++ b ++ c ++ d) :: beWords t
  | _ => []

/-- The blocks of a padded message. -/
def sm3Blocks : Nat → Sm3 → List Word → Sm3
  | 0, v, _ => v
  | n + 1, v, w => sm3Blocks n (v.block (w.take 16)) (w.drop 16)

/-- The 32 bytes of the SM3 digest of a message. -/
def sm3 (m : List Byte) : List Byte :=
  let n := m.length
  let pad := m ++ [0x80] ++ List.replicate ((119 - n % 64) % 64) 0 ++ (bytesLE 8 (8 * n)).reverse
  let v := sm3Blocks (pad.length / 64) sm3Init (beWords pad)
  [v.a, v.b, v.c, v.d, v.e, v.f, v.g, v.h].flatMap (fun x => (bytesLE 4 x.toNat).reverse)

/-! ### CRC-32C (R391) -/

/-- One bit of the reflected polynomial 0x1EDC6F41. -/
def crcBit (c : Word) : Word := if c.getLsbD 0 then (c >>> 1) ^^^ 0x82F63B78 else c >>> 1

/-- The CRC-32C of bytes in ascending order. -/
def crc32c (bs : List Byte) : Word :=
  ~~~ bs.foldl (fun c b => (List.range 8).foldl (fun c _ => crcBit c) (c ^^^ b.setWidth 32)) 0xFFFFFFFF

end Sys2Proof.Machine
end

