-- ==== Sys2Proof/Machine/LaneFp.lean ====
section
/-!
DEFINITION. The meanings of the floating-point lane instructions (R79 to R83, R90, R91, R93 to R96, R100, R103 to
R109). Each reads its operands under cr.fpcr.fz, forms an exact result and rounds it once.
-/

namespace Sys2Proof.Machine

open Sys2Proof

/-- in32 of an element. -/
def Group.in32 (g : Group) (a : Word) : FVal := fp32.input g.fz a.toNat
/-- A result rounded to FP32 under cr.fpcr. -/
def Group.out32 (g : Group) (x : Exact) : Word × Flags :=
  let r := fp32.deliver g.rm g.fz x
  (BitVec.ofNat 32 r.1, r.2)

/-- Half `h` of an element. -/
def half (a : Word) (h : Nat) : Nat := a.toNat / 2 ^ (16 * h) % 2 ^ 16
/-- Two halves and their flags, packed (R95). -/
def packHalves (lo hi : Nat × Flags) : Word × Flags := (BitVec.ofNat 32 (lo.1 + 65536 * hi.1), lo.2.or hi.2)

/-- An operation on both 16-bit halves. -/
def halves (f : Nat → Nat × Flags) : Word × Flags := packHalves (f 0) (f 1)

/-- FMIN and FMAX of encodings, after fz on input (R94). -/
def Group.minmax (g : Group) (f : Fmt) (mx : Bool) (x y : Nat) : Nat × Flags :=
  let fl := fun c => if g.fz then f.flush c else c
  f.minmax mx (fl x) (fl y)

/-- A three-register FP32 instruction. -/
def State.fp2 (s : State) (d a b : VReg) (y z : Bool) (q : Fin 4) (f : Group → FVal → FVal → Exact) : State :=
  s.laneOpFp q (marked [(y, a), (z, b)]) d (fun g l => g.out32 (f g (g.in32 (g.lane a l)) (g.in32 (g.lane b l))))
/-- A unary FP32 function. -/
def State.fp1 (s : State) (d a : VReg) (y : Bool) (q : Fin 4) (f : Group → FVal → Exact) : State :=
  s.laneOpFp q (marked [(y, a)]) d (fun g l => g.out32 (f g (g.in32 (g.lane a l))))
/-- An instruction on packed halves with two sources. -/
def State.half2 (s : State) (d a b : VReg) (y z : Bool) (q : Fin 4) (f : Group → Nat → Nat → Nat × Flags) : State :=
  s.laneOpFp q (marked [(y, a), (z, b)]) d (fun g l => halves (fun h => f g (half (g.lane a l) h) (half (g.lane b l) h)))
/-- A fused multiply-add on packed halves of format `f` (R96). -/
def State.halfFma (s : State) (f : Fmt) (d a b : VReg) (y z : Bool) (q : Fin 4) : State :=
  s.laneOpFp q (marked [(y, a), (z, b)]) d (fun g l => halves (fun h =>
    f.deliver g.rm g.fz (fFma g.rm (f.input g.fz (half (g.lane a l) h)) (f.input g.fz (half (g.lane b l) h))
      (f.input g.fz (half (g.lane d l) h)))))

/-- The steps of LSCAN.add.f32 and REDL.add.f32 (R100). -/
def Group.sumScan (g : Group) (a : Nat → Word) (m : List Nat) : List (Nat × Word × Flags) :=
  scanFrom
    (fun x =>
      let v := g.in32 x
      if v.isNan then (0x7FC00000, .invalid v.isSnan) else (BitVec.ofNat 32 (if g.fz then fp32.flush x.toNat else x.toNat), .none))
    (fun r x => g.out32 (fAdd g.rm (fp32.decode r.toNat) (g.in32 x))) a none m

/-- A rounded narrow value shifted into vd from the top (R105, R107). -/
def State.pack (s : State) (d a : VReg) (y : Bool) (q : Fin 4) (w : Nat) (f : Group → FVal → Nat × Flags) : State :=
  s.laneOpFp q (marked [(y, a)]) d (fun g l =>
    let r := f g (g.in32 (g.lane a l))
    (BitVec.ofNat 32 (r.1 * 2 ^ (32 - w) + (g.lane d l).toNat / 2 ^ w), r.2))
/-- A narrow value widened to FP32, its subnormals flushed under fz (R106, R108). -/
def State.unpack (s : State) (d a : VReg) (y : Bool) (q : Fin 4) (f : Fmt) (at_ : Word → Nat) : State :=
  s.laneOpFp q (marked [(y, a)]) d (fun g l =>
    let r := widen (f.input g.fz (at_ (g.lane a l)))
    (BitVec.ofNat 32 r.1, r.2))

/-- cvt_fp8 to E4M3: an infinity becomes the NaN of its sign and sets nv (R107). -/
def cvtE4m3 (rm : Rm) (fz : Bool) (x : FVal) : Nat × Flags :=
  match x with
  | .inf n => (e4m3.pack n 0x7F, .invalid true)
  | .nan sn => (0x7F, .invalid sn)
  | .num n m e => e4m3.round rm fz n m e
/-- Rounding of a value to a format with infinities. -/
def cvtFmt (f : Fmt) (rm : Rm) (fz : Bool) (x : FVal) : Nat × Flags :=
  f.deliver rm fz (match x with
    | .nan sn => exNan sn
    | v => { val := v, flags := .none })

/-- The sum of both FP16 halves. (R95) -/
def execHadd2 (d a b : VReg) (y z : Bool) (q : Fin 4) (s : State) : Out :=
  .next (s.half2 d a b y z q (fun g x w => fp16.deliver g.rm g.fz (fAdd g.rm (fp16.input g.fz x) (fp16.input g.fz w))))

/-- The difference of both FP16 halves. (R95) -/
def execHsub2 (d a b : VReg) (y z : Bool) (q : Fin 4) (s : State) : Out :=
  .next (s.half2 d a b y z q (fun g x w => fp16.deliver g.rm g.fz (fSub g.rm (fp16.input g.fz x) (fp16.input g.fz w))))

/-- The minimum of both FP16 halves. (R95) -/
def execHmin2 (d a b : VReg) (y z : Bool) (q : Fin 4) (s : State) : Out :=
  .next (s.half2 d a b y z q (fun g x w => g.minmax fp16 false x w))

/-- The maximum of both FP16 halves. (R95) -/
def execHmax2 (d a b : VReg) (y z : Bool) (q : Fin 4) (s : State) : Out :=
  .next (s.half2 d a b y z q (fun g x w => g.minmax fp16 true x w))

/-- The ordered-less bits of both FP16 halves; bits [31:2] become 0. (R91) -/
def execHclt2 (d a b : VReg) (y z : Bool) (q : Fin 4) (s : State) : Out :=
  .next (s.laneOpFp q (marked [(y, a), (z, b)]) d (fun g l =>
    let t := fun h =>
      let u := fp16.input g.fz (half (g.lane a l) h)
      let w := fp16.input g.fz (half (g.lane b l) h)
      (fTest .lt u w, Flags.invalid (u.isSnan || w.isSnan))
    (BitVec.ofNat 32 ((if (t 1).1 then 2 else 0) + (if (t 0).1 then 1 else 0)), (t 0).2.or (t 1).2)))

/-- Compare FP32 elements into a predicate; nv for a signalling operand only. (R90) -/
def execFcmp (p : KReg) (c : Cond) (a b : VReg) (y z : Bool) (q : Fin 4) (s : State) : Out :=
  .next (s.cmpOp q (marked [(y, a), (z, b)]) p (fun g l =>
    let u := g.in32 (g.lane a l)
    let w := g.in32 (g.lane b l)
    (fTest c u w, Flags.invalid (u.isSnan || w.isSnan))))

/-- a + b, rounded once. (R93) -/
def execFadd (d a b : VReg) (y z : Bool) (q : Fin 4) (s : State) : Out :=
  .next (s.fp2 d a b y z q (fun g => fAdd g.rm))

/-- a − b, rounded once. (R93) -/
def execFsub (d a b : VReg) (y z : Bool) (q : Fin 4) (s : State) : Out :=
  .next (s.fp2 d a b y z q (fun g => fSub g.rm))

/-- a × b, rounded once. (R93) -/
def execFmul (d a b : VReg) (y z : Bool) (q : Fin 4) (s : State) : Out :=
  .next (s.fp2 d a b y z q (fun _ => fMul))

/-- a × b + d, rounded once. (R93) -/
def execFfma (d a b : VReg) (y z : Bool) (q : Fin 4) (s : State) : Out :=
  .next (s.laneOpFp q (marked [(y, a), (z, b)]) d (fun g l =>
    g.out32 (fFma g.rm (g.in32 (g.lane a l)) (g.in32 (g.lane b l)) (g.in32 (g.lane d l)))))

/-- The smaller operand. (R94) -/
def execFmin (d a b : VReg) (y z : Bool) (q : Fin 4) (s : State) : Out :=
  .next (s.laneOpFp q (marked [(y, a), (z, b)]) d (fun g l =>
    let r := g.minmax fp32 false (g.lane a l).toNat (g.lane b l).toNat
    (BitVec.ofNat 32 r.1, r.2)))

/-- The larger operand. (R94) -/
def execFmax (d a b : VReg) (y z : Bool) (q : Fin 4) (s : State) : Out :=
  .next (s.laneOpFp q (marked [(y, a), (z, b)]) d (fun g l =>
    let r := g.minmax fp32 true (g.lane a l).toNat (g.lane b l).toNat
    (BitVec.ofNat 32 r.1, r.2)))

/-- Fused multiply-add on both FP16 halves. (R96) -/
def execHfma2 (d a b : VReg) (y z : Bool) (q : Fin 4) (s : State) : Out :=
  .next (s.halfFma fp16 d a b y z q)

/-- Fused multiply-add on both BF16 halves. (R96) -/
def execBfma2 (d a b : VReg) (y z : Bool) (q : Fin 4) (s : State) : Out :=
  .next (s.halfFma bf16 d a b y z q)

/-- Inclusive FP32 prefix sum over the acting lanes, one rounding a step. (R100) -/
def execLscanAddF32 (d a : VReg) (y : Bool) (q : Fin 4) (s : State) : Out :=
  .next (s.laneOpFp q (marked [(y, a)]) d (fun g l => scanAt l (g.sumScan (g.lane a) (g.actors q))))

/-- a × S + d, rounded once; S is a uniform operand. (R88) -/
def execFfmas (d a : VReg) (b : SReg) (y z : Bool) (q : Fin 4) (s : State) : Out :=
  let u := (s.grp.getS b).setWidth 32
  .next ((s.lastS z b).laneOpFp q (marked [(y, a)]) d (fun g l =>
    g.out32 (fFma g.rm (g.in32 (g.lane a l)) (g.in32 u) (g.in32 (g.lane d l)))))

/-- a × S, rounded once; S is a uniform operand. (R88) -/
def execFmuls (d a : VReg) (b : SReg) (y z : Bool) (q : Fin 4) (s : State) : Out :=
  let u := (s.grp.getS b).setWidth 32
  .next ((s.lastS z b).laneOpFp q (marked [(y, a)]) d (fun g l =>
    g.out32 (fMul (g.in32 (g.lane a l)) (g.in32 u))))

/-- 1 / x, correctly rounded. (R103) -/
def execFrcp (d a : VReg) (y : Bool) (q : Fin 4) (s : State) : Out :=
  .next (s.fp1 d a y q (fun _ => fRcp))

/-- 1 / √x, correctly rounded. (R103) -/
def execFrsq (d a : VReg) (y : Bool) (q : Fin 4) (s : State) : Out :=
  .next (s.fp1 d a y q (fun _ => fRsq))

/-- 2^x, correctly rounded. (R103) -/
def execFexp2 (d a : VReg) (y : Bool) (q : Fin 4) (s : State) : Out :=
  .next (s.fp1 d a y q (fun _ => fExp2))

/-- log2 x, correctly rounded. (R103) -/
def execFlog2 (d a : VReg) (y : Bool) (q : Fin 4) (s : State) : Out :=
  .next (s.fp1 d a y q (fun _ => fLog2))

/-- sin(π·x), correctly rounded. (R103) -/
def execFsin (d a : VReg) (y : Bool) (q : Fin 4) (s : State) : Out :=
  .next (s.fp1 d a y q (fun _ => fSin))

/-- cos(π·x), correctly rounded. (R103) -/
def execFcos (d a : VReg) (y : Bool) (q : Fin 4) (s : State) : Out :=
  .next (s.fp1 d a y q (fun _ => fCos))

/-- x rounded to an integral value in direction rm. (R104) -/
def execFrnd (d a : VReg) (y : Bool) (q : Fin 4) (s : State) : Out :=
  .next (s.fp1 d a y q (fun g => fRnd g.rm))

/-- x rounded to a signed 32-bit integer, direction rm. (R104) -/
def execCvtfi (d a : VReg) (y : Bool) (q : Fin 4) (s : State) : Out :=
  .next (s.laneOpFp q (marked [(y, a)]) d (fun g l => fToInt g.rm (g.in32 (g.lane a l))))

/-- x rounded to a signed 32-bit integer, toward zero. (R104) -/
def execCvtfiz (d a : VReg) (y : Bool) (q : Fin 4) (s : State) : Out :=
  .next (s.laneOpFp q (marked [(y, a)]) d (fun g l => fToInt .rz (g.in32 (g.lane a l))))

/-- A signed integer rounded to FP32. (R104) -/
def execCvtif (d a : VReg) (y : Bool) (q : Fin 4) (s : State) : Out :=
  .next (s.laneOpFp q (marked [(y, a)]) d (fun g l => g.out32 (fOfInt (g.lane a l).toInt)))

/-- A natural integer rounded to FP32. (R104) -/
def execCvtnf (d a : VReg) (y : Bool) (q : Fin 4) (s : State) : Out :=
  .next (s.laneOpFp q (marked [(y, a)]) d (fun g l => g.out32 (fOfInt ((g.lane a l).toNat : Int))))

/-- x rounded to FP16 and shifted into vd from the top. (R105) -/
def execPkh (d a : VReg) (y : Bool) (q : Fin 4) (s : State) : Out :=
  .next (s.pack d a y q 16 (fun g => cvtFmt fp16 g.rm g.fz))

/-- x rounded to BF16 and shifted into vd from the top. (R105) -/
def execPkbf (d a : VReg) (y : Bool) (q : Fin 4) (s : State) : Out :=
  .next (s.pack d a y q 16 (fun g => cvtFmt bf16 g.rm g.fz))

/-- x converted to E4M3 and shifted into vd from the top. (R107) -/
def execPk8e4 (d a : VReg) (y : Bool) (q : Fin 4) (s : State) : Out :=
  .next (s.pack d a y q 8 (fun g => cvtE4m3 g.rm g.fz))

/-- x converted to E5M2 and shifted into vd from the top. (R107) -/
def execPk8e5 (d a : VReg) (y : Bool) (q : Fin 4) (s : State) : Out :=
  .next (s.pack d a y q 8 (fun g => cvtFmt e5m2 g.rm g.fz))

/-- The low FP16 half widened to FP32. (R106) -/
def execUpkhl (d a : VReg) (y : Bool) (q : Fin 4) (s : State) : Out :=
  .next (s.unpack d a y q fp16 (fun a => half a 0))

/-- The high FP16 half widened to FP32. (R106) -/
def execUpkhh (d a : VReg) (y : Bool) (q : Fin 4) (s : State) : Out :=
  .next (s.unpack d a y q fp16 (fun a => half a 1))

/-- The E4M3 byte a[7:0] widened to FP32. (R108) -/
def execUpk8e4 (d a : VReg) (y : Bool) (q : Fin 4) (s : State) : Out :=
  .next (s.unpack d a y q e4m3 (fun a => a.toNat % 256))

/-- The E5M2 byte a[7:0] widened to FP32. (R108) -/
def execUpk8e5 (d a : VReg) (y : Bool) (q : Fin 4) (s : State) : Out :=
  .next (s.unpack d a y q e5m2 (fun a => a.toNat % 256))

/-- The E2M1 nibble a[3:0] widened to FP32; fz does not apply. (R109) -/
def execUpkf4 (d a : VReg) (y : Bool) (q : Fin 4) (s : State) : Out :=
  .next (s.laneOp q (marked [(y, a)]) d (fun g l =>
    BitVec.ofNat 32 (widen (e2m1.decode ((g.lane a l).toNat % 16))).1))

end Sys2Proof.Machine
end

