-- ==== Sys2Proof/Machine/Uniform.lean ====
section
/-!
DEFINITION. The meanings of the uniform instructions that compute (R112 to R115), that move values between lanes,
predicates and uniform registers (R117 to R121), and of the generators (R144 to R146).
-/

namespace Sys2Proof.Machine

open Sys2Proof

/-- A UALU function of two registers (R112). -/
def State.uni2 (s : State) (d a b : SReg) (y z : Bool) (f : DWord → DWord → DWord) : State :=
  s.uniOp (markedS [(y, a), (z, b)]) d (fun g => f (g.getS a) (g.getS b))
/-- An immediate major (R114). -/
def State.uniImm (s : State) (d a : SReg) (f : DWord → DWord) : State := s.uniOp [] d (fun g => f (g.getS a))

/-- 1 or 0. -/
def bit64 (b : Bool) : DWord := if b then 1 else 0

/-- Quotients truncate toward zero; a zero divisor gives all ones (R113). -/
def sdiv (a b : DWord) : DWord := if b = 0 then BitVec.allOnes 64 else BitVec.ofInt 64 (a.toInt.tdiv b.toInt)
def ndiv (a b : DWord) : DWord := if b = 0 then BitVec.allOnes 64 else a.udiv b
/-- Remainders take the sign of the dividend; a zero divisor gives the dividend (R113). -/
def srem (a b : DWord) : DWord := if b = 0 then a else BitVec.ofInt 64 (a.toInt.tmod b.toInt)
def nrem (a b : DWord) : DWord := if b = 0 then a else a.umod b

/-- The result of REDL: the last step of the scan over the issuing lanes (R119). -/
def lastStep (l : List (Nat × Word × Flags)) : Word := match l.getLast? with
  | some p => p.2.1
  | none => 0
/-- An integer REDL over the issuing lanes; `x` widens the result. -/
def State.redl (s : State) (d : SReg) (a : VReg) (y : Bool) (f : Word → Word → Word) (x : Word → DWord) : State :=
  s.laneToUni y a d (fun g => x (lastStep (intScan f (g.lane a) g.issuers)))

/-- A predicate of two predicates, in all 32 bits (R121). -/
def State.kop (s : State) (d : KReg) (f : Group → BitVec 32) : State := (s.setGrp (s.grp.setK d (f s.grp))).advance

/-- One step of a generator (R145). -/
def genStep (g : BitVec 128) : BitVec 128 := if g.msb then (g <<< 1) ^^^ 0x87 else g <<< 1
/-- The 32 bits that RNXT returns of a state it has stepped. -/
def genOut (g : BitVec 128) : Word := (g >>> 32).setWidth 32 ^^^ (g >>> 96).setWidth 32

/-- Product of two polynomials of degree below 128, modulo x^128 + x^7 + x^2 + x + 1; `n` bits of `b` are left (R144). -/
def gfMulFrom : Nat → BitVec 128 → Nat → BitVec 128
  | 0, _, _ => 0
  | n + 1, a, b => (if b % 2 = 1 then a else 0) ^^^ gfMulFrom n (genStep a) (b / 2)
def gfMul (a b : BitVec 128) : BitVec 128 := gfMulFrom 128 a b.toNat

/-- g × x^n; `k` bits of n are left and `p` is x to the weight of the next one (R146). -/
def gfJumpFrom : Nat → BitVec 128 → BitVec 128 → Nat → BitVec 128
  | 0, g, _, _ => g
  | k + 1, g, p, n => gfJumpFrom k (if n % 2 = 1 then gfMul g p else g) (gfMul p p) (n / 2)
/-- g × x^n mod P for n below 2^128. -/
def gfJump (g : BitVec 128) (n : Nat) : BitVec 128 := gfJumpFrom 128 g 2 n
/-- g × x^n mod P for n below 2^64. -/
def gfJump64 (g : BitVec 128) (n : Nat) : BitVec 128 := gfJumpFrom 64 g 2 n

/-- a + b. (R112) -/
def execAdd (d a b : SReg) (y z : Bool) (s : State) : Out :=
  .next (s.uni2 d a b y z (fun a b => a + b))

/-- a − b. (R112) -/
def execSub (d a b : SReg) (y z : Bool) (s : State) : Out :=
  .next (s.uni2 d a b y z (fun a b => a - b))

/-- Low 64 bits of a × b. (R112) -/
def execMul (d a b : SReg) (y z : Bool) (s : State) : Out :=
  .next (s.uni2 d a b y z (fun a b => a * b))

/-- High 64 bits of the signed product. (R112) -/
def execMulh (d a b : SReg) (y z : Bool) (s : State) : Out :=
  .next (s.uni2 d a b y z (fun a b => mulHigh a b))

/-- High 64 bits of the natural product. (R112) -/
def execNmulhUniform (d a b : SReg) (y z : Bool) (s : State) : Out :=
  .next (s.uni2 d a b y z (fun a b => mulHighN a b))

/-- a AND b. (R112) -/
def execAndUniform (d a b : SReg) (y z : Bool) (s : State) : Out :=
  .next (s.uni2 d a b y z (fun a b => a &&& b))

/-- a OR b. (R112) -/
def execOrUniform (d a b : SReg) (y z : Bool) (s : State) : Out :=
  .next (s.uni2 d a b y z (fun a b => a ||| b))

/-- a XOR b. (R112) -/
def execXorUniform (d a b : SReg) (y z : Bool) (s : State) : Out :=
  .next (s.uni2 d a b y z (fun a b => a ^^^ b))

/-- a AND NOT b. (R112) -/
def execAndnUniform (d a b : SReg) (y z : Bool) (s : State) : Out :=
  .next (s.uni2 d a b y z (fun a b => a &&& ~~~b))

/-- a << n, 0 from n = 64. (R112) -/
def execShlUniform (d a b : SReg) (y z : Bool) (s : State) : Out :=
  .next (s.uni2 d a b y z (fun a b => shl a b.toNat))

/-- a >> n with zeros. (R112) -/
def execShrUniform (d a b : SReg) (y z : Bool) (s : State) : Out :=
  .next (s.uni2 d a b y z (fun a b => shr a b.toNat))

/-- a >> n with copies of a[63]. (R112) -/
def execSarUniform (d a b : SReg) (y z : Bool) (s : State) : Out :=
  .next (s.uni2 d a b y z (fun a b => sar a b.toNat))

/-- The smaller, signed. (R112) -/
def execMin (d a b : SReg) (y z : Bool) (s : State) : Out :=
  .next (s.uni2 d a b y z (fun a b => sMin a b))

/-- The larger, signed. (R112) -/
def execMax (d a b : SReg) (y z : Bool) (s : State) : Out :=
  .next (s.uni2 d a b y z (fun a b => sMax a b))

/-- The smaller, natural. (R112) -/
def execNminUniform (d a b : SReg) (y z : Bool) (s : State) : Out :=
  .next (s.uni2 d a b y z (fun a b => nMin a b))

/-- The larger, natural. (R112) -/
def execNmaxUniform (d a b : SReg) (y z : Bool) (s : State) : Out :=
  .next (s.uni2 d a b y z (fun a b => nMax a b))

/-- 1 if a = b. (R112) -/
def execSeq (d a b : SReg) (y z : Bool) (s : State) : Out :=
  .next (s.uni2 d a b y z (fun a b => bit64 (a == b)))

/-- 1 if a ≠ b. (R112) -/
def execSne (d a b : SReg) (y z : Bool) (s : State) : Out :=
  .next (s.uni2 d a b y z (fun a b => bit64 (a != b)))

/-- 1 if a < b signed. (R112) -/
def execSlt (d a b : SReg) (y z : Bool) (s : State) : Out :=
  .next (s.uni2 d a b y z (fun a b => bit64 (a.slt b)))

/-- 1 if a < b natural. (R112) -/
def execSltn (d a b : SReg) (y z : Bool) (s : State) : Out :=
  .next (s.uni2 d a b y z (fun a b => bit64 (a.ult b)))

/-- Signed quotient. (R113) -/
def execSdiv (d a b : SReg) (y z : Bool) (s : State) : Out :=
  .next (s.uni2 d a b y z (fun a b => sdiv a b))

/-- Natural quotient. (R113) -/
def execNdiv (d a b : SReg) (y z : Bool) (s : State) : Out :=
  .next (s.uni2 d a b y z (fun a b => ndiv a b))

/-- Signed remainder. (R113) -/
def execSrem (d a b : SReg) (y z : Bool) (s : State) : Out :=
  .next (s.uni2 d a b y z (fun a b => srem a b))

/-- Natural remainder. (R113) -/
def execNrem (d a b : SReg) (y z : Bool) (s : State) : Out :=
  .next (s.uni2 d a b y z (fun a b => nrem a b))

/-- Count of 1 bits. (R112) -/
def execPopcUniform (d a : SReg) (y : Bool) (s : State) : Out :=
  .next (s.uniOp (markedS [(y, a)]) d (fun g => let a := g.getS a; BitVec.ofNat 64 (popCount 64 a.toNat)))

/-- Count of leading zeros. (R112) -/
def execClzUniform (d a : SReg) (y : Bool) (s : State) : Out :=
  .next (s.uniOp (markedS [(y, a)]) d (fun g => let a := g.getS a; BitVec.ofNat 64 (leadingZeros 64 a.toNat)))

/-- a + sext(imm13). (R114) -/
def execAddi (d a : SReg) (i : BitVec 13) (s : State) : Out :=
  .next (s.uniImm d a (fun a => a + sext64 i))

/-- a AND sext(imm13). (R114) -/
def execAndiUniform (d a : SReg) (i : BitVec 13) (s : State) : Out :=
  .next (s.uniImm d a (fun a => a &&& sext64 i))

/-- a OR sext(imm13). (R114) -/
def execOriUniform (d a : SReg) (i : BitVec 13) (s : State) : Out :=
  .next (s.uniImm d a (fun a => a ||| sext64 i))

/-- a XOR sext(imm13). (R114) -/
def execXoriUniform (d a : SReg) (i : BitVec 13) (s : State) : Out :=
  .next (s.uniImm d a (fun a => a ^^^ sext64 i))

/-- 1 if a < sext(imm13) signed. (R114) -/
def execSlti (d a : SReg) (i : BitVec 13) (s : State) : Out :=
  .next (s.uniImm d a (fun a => bit64 (a.slt (sext64 i))))

/-- a << n. (R114) -/
def execShliUniform (d a : SReg) (n : BitVec 6) (s : State) : Out :=
  .next (s.uniImm d a (fun a => shl a n.toNat))

/-- a >> n with zeros. (R114) -/
def execShriUniform (d a : SReg) (n : BitVec 6) (s : State) : Out :=
  .next (s.uniImm d a (fun a => shr a n.toNat))

/-- a >> n with copies of a[63]. (R114) -/
def execSariUniform (d a : SReg) (n : BitVec 6) (s : State) : Out :=
  .next (s.uniImm d a (fun a => sar a n.toNat))

/-- Quarter q of sd := imm16; the others are kept or cleared. (R115) -/
def execMovw (d : SReg) (q : Fin 4) (i : BitVec 16) (k : Bool) (s : State) : Out :=
  .next (s.uniOp [] d (fun g =>
    let v : DWord := if k then g.getS d else 0
    (v &&& ~~~((0xFFFF : DWord) <<< (16 * q.val))) ||| (i.setWidth 64 <<< (16 * q.val))))

/-- One lane of a lane register, zero-extended (R117). -/
def execVget (d : SReg) (a : VReg) (l : Fin 32) (y : Bool) (s : State) : Out :=
  .next (s.laneToUni y a d (fun g => (g.lane a l.val).setWidth 64))

/-- One lane of a lane register is written, whatever the active mask (R117). -/
def execVput (d : SReg) (a : VReg) (l : Fin 32) (s : State) : Out :=
  let g := s.grp
  .next (s.setGrp (g.setV a (vset (g.getV a) l.val ((g.getS d).setWidth 32)))).advance

/-- One bit of each issuing lane (R118). -/
def execBallot (d : SReg) (a : VReg) (l : Fin 32) (y : Bool) (s : State) : Out :=
  .next (s.laneToUni y a d (fun g =>
    (mergeBits g.issuers (fun j => (g.lane a j).getLsbD l.val) 0).setWidth 64))

/-- Sum modulo 2^32, sign-extended, over the issuing lanes. (R119) -/
def execRedlAddI32 (d : SReg) (a : VReg) (y : Bool) (s : State) : Out :=
  .next (s.redl d a y (fun r x => r + x) sext64)

/-- Signed minimum, sign-extended, over the issuing lanes. (R119) -/
def execRedlMinI32 (d : SReg) (a : VReg) (y : Bool) (s : State) : Out :=
  .next (s.redl d a y (sMin) sext64)

/-- Signed maximum, sign-extended, over the issuing lanes. (R119) -/
def execRedlMaxI32 (d : SReg) (a : VReg) (y : Bool) (s : State) : Out :=
  .next (s.redl d a y (sMax) sext64)

/-- AND, zero-extended, over the issuing lanes. (R119) -/
def execRedlAnd (d : SReg) (a : VReg) (y : Bool) (s : State) : Out :=
  .next (s.redl d a y (fun r x => r &&& x) (BitVec.setWidth 64))

/-- OR, zero-extended, over the issuing lanes. (R119) -/
def execRedlOr (d : SReg) (a : VReg) (y : Bool) (s : State) : Out :=
  .next (s.redl d a y (fun r x => r ||| x) (BitVec.setWidth 64))

/-- FP32 sum over the issuing lanes in ascending order; each step may raise flags in its lane. (R119) -/
def execRedlAddF32 (d : SReg) (a : VReg) (y : Bool) (s : State) : Out :=
  let g := s.grp
  let steps := g.sumScan (g.lane a) g.issuers
  let s1 := s.setGrp (g.raiseFlags g.pc.toNat (steps.map (fun p => (p.1, p.2.2))))
  .next (s1.laneToUni y a d (fun _ => (lastStep steps).setWidth 64))

/-- Bit 0 of each issuing lane into a predicate (R120). -/
def execKmovFromLane (a : VReg) (p : KReg) (y : Bool) (s : State) : Out :=
  let g := s.grp
  let x := mergeBits g.issuers (fun l => (g.lane a l).getLsbD 0) (g.kBits p)
  let s1 := s.lastV y a
  .next (s1.setGrp (s1.grp.setK p x)).advance

/-- The predicate bit of each issuing lane into a lane register (R120). -/
def execKmovToLane (a : VReg) (p : KReg) (s : State) : Out :=
  let g := s.grp
  .next (s.setGrp (g.setV a (mergeLanes g.issuers (fun l => if g.getK p l then 1 else 0) (g.getV a)))).advance

/-- ka AND kb. (R121) -/
def execKand (d a b : KReg) (s : State) : Out :=
  .next (s.kop d (fun g => g.kBits a &&& g.kBits b))

/-- ka OR kb. (R121) -/
def execKor (d a b : KReg) (s : State) : Out :=
  .next (s.kop d (fun g => g.kBits a ||| g.kBits b))

/-- ka XOR kb. (R121) -/
def execKxor (d a b : KReg) (s : State) : Out :=
  .next (s.kop d (fun g => g.kBits a ^^^ g.kBits b))

/-- ka AND NOT kb. (R121) -/
def execKandn (d a b : KReg) (s : State) : Out :=
  .next (s.kop d (fun g => g.kBits a &&& ~~~(g.kBits b)))

/-- NOT ka. (R121) -/
def execKnot (d a : KReg) (s : State) : Out :=
  .next (s.kop d (fun g => ~~~(g.kBits a)))

/-- The low 32 bits of a uniform register into a predicate (R121). -/
def execKfroms (d : KReg) (a : SReg) (s : State) : Out :=
  .next (s.kop d (fun g => (g.getS a).setWidth 32))

/-- A predicate into a uniform register, zero-extended (R121). -/
def execKtos (d : SReg) (a : KReg) (s : State) : Out :=
  .next (s.uniOp [] d (fun g => (g.kBits a).setWidth 64))

/-- The lowest issuing lane number (R139). -/
def execElect (d : SReg) (s : State) : Out :=
  .next (s.uniOp [] d (fun g => BitVec.ofNat 64 (g.issuers.headD 0)))

/-- Step the generator and read it (R145). -/
def execRnxt (d : SReg) (s : State) : Out :=
  let g := s.grp
  let x := genStep g.gen
  .next (s.setGrp (({ g with gen := x }).setS d ((genOut x).setWidth 64))).advance

/-- Advance the generator by s(sa) steps (R146). -/
def execRjmp (a : SReg) (s : State) : Out :=
  let g := s.grp
  .next (s.setGrp { g with gen := gfJump64 g.gen (g.getS a).toNat }).advance

end Sys2Proof.Machine
end

