-- ==== Sys2Proof/Machine/Control.lean ====
section
/-!
DEFINITION. The meanings of the control instructions: branches and calls (R122 to R126), barriers (R130 to R133), fences
and SPIN (R134, R135), side sequencers (R136 to R138), HALT and NOP (R61, R139).
-/

namespace Sys2Proof.Machine

open Sys2Proof

/-! ### Branches (R62, R122 to R126) -/

/-- P + 4 × offset. A target below 0 or from 2^52 on wraps modulo 2^52: R125 gives a rule for the targets of JR and no rule gives one here
(DESIGN CHOICE, log entry 85; R12). -/
def Group.target {w : Nat} (g : Group) (x : BitVec w) : BitVec 52 := g.pc + x.signExtend 52 * 4

/-- The issuing lanes move as `f` says, or to P + 4. -/
def State.branch (s : State) (taken : Nat → Bool) (tgt : BitVec 52) : State :=
  let g := s.grp
  let p := g.pc
  s.setGrp (g.jump (fun l => if taken l then tgt else p + 4))

/-- The uniformity check of a branch with uni = 1, before it takes effect (R62). -/
def State.withUni (s : State) (u : Bool) (same : Bool) (f : State → State) : State :=
  if u && !(s.grp.together && same) then s.raise trapUniform 0 else f s

/-- B (R122). -/
def execB (u : Bool) (x : BitVec 20) (s : State) : Out :=
  .next (s.withUni u true (fun s => s.branch (fun _ => true) (s.grp.target x)))

/-- CALL: sl := P + 4, then as B (R122). -/
def execCall (u : Bool) (x : BitVec 20) (s : State) : Out :=
  .next (s.withUni u true (fun s =>
    let g := s.grp
    (s.setGrp (g.setS 62 ((g.pc + 4).setWidth 64))).branch (fun _ => true) (g.target x)))

/-- The test of BS against zero (R123). -/
def bsTaken (c : BsCond) (a : DWord) : Bool :=
  match c with
  | .eq => a == 0
  | .ne => a != 0
  | .lt => a.msb
  | .ge => !a.msb
  | .ltn => false
  | .gen => true

/-- BS (R123). -/
def execBs (u : Bool) (c : BsCond) (a : SReg) (x : BitVec 15) (s : State) : Out :=
  .next (s.withUni u true (fun s =>
    let b := bsTaken c (s.grp.getS a)
    s.branch (fun _ => b) (s.grp.target x)))

/-- Which issuing lanes a BK sends to its target (R124). -/
def Group.bkTaken (g : Group) (m : BkMode) (k : KReg) (l : Nat) : Bool :=
  match m with
  | .any => g.issuers.any (g.getK k)
  | .all => g.issuers.all (g.getK k)
  | .none => !g.issuers.any (g.getK k)
  | .each => g.getK k l

/-- BK (R62, R124). -/
def execBk (u : Bool) (m : BkMode) (k : KReg) (x : BitVec 19) (s : State) : Out :=
  let g := s.grp
  let same := m != .each || g.issuers.all (g.getK k) || !g.issuers.any (g.getK k)
  .next (s.withUni u same (fun s => s.branch (s.grp.bkTaken m k) (s.grp.target x)))

/-- The form of JR: the target is checked, the source released, the link written, and every issuing lane moved (R125). -/
def State.jumpReg (s : State) (a : SReg) (y : Bool) (link : Option SReg) : State :=
  let g := s.grp
  let v := g.getS a
  if v.toNat % 4 ≠ 0 then s.raise trapIllegal 0
  else if 2 ^ 52 ≤ v.toNat then s.raise trapNoMap v.toNat
  else
    let s1 := s.lastS y a
    let g1 := match link with
      | none => s1.grp
      | some d => s1.grp.setS d ((g.pc + 4).setWidth 64)
    (s1.setGrp g1).branch (fun _ => true) (v.setWidth 52)

/-- JR (R125). -/
def execJr (a : SReg) (y : Bool) (s : State) : Out := .next (s.jumpReg a y none)
/-- JR.call (R125). -/
def execJrCall (d a : SReg) (y : Bool) (s : State) : Out := .next (s.jumpReg a y (some d))
/-- JR.return (R125). -/
def execJrReturn (a : SReg) (y : Bool) (s : State) : Out := .next (s.jumpReg a y none)

/-! ### Hardware barriers (R130 to R133) -/

/-- A barrier's count. -/
def Team.count (x : Team) (h : Fin 8) : Nat := vget 0 x.hb h.val
def Team.setCount (x : Team) (h : Fin 8) (n : Nat) : Team := { x with hb := vset x.hb h.val n }

/-- An arrival is counted, if the count is not saturated (R131). -/
def Team.arrive (x : Team) (h : Fin 8) : Option Team :=
  if x.count h < 65535 then some (x.setCount h (x.count h + 1)) else none

/-- An arrival that the team does not make itself, at a count that is not saturated: it stands though the team's phase is
abandoned (R131, R328). -/
def Team.arriveFar (x : Team) (h : Fin 8) : Option Team :=
  (x.arrive h).map (fun y => { y with restHb := vset y.restHb h.val (vget 0 y.restHb h.val + 1) })

/-- ARRIVE: after the agent's earlier window accesses; it waits while the count is saturated (R131, R133). -/
def execArrive (h : Fin 8) (s : State) : Out :=
  let s1 := s.drainIf s.cur.1 s.cur.2 (fun p => p.target != .global)
  if s1.grp.stores.any (fun p => p.target != .global) then .next s1
  else match s1.team.arrive h with
  | none => .next s1
  | some x => .next (s1.setTeam x).advance

/-- WAITB: agents that wait on one barrier are served in the order in which they issued (R132). -/
def execWaitb (h : Fin 8) (s : State) : Out :=
  let x := s.team
  let me : Fin 8 × Nat := (h, s.cur.2)
  let q := if x.hbq.contains me then x.hbq else x.hbq ++ [me]
  if 1 ≤ x.count h && (q.find? (fun p => p.1 == h)) == some me then
    let s1 := s.setTeam { x.setCount h (x.count h - 1) with hbq := q.erase me }
    .next (s1.setGrp { s1.grp with status := .run }).advance
  else
    .next ((s.setTeam { x with hbq := q }).setGrp { s.grp with status := .waitb })

/-- BARRIER_ARRIVAL_HELD_COUNTED: the oldest arrival held at a barrier is counted; an engine command that made it may
complete (R131). -/
def execBarrierArrivalHeldCounted (t : Nat) (h : Fin 8) (s : State) : Out :=
  let x := s.teamOf t
  match x.hbHeld.find? (fun p => p.1 == h) with
  | none => .next s
  | some p =>
    if x.status ≠ .placed then .next s
    else match x.arriveFar h with
    | none => .next s
    | some y => .next (s.setTeamOf t { y with hbHeld := y.hbHeld.erase p })

/-! ### Fences and SPIN (R134, R135, R227, R230) -/

/-- FENCE.acquire: a view point for every line once the agent's own accesses are performed (R134, R227). -/
def execFenceAcquire (sc : Scope) (s : State) : Out :=
  .next (s.point false sc (fun s => (s.viewPoint s.cur.1).advance))
/-- FENCE.release: a visibility point (R134, R231). -/
def execFenceRelease (sc : Scope) (s : State) : Out :=
  .next (s.point true sc (fun s => (s.adjust s.team.core).advance))
/-- FENCE.full: both (R134). -/
def execFenceFull (sc : Scope) (s : State) : Out :=
  .next (s.point true sc (fun s => (s.viewPoint s.cur.1).advance))

/-- The SPIN's release is done: renew the named line at its home. A page that keeps no copies has none to renew. -/
def State.spinRenew (s : State) (va : Nat) : State :=
  let s1 := s.adjust s.team.core
  let a := s1.attrAt s1.cur.1 va
  if a = .uncached || a = .remote then
    (s1.raiseCt s1.team.core (s1.core.ct + 1)).advance
  else
    let s2 := s1.setGrp { s1.grp with status := .spin s1.net.nextId }
    s2.sendHere (lineOf va) (.renew true)

/-- SPIN (R135): the address is checked, then the agent publishes, then the line is renewed; RENEWAL_REPLY ends it. -/
def execSpin (a : SReg) (x : BitVec 11) (s : State) : Out :=
  let va := s.grp.uniAddr a .b64 x
  match s.grp.status with
  | .spin _ => .next s
  | .fence _ => .next (s.point true .device (fun s => s.spinRenew va))
  | _ =>
    match s.judge .global .load [{ lane := 0, va := va, n := 8 }] with
    | .ok => .next (s.point true .device (fun s => s.spinRenew va))
    | v => .next (s.stop v false)

/-! ### Side sequencers (R136 to R138) -/

/-- The agents a mask names, with the program offset of each in the kernel descriptor. -/
def sidesOf (m : SideMask) (k : Kernel) : List (Nat × Nat) :=
  match m with
  | .fore => [(16, k.fore)]
  | .hind => [(17, k.hind)]
  | .both => [(16, k.fore), (17, k.hind)]

/-- Sequencer `a` of team `t`'s core is idle and no other team on the core holds it (R136, R137). -/
def State.seqFree (s : State) (t a : Nat) : Bool :=
  let c := (s.teamOf t).core
  (s.agent t a).seqSt != 1 && !s.teamKeys.any (fun u =>
    u != t && (s.teamOf u).core == c && (s.teamOf u).status == .placed && (s.agent u a).seqSt != 0)

/-- A sequencer starts: its PC is the start of its instruction store, s0 the value given, every other register 0. -/
def Group.startSide (v : DWord) : Group :=
  { Group.empty with active := 1, s := vset (fillv 64 0) 0 v, status := .run, seqSt := 1 }

/-- Start sequencers `l` of the current team with s0 = `v`; its phase has held one (R136, R329). -/
def State.startSides (s : State) (l : List Nat) (v : DWord) : State :=
  let t := s.cur.1
  let s1 := l.foldl (fun s a =>
    let g := s.agent t a
    s.setAgent t a { Group.startSide v with tickets := g.tickets, outs := g.outs, stores := g.stores }) s
  s1.setTeam { s1.team with used := { s1.team.used with side := true } }

/-- The sequencers that a FORK has still to start: those that it names, or those that it waits for (R136). -/
def State.forkLeft (s : State) (l : List (Nat × Nat)) : List Nat :=
  match s.grp.status with
  | .fork left => left
  | _ => l.map (·.1)

/-- FORK: each sequencer that it names starts once it is idle; the FORK is done when all have started (R136). -/
def execFork (a : SReg) (m : SideMask) (s : State) : Out :=
  let l := sidesOf m s.team.kernel
  if l.any (fun p => p.2 == 0xFFFFFFFF) then .next (s.raise trapIllegal 0)
  else
    let left := s.forkLeft l
    let free := left.filter (s.seqFree s.cur.1)
    let wait := left.filter (fun q => !s.seqFree s.cur.1 q)
    if free.isEmpty then .next s
    else
      let s1 := s.startSides free (s.grp.getS a)
      if wait.isEmpty then .next (s1.setGrp { s1.grp with status := .run }).advance
      else .next (s1.setGrp { s1.grp with status := .fork wait })

/-- REND: once each named sequencer that was started has halted, they are released (R137). -/
def execRend (m : SideMask) (s : State) : Out :=
  let t := s.cur.1
  let l := sidesOf m s.team.kernel
  if l.any (fun p => (s.agent t p.1).seqSt == 1) then .next s
  else .next (l.foldl (fun s p => s.setAgent t p.1 { s.agent t p.1 with seqSt := 0 }) s).advance

/-! ### HALT and NOP (R61, R139) -/

/-- A side sequencer that executes HALT: halted, its registers undefined (R138). -/
def Group.haltSide (g : Group) (n : Nat) : Group :=
  { g with status := .ended, seqSt := 2, s := vecOf 64 (fun i => Config.freeBits (n + i)) }

/-- HALT: the issuing lanes leave the active mask; a group without active lanes has ended: it releases its
lane registers, and stops counting towards the boundary that its siblings wait for (R61, R66, R127). -/
def execHalt (s : State) : Out :=
  if s.isSide then
    .next { (s.setGrp (s.grp.advance.haltSide s.fresh)) with fresh := s.fresh + 64 }
  else
    let g := s.grp
    let m := g.issuers
    let left := mergeBits m (fun _ => false) g.active
    if left = 0 then
      let g1 : Group := { g.advance.releaseAll s.fresh with active := left, status := .ended }
      let s1 : State := { s.setGrp g1 with fresh := s.fresh + releaseDraw }
      .next (s1.tryBoundary s.cur.1 ((s1.liveGroups s.cur.1).headD s.cur.2))
    else .next (s.setGrp { g.advance with active := left })

/-- NOP (R139). -/
def execNop (s : State) : Out := .next s.advance

end Sys2Proof.Machine
end

