-- ==== Sys2Proof/Machine/Formats.lean ====
section
/-!
DEFINITION. The formats of packets and of matrix operands: microscaled blocks (R158 to R161), darned INT4 (R163), and
the conversions of the copy engines, which the requantisation stage of MDRAIN shares (R165 to R174).
-/

namespace Sys2Proof.Machine

open Sys2Proof

/-! ### Reading (R157, R159, R163) -/

/-- An integer as an exact value. -/
def ofInt (v : Int) : FVal := .num (decide (v < 0)) v.natAbs 0
def fvZero : FVal := .num false 0 0
def fvNan : FVal := .nan false

/-- The value times 2^x. -/
def FVal.scale (v : FVal) (x : Int) : FVal :=
  match v with
  | .num n m e => .num n m (e + x)
  | w => w

/-- An integer from a field of `w` bits in two's complement. -/
def intOf (w c : Nat) : Int := if 2 ^ (w - 1) ≤ c % 2 ^ w then (c % 2 ^ w : Nat) - (2 ^ w : Nat) else (c % 2 ^ w : Nat)

/-- The elements of a darned group from its nibbles, slot 0 first, and the number of malformed darns (R163). -/
def darnDecode : List Nat → List FVal × Nat
  | [] => ([], 0)
  | n :: lo :: hi :: u =>
    if n ≠ 8 then
      let r := darnDecode (lo :: hi :: u)
      (ofInt (intOf 4 n) :: r.1, r.2)
    else
      let r := darnDecode u
      (e4m3.decode (16 * hi + lo) :: fvZero :: fvZero :: r.1, r.2)
  | n :: t =>
    let r := darnDecode t
    if n ≠ 8 then (ofInt (intOf 4 n) :: r.1, r.2) else (fvNan :: r.1, r.2 + 1)

/-- The scale of a block applied to an element (R158, R159). -/
def mxValue (scale : Nat) (v : FVal) : FVal := if scale = 255 then fvNan else v.scale ((scale : Int) - 127)

/-- Format codes of R165. -/
def fmtOf (code : Nat) : Fmt :=
  if code = 0 then e4m3 else if code = 1 then e5m2 else if code = 2 then e2m1 else if code = 3 then e2m3
  else if code = 4 then e3m2 else if code = 7 then bf16 else if code = 8 then fp16 else fp32

/-- A microscaled format, whose elements lie in block records. -/
def isMx (code : Nat) : Bool := code == 2 || code == 3 || code == 4 || code == 10
/-- Bits of an element. -/
def elemBits (code : Nat) : Nat :=
  if code = 2 || code = 5 then 4 else if code = 3 || code = 4 then 6
  else if code = 0 || code = 1 || code = 6 || code = 10 then 8 else if code = 7 || code = 8 then 16 else 32
/-- Elements that are encoded together: a block record or a darned group (R161, R163). -/
def blockElems (code : Nat) : Nat := if isMx code then 32 else if code = 5 then 16 else 1
/-- Bytes of such a block. -/
def blockBytes (code : Nat) : Nat :=
  if isMx code then 4 + 4 * elemBits code else if code = 5 then 8 else elemBits code / 8

/-- Field `i` of `w` bits in a little-endian bit stream (R160). -/
def streamField (bs : List Byte) (w i : Nat) : Nat := natLE bs / 2 ^ (w * i) % 2 ^ w

/-- The values of a block, from its bytes (R157, R159, R163). -/
def decodeBlock (code : Nat) (bs : List Byte) : List FVal :=
  if code = 5 then (darnDecode ((List.range 16).map (streamField bs 4))).1
  else if isMx code then
    let scale := (bs.getD 0 0).toNat
    let el := bs.drop 4
    (List.range 32).map (fun i =>
      let f := streamField el (elemBits code) i
      mxValue scale (if code = 10 then (ofInt (intOf 8 f)).scale (-6) else (fmtOf code).decode f))
  else if code = 6 then [ofInt (intOf 8 (natLE bs))]
  else if code = 11 then [ofInt (intOf 32 (natLE bs))]
  else [(fmtOf code).decode (natLE bs)]

/-! ### Writing (R168 to R171) -/

/-- A value encoded into a floating format (R168). -/
def encodeFp (f : Fmt) (rm : Rm) (sat : Bool) (v : FVal) : Nat :=
  match v with
  | .nan _ => f.nanC.getD 0
  | .inf n =>
    if sat then f.pack n f.maxC
    else match f.infC with
      | some c => f.pack n c
      | none => f.pack n (f.nanC.getD f.maxC)
  | .num n m e =>
    let r := f.round rm false n m e
    if r.2.of_ && sat then f.pack n f.maxC else r.1

/-- A value rounded to an integer and clamped to a range; NaN gives 0 (R169). -/
def clampInt (rm : Rm) (lo hi : Int) (v : FVal) : Int :=
  match v with
  | .nan _ => 0
  | .inf n => if n then lo else hi
  | .num n m e =>
    let q := signed n (toIntegral rm n m e).1
    if q < lo then lo else if hi < q then hi else q

/-- Two's complement code of an integer in `w` bits. -/
def intCode (w : Nat) (v : Int) : Nat := (v % (2 ^ w : Nat)).toNat

/-- The nibbles of a darned group from its values (R170). -/
def darnEncode (rm : Rm) (sat : Bool) : List FVal → List Nat
  | [] => []
  | v :: a :: b :: u =>
    if fits v then intCode 4 (clampInt rm (-7) 7 v) :: darnEncode rm sat (a :: b :: u)
    else
      let c := encodeFp e4m3 rm sat v
      8 :: c % 16 :: c / 16 :: darnEncode rm sat u
  | v :: t =>
    (if fits v then intCode 4 (clampInt rm (-7) 7 v)
      else if v.isNan then 0 else if v.isNeg then 9 else 7) :: darnEncode rm sat t
where
  fits (v : FVal) : Bool :=
    match v with
    | .num n m e => decide ((toIntegral rm n m e).1 ≤ 7)
    | _ => false

/-- floor(log2) of the largest magnitude of a block; none when all are zero. -/
def topExp (vs : List FVal) : Option Int :=
  vs.foldl (fun r v => match v with
    | .num _ m e =>
      if m = 0 then r
      else
        let x := (bitlen m : Int) - 1 + e
        some (match r with | some y => Max.max x y | none => x)
    | _ => r) none

/-- Fields of `w` bits packed into bytes (R160). -/
def packFields (w : Nat) (fs : List Nat) : List Byte :=
  bytesLE (w * fs.length / 8) (fs.foldr (fun f a => a * 2 ^ w + f) 0)

/-- A block record from its 32 values (R171). -/
def mxEncode (code : Nat) (rm : Rm) (vs : List FVal) : List Byte :=
  if vs.any (fun v => !v.isNum) then [0xFF, 0, 0, 0] ++ packFields (elemBits code) (vs.map (fun _ => 0))
  else
    let emax : Int := if code = 4 then 4 else if code = 10 then 0 else 2
    let x : Int := match topExp vs with
      | none => 0
      | some t => Max.max (-127) (Min.min 127 (t - emax))
    let el (v : FVal) : Nat :=
      if code = 10 then intCode 8 (clampInt rm (-127) 127 (v.scale (6 - x))) else encodeFp (fmtOf code) rm true (v.scale (-x))
    [BitVec.ofInt 8 (127 + x), 0, 0, 0] ++ packFields (elemBits code) (vs.map el)

/-- The bytes of a block from its values (R168 to R171). -/
def encodeBlock (code : Nat) (rm : Rm) (sat : Bool) (vs : List FVal) : List Byte :=
  if code = 5 then packFields 4 (darnEncode rm sat vs)
  else if isMx code then mxEncode code rm vs
  else
    let v := vs.headD fvZero
    if code = 6 then bytesLE 1 (intCode 8 (clampInt rm (-128) 127 v))
    else if code = 11 then bytesLE 4 (intCode 32 (clampInt rm (-2147483648) 2147483647 v))
    else bytesLE (elemBits code / 8) (encodeFp (fmtOf code) rm sat v)

end Sys2Proof.Machine
end

