-- ==== Sys2Proof/Machine/EngineOps.lean ====
section
/-!
DEFINITION. Engine commands: the copy packet and its refusals (R295 to R298), the walk over its elements (R297, R300),
the addresses an engine reads and writes (R71, R310, R311), barrier arrivals (R131), completion rings (R316) and tickets
(R293).
-/

namespace Sys2Proof.Machine

open Sys2Proof

/-! ### The packet (R295, R296) -/

/-- Quad `i` of a packet. -/
def pq (p : List DWord) (i : Nat) : Nat := (p.getD i 0).toNat

def pktKind (p : List DWord) : Nat := bitsOf (pq p 0) 7 0
def pktSfmt (p : List DWord) : Nat := bitsOf (pq p 0) 11 8
def pktDfmt (p : List DWord) : Nat := bitsOf (pq p 0) 15 12
def pktRnd (p : List DWord) : Nat := bitsOf (pq p 0) 17 16
def pktSat (p : List DWord) : Bool := bitOf (pq p 0) 18
def pktDefer (p : List DWord) : Bool := bitOf (pq p 0) 19
def pktZfill (p : List DWord) : Bool := bitOf (pq p 0) 20
def pktSspace (p : List DWord) : Nat := bitsOf (pq p 0) 23 21
def pktDspace (p : List DWord) : Nat := bitsOf (pq p 0) 26 24
def pktMask (p : List DWord) : Nat := bitsOf (pq p 0) 39 28
def pktBar (p : List DWord) : Nat := bitsOf (pq p 0) 47 40
def pktRing (p : List DWord) : Nat := bitsOf (pq p 0) 63 48

/-- Extent `i`, 0 to 5. -/
def pktExt (p : List DWord) (i : Nat) : Nat :=
  if i < 4 then bitsOf (pq p 3) (16 * i + 15) (16 * i) else bitsOf (pq p 4) (16 * (i - 4) + 15) (16 * (i - 4))

/-- Source stride `i`, 1 to 5. -/
def pktSrc (p : List DWord) (i : Nat) : Int :=
  let q := if i = 1 then pq p 4 / 2 ^ 32 else if i = 2 then pq p 5 else if i = 3 then pq p 5 / 2 ^ 32
    else if i = 4 then pq p 6 else pq p 6 / 2 ^ 32
  intOf 32 (q % 2 ^ 32)

/-- Destination stride `i`, 1 to 5; dimensions 3 to 5 are dense (R297). -/
def pktDst (p : List DWord) (i : Nat) : Int :=
  let d1 := intOf 32 (pq p 7 % 2 ^ 32)
  let d2 := intOf 32 (pq p 7 / 2 ^ 32)
  let d3 := d2 * pktExt p 2
  let d4 := d3 * pktExt p 3
  if i = 1 then d1 else if i = 2 then d2 else if i = 3 then d3 else if i = 4 then d4 else d4 * pktExt p 4

/-- A row: the source and destination offsets of its first element. -/
abbrev Row := Int × Int

/-- The rows of a packet in the order they are visited; `si` and `di` replace i1 on either side (R297, R300). -/
def pktRows (p : List DWord) (si di : Nat → Int) : List Row :=
  (List.range (pktExt p 5)).flatMap (fun (i5 : Nat) => (List.range (pktExt p 4)).flatMap (fun (i4 : Nat) =>
    (List.range (pktExt p 3)).flatMap (fun (i3 : Nat) => (List.range (pktExt p 2)).flatMap (fun (i2 : Nat) =>
      (List.range (pktExt p 1)).map (fun (i1 : Nat) =>
        let hi (st : Nat → Int) : Int := st 2 * (i2 : Int) + st 3 * (i3 : Int) + st 4 * (i4 : Int) + st 5 * (i5 : Int)
        (pktSrc p 1 * si i1 + hi (pktSrc p), pktDst p 1 * di i1 + hi (pktDst p)))))))

/-! ### Where a command stands -/

/-- The kind of a command; a QPKT has no packet but the queue's header (R291, R306). -/
def Cmd.kind (c : Cmd) : Nat := if c.fn = 6 then 0 else pktKind c.pkt

/-- Commands of a bulk queue have no issuing team. -/
def Cmd.queued (c : Cmd) : Bool := c.slot.isSome

/-- The context descriptor's level-1 table of an ASID (R319). -/
def State.asidL1 (s : State) (asid : Nat) : Nat := s.quadAt (s.dev.ctxtab.toNat + 64 * asid + 8)

/-- The completion-ring table base of an ASID (R319). -/
def State.asidCrt (s : State) (asid : Nat) : Nat := s.quadAt (s.dev.ctxtab.toNat + 64 * asid + 0x28)

/-- The engine that runs a command is a core's copy engine, or uses its core's time (R307, R377). -/
def Cmd.coreTime (c : Cmd) : Bool := !c.queued && (decide (c.fn ≤ 4) || c.fn == 8)

/-- A command is carried out on its core: by its copy engine, or, an LREN, on the core's own frames and backing copies (R264, R305). -/
def Cmd.onCore (c : Cmd) : Bool := c.coreTime || (!c.queued && c.fn == 11)

/-- The die on which a command is carried out, 2 for the control die (R4). -/
def Cmd.die (c : Cmd) : Nat := if c.onCore then dieOf c.core else 2

/-- The engine of a command runs: a core's engine halts with its die (R251, R252). -/
def State.engineRuns (s : State) (c : Cmd) : Bool := !c.onCore || s.dieLive (dieOf c.core)

/-- The descriptor of a context cannot be read: its line is poisoned, or its home is gone (R251 to R253, R392; DEDUCED, log entry 90). -/
def State.contextLost (s : State) (asid : Nat) : Bool :=
  let a := s.dev.ctxtab.toNat + 64 * asid
  s.homeGone a || s.poisonedIn a 64

def State.cmdL1 (s : State) (c : Cmd) : Nat := if c.queued then s.asidL1 c.asid else (s.teamOf c.team).ctx.l1pa
def State.cmdCrt (s : State) (c : Cmd) : Nat := if c.queued then s.asidCrt c.asid else (s.teamOf c.team).ctx.crt

def State.cmdAt (s : State) (n : Nat) : Option Cmd := s.net.cmds.find? (fun c => c.id == n)

/-- Replace a command. -/
def State.setCmd (s : State) (c : Cmd) : State :=
  { s with net := { s.net with cmds := s.net.cmds.map (fun d => if d.id == c.id then c else d) } }

/-- Take a command off the list. -/
def State.dropCmd (s : State) (n : Nat) : State :=
  { s with net := { s.net with cmds := s.net.cmds.filter (fun d => d.id != n) } }

/-- A command ends with a status; its shadow is discarded unless it is done or deferred (R293, R311). -/
def Cmd.finish (c : Cmd) (status fva count : Nat) : Cmd :=
  { c with stage := .complete, status := status, fva := fva, count := count
           shadow := if status = 0x00 || status = 0x0B then c.shadow else [] }

/-- The bytes that a command has written to its shadow (R293, R311). -/
def Cmd.written (c : Cmd) : Nat := if c.holds then c.count else 0

/-- The commands of one agent, or of one queue. -/
def Cmd.sameIssuer (c d : Cmd) : Bool :=
  match c.slot, d.slot with
  | some a, some b => a.1 == b.1 && c.asid == d.asid
  | none, none => c.team == d.team && c.agent == d.agent
  | _, _ => false

/-- The holder of handles: the team, or the queue (R303). -/
def Cmd.sameOwner (c d : Cmd) : Bool :=
  match c.slot, d.slot with
  | some a, some b => a.1 == b.1 && c.asid == d.asid
  | none, none => c.team == d.team
  | _, _ => false

/-! ### Addresses (R71, R297, R311) -/

/-- What a check of an engine's access finds. -/
inductive EChk where
  | ok
  | fail (status fva : Nat)
  /-- an absent page, or a read-duplicated one that is to be written (R281, R280) -/
  | page (va : Nat) (rd : Bool)
  deriving DecidableEq, Repr

/-- The check of a global byte; `far` allows a REMOTE page (R299, R301, R302, R366). -/
def State.engGlobal (s : State) (c : Cmd) (va : Nat) (wr far : Bool) : EChk :=
  if c.queued && s.contextLost c.asid then .fail 0x01 va
  else match s.walk (s.cmdL1 c) va with
  | none => .fail (if s.walkLost (s.cmdL1 c) va then 0x01 else 0x02) va
  | some l =>
    let sup := !c.queued && (s.teamOf c.team).sup
    if l.s && !sup || wr && !l.w then .fail 0x03 va
    else if l.attr = .remote then
      if !far then .fail 0x05 va
      else if l.dev / 1024 ≠ s.dev.dom then .fail 0x03 va
      else if !l.rs then if c.closed.contains (l.page va) then .fail 0x02 va else .page (l.page va) false
      else .ok
    else if !l.rs then if c.closed.contains (l.page va) then .fail 0x02 va else .page (l.page va) false
    else if wr && l.rd then .page (l.page va) true
    else
      let pa := lineOf (l.phys va)
      if s.homeGone pa || (!wr && s.poisonedIn (l.phys va) 1) then .fail 0x01 va else .ok

/-- The team and offset of a window address in a command's space: 1 its own window, 2 the cluster window. -/
def State.engWindow (s : State) (c : Cmd) (sp va : Nat) : Option (Nat × Nat) :=
  if sp = 1 then some (c.team, va)
  else (s.member c.team (bitsOf va 25 22)).map (fun u => (u, bitsOf va 21 0))

/-- A byte of a window page that is not in a frame cannot be read where it is kept (R264, R392). -/
def State.awayBad (s : State) (t off : Nat) : Bool :=
  let x := s.teamOf t
  let l1 := x.ctx.l1pa
  s.badVa l1 (x.bkva + off / 2048 / 8) 1
    || (!bitOf (s.readVa l1 (x.bkva + off / 2048 / 8)).toNat (off / 2048 % 8) && s.badVa l1 (x.bkva + 2048 + off) 1)

/-- The check of one byte of an engine's access in its space; one that it cannot read gives status 0x01 (R71, R311, R392). -/
def State.engChk (s : State) (c : Cmd) (sp va : Nat) (wr far : Bool) : EChk :=
  let x := s.teamOf c.team
  if sp = 0 then s.engGlobal c va wr far
  else if sp = 3 then if 65536 ≤ va then .fail 0x02 va else s.engGlobal c (x.param + va) wr far
  else if sp = 2 && (decide (2 ^ 26 ≤ va) || decide (x.w * x.h ≤ bitsOf va 25 22)) then .fail 0x02 va
  else match s.engWindow c sp va with
  | none => .fail 0x04 va
  | some w =>
    if (s.teamOf w.1).window ≤ w.2 then .fail 0x04 va
    else if !wr && (if s.pageIn w.1 (w.2 / 2048) then (s.teamOf w.1).lsBad.contains w.2 else s.awayBad w.1 w.2) then .fail 0x01 va
    else .ok

/-- A byte of a window, from its frame or from where the page is kept (R264, R265). -/
def State.windowByte (s : State) (t off : Nat) : Byte :=
  let x := s.teamOf t
  if s.pageIn t (off / 2048) then x.ls.read off
  else if bitOf (s.readVa x.ctx.l1pa (x.bkva + off / 2048 / 8)).toNat (off / 2048 % 8) then 0
  else s.readVa x.ctx.l1pa (x.bkva + 2048 * (off / 2048 + 1) + off % 2048)

/-- A source byte, read at its home or fetched over the fabric (R302, R310). -/
def State.engByte (s : State) (c : Cmd) (sp va : Nat) : Byte :=
  let x := s.teamOf c.team
  let glob (va : Nat) : Byte :=
    match pairAt c.fetched va with
    | some b => b
    | none => match s.walk (s.cmdL1 c) va with
      | none => 0
      | some l => (s.lineData (lineOf (l.phys va))).getD (va % 128) 0
  if sp = 0 then glob va
  else if sp = 3 then glob (x.param + va)
  else match s.engWindow c sp va with
  | none => 0
  | some w => s.windowByte w.1 w.2

def State.engBytes (s : State) (c : Cmd) (sp va n : Nat) : List Byte := (addrRange va n).map (s.engByte c sp)

/-- Check a list of addresses in order; the first that is not fine decides. -/
def State.engChkAll (s : State) (c : Cmd) (sp : Nat) (wr far : Bool) : List Nat → EChk
  | [] => .ok
  | a :: t => match s.engChk c sp a wr far with
    | .ok => s.engChkAll c sp wr far t
    | r => r

/-! ### Refusal and layout (R166, R298) -/

/-- The quad at offset 0x18 of a queue or ring header says that it is served (R313). -/
def ringServed (q : Nat) : Bool := bitsOf q 63 14 == 0 && bitsOf q 7 5 == 0 && decide (bitsOf q 4 0 ≤ 16) && bitOf q 12

/-- Completion ring `r` is registered (R316). -/
def State.ringOk (s : State) (c : Cmd) (r : Nat) : Bool :=
  let q := s.quadVa (s.cmdL1 c) (s.cmdCrt c + 64 * r + 0x18)
  bitOf q 13 && ringServed q

/-- The address of the header of the completion ring that a command names, if it names one (R316). -/
def State.ringOf (s : State) (c : Cmd) : Option Nat :=
  if pktRing c.pkt = 0 || c.pkt.isEmpty || c.fn = 6 then none else some (s.cmdCrt c + 64 * pktRing c.pkt)

/-- The header of the completion ring that a command names cannot be read (R392; DEDUCED, log entry 90). -/
def State.ringLost (s : State) (c : Cmd) : Bool :=
  (s.ringOf c).any (fun h => (c.queued && s.contextLost c.asid) || s.badVa (s.cmdL1 c) h 64)

/-- The kind that an ENG function asks for (R290). -/
def kindOfFn (fn : Nat) : Nat := if fn ≤ 1 then 1 else if fn ≤ 4 then fn else if fn = 7 then 5 else if fn = 8 then 6 else 7

/-- A base address lies on a REMOTE page (R378). -/
def State.farBase (s : State) (c : Cmd) (va : Nat) : Bool := (s.walk (s.cmdL1 c) va).any (fun l => l.attr == .remote)

/-- Faults of a packet that refuse it with status 0x05, the layout aside (R295, R296, R298). That a kind 06 packet with another sspace than
0, which R302's global source rules out and R298 does not list, is among them is a DESIGN CHOICE (log entry 85). -/
def State.refused (s : State) (c : Cmd) : Bool :=
  let p := c.pkt
  let k := pktKind p
  let x := s.teamOf c.team
  let small := 1 ≤ k && k ≤ 6
  decide (k = 0) || decide (9 ≤ k)
    || (if c.queued then k == 2 || k == 3 || k == 4 || k == 5 || pktBar p != 0 || pktSspace p != 0 || pktDspace p != 0
        else k != kindOfFn c.fn)
    || (!c.queued && (if k = 2 then decide (8 ≤ pktBar p) else pktBar p / 8 % 16 != 0))
    || (k != 2 && pktMask p != 0)
    || (k == 2 && (pktMask p == 0 || decide (2 ^ (x.w * x.h) ≤ pktMask p) || pktDspace p != 1))
    || decide (3 ≤ pktDspace p) || decide (4 ≤ pktSspace p)
    || decide (12 ≤ pktDfmt p) || decide (12 ≤ pktSfmt p)
    || (k == 5 && (pktSspace p == 3 || pktDspace p != 0))
    || (k == 6 && pktSspace p != 0)
    || (small && (List.range 6).any (fun i => pktExt p i == 0))
    || (k == 7 && (pktSfmt p != 0 || pktDfmt p != 0 || pktRnd p != 0 || pktSat p || pktZfill p || pktDefer p
          || pktSspace p != 0 || pktDspace p != 0 || pq p 5 != 0 || pq p 6 != 0 || pq p 7 != 0
          || pq p 1 % 64 != 0 || pq p 4 % 64 != 0 || s.farBase c (pq p 2) || s.farBase c (pq p 3)))
    || (k == 8 && ([2, 3, 4, 5, 6, 7].any (fun i => pq p i != 0) || decide (256 ≤ pq p 1)))
    || (pktRing p != 0 && !s.ringOk c (pktRing p))

/-- The layout of one side: 0 fine, 5 broken, 6 misaligned only (R166, R298). -/
def sideLayout (code base e0 : Nat) (offs : List Int) : Nat :=
  let b := blockElems code
  let al := if isMx code then 4 else if code = 5 then 8 else elemBits code / 8
  if decide (1 < b) && (e0 % b != 0 || offs.any (fun o => o % (b : Int) != 0)) then 5
  else if base % al != 0 then 6 else 0

/-- The layout of a packet: 0, 5 or 6. -/
def pktLayout (p : List DWord) (rows : List Row) : Nat :=
  let a := sideLayout (pktSfmt p) (pq p 1) (pktExt p 0) (rows.map (·.1))
  let b := sideLayout (pktDfmt p) (pq p 2) (pktExt p 0) (rows.map (·.2))
  if a = 5 || b = 5 then 5 else Nat.max a b

/-! ### Elements (R166, R167, R297) -/

/-- The byte address of the block that holds element offset `n`, modulo 2^64. -/
def blockAddr (code base : Nat) (n : Int) : Nat :=
  (((base : Int) + n.fdiv (blockElems code) * (blockBytes code : Int)) % (2 : Int) ^ 64).toNat

/-- The value of source element `n`. -/
def State.engValue (s : State) (c : Cmd) (n : Int) : FVal :=
  let f := pktSfmt c.pkt
  let bs := s.engBytes c (pktSspace c.pkt) (blockAddr f (pq c.pkt 1) n) (blockBytes f)
  (decodeBlock f bs).getD (n.fmod (blockElems f)).toNat fvZero

/-- Source addresses of the destination block whose first element is `n` of the source. -/
def srcAddrs (p : List DWord) (n : Int) : List Nat :=
  let f := pktSfmt p
  let b := blockElems (pktDfmt p)
  let starts := if pktSfmt p = pktDfmt p then [blockAddr f (pq p 1) n]
    else distinct ((List.range b).map (fun (i : Nat) => blockAddr f (pq p 1) (n + i)))
  starts.flatMap (fun a => addrRange a (blockBytes f))

/-- The bytes of a destination block from source element `n` on (R167). -/
def State.engBlock (s : State) (c : Cmd) (n : Int) : List Byte :=
  let p := c.pkt
  let d := pktDfmt p
  if pktZfill p then List.replicate (blockBytes d) 0
  else if pktSfmt p = d then s.engBytes c (pktSspace p) (blockAddr d (pq p 1) n) (blockBytes d)
  else encodeBlock d (Rm.ofNat' (pktRnd p)) (pktSat p)
    ((List.range (blockElems d)).map (fun (i : Nat) => s.engValue c (n + i)))

/-- How far a command has come over its elements. -/
inductive Walk where
  /-- bytes of the destination, (address, byte) in the order written, and their count -/
  | going (bytes : List (Nat × Byte)) (count : Nat)
  | fault (status fva count : Nat)
  | wait (va : Nat) (rd : Bool)
  deriving DecidableEq, Repr

/-- One destination block. `far` says which side may be REMOTE. -/
def State.walkBlock (s : State) (c : Cmd) (land : Bool) (farS farD : Bool) (w : Walk) (so d : Int) : Walk :=
  match w with
  | .going bs k =>
    let p := c.pkt
    let da := blockAddr (pktDfmt p) (pq p 2) d
    let das := addrRange da (blockBytes (pktDfmt p))
    match (if pktZfill p then .ok else s.engChkAll c (pktSspace p) false farS (srcAddrs p so)) with
    | .fail st f => .fault st f k
    | .page va rd => .wait va rd
    | .ok =>
      match (if land then .ok else s.engChkAll c (pktDspace p) true farD das) with
      | .fail st f => .fault st f k
      | .page va rd => .wait va rd
      | .ok => .going (bs ++ bytesAt da (s.engBlock c so)) (k + blockBytes (pktDfmt p))
  | r => r

/-- The walk over every block of every row (R297). `land` marks a multicast, whose destination is checked at its
receivers. -/
def State.walkAll (s : State) (c : Cmd) (land farS farD : Bool) (rows : List Row) : Walk :=
  let b := blockElems (pktDfmt c.pkt)
  rows.foldl (fun w r =>
    (List.range (pktExt c.pkt 0 / b)).foldl (fun w (i : Nat) =>
      s.walkBlock c land farS farD w (r.1 + ((i * b : Nat) : Int)) (r.2 + ((i * b : Nat) : Int))) w) (.going [] 0)

/-- Global lines of shadow bytes. -/
def shadowLines (sh : List (Nat × Nat × Byte)) : List Nat :=
  distinct ((sh.filter (fun x => x.1 == 0)).map (fun x => lineOf x.2.1))

/-- Shadow bytes of a space: space 0 global, t + 1 the window of team t. -/
def State.toShadow (s : State) (c : Cmd) (bs : List (Nat × Byte)) : List (Nat × Nat × Byte) :=
  let sp := pktDspace c.pkt
  bs.map (fun b => if sp = 0 then (0, b.1, b.2) else match s.engWindow c sp b.1 with
    | some w => (w.1 + 1, w.2, b.2)
    | none => (c.team + 1, b.1, b.2))

/-! ### Arrivals of engines (R131, R295, R301) -/

/-- Count an arrival of command `id` at a barrier of team `t`, or hold it at the team; true when it is counted. -/
def State.engArrive (s : State) (t : Nat) (h : Fin 8) (id : Nat) : State × Bool :=
  let x := s.teamOf t
  match (if x.status = .placed then x.arriveFar h else none) with
  | some y => (s.setTeamOf t y, true)
  | none => (s.setTeamOf t { x with hbHeld := x.hbHeld ++ [(h, some id)] }, false)

/-- No arrival of the command is held at a team. -/
def State.arrivalsCounted (s : State) (id : Nat) : Bool :=
  !s.teams.any (fun p => p.2.hbHeld.any (fun q => q.2 == some id))

/-! ### Publication (R307) -/

/-- The grid in whose attempt a command publishes: that of its team (R341). -/
def State.cmdTag (s : State) (c : Cmd) : Option Nat := if c.queued then none else some (s.teamOf c.team).grid

/-- Publish (space, address, byte) triples of a command with one W, which its engine's time or J rises to. The window pages are
published in the same step, where R267 publishes page by page (DESIGN CHOICE, log entry 30). -/
def State.publishShadow (s : State) (c : Cmd) (sh : List (Nat × Nat × Byte)) : State × Nat :=
  let glob := (sh.filter (fun x => x.1 == 0)).map (fun x => (x.2.1, x.2.2))
  let tag := s.cmdTag c
  let r :=
    if glob.isEmpty then (s, 0)
    else if c.coreTime then
      let r := s.publish (s.cmdL1 c) tag glob (Nat.max c.t (s.coreOf c.core).engT) none
      let k := r.1.coreOf c.core
      (r.1.setCoreOf c.core { k with engT := Nat.max k.engT r.2 }, r.2)
    else s.publishJ (s.cmdL1 c) tag glob
  ((shadowPages sh).foldl (fun s p =>
    let bs := (sh.filter (fun x => x.1 == p.1 + 1 && x.2.1 / 2048 == p.2)).map (fun x => (x.2.1, x.2.2))
    if s.framed p.1 p.2 || !s.awayOwn c.team p.1 then s.swapShadow p.1 p.2 bs else s.swapAway p.1 p.2 bs) r.1, r.2)

/-- Two shadows share a byte. -/
def shadowsMeet (a b : List (Nat × Nat × Byte)) : Bool := a.any (fun x => b.any (fun y => x.1 == y.1 && x.2.1 == y.2.1))

/-- What the host holds under global destination bytes on HOSTED pages, and of the tables that map them (R257, R258, R277). -/
def State.shadowGranules (s : State) (c : Cmd) (sh : List (Nat × Nat × Byte)) : List Nat :=
  let l1 := s.cmdL1 c
  distinct ((shadowLines sh).flatMap (s.tableHeld l1) ++ sh.flatMap (fun x =>
    if x.1 != 0 then []
    else match s.walk l1 x.2.1 with
      | some l => if l.attr = .hosted then s.hostGranules (l.phys x.2.1) 1 [1, 2] else []
      | none => []))

/-! ### Completion records and tickets (R293, R316) -/

/-- Fault codes of statuses (R294). -/
def faultOf (st : Nat) : Nat :=
  if st = 1 || st = 7 then 0x09 else if st = 2 then 0x04 else if st = 3 then 0x05 else if st = 4 then 0x08
  else if st = 6 then 0x03 else if st = 0x0A then 0x0D else 0

/-- err of a status. -/
def errOf (st : Nat) : Nat := if st = 0 || st = 0x0B then 0 else 1

/-- The ticket value (R293). -/
def Cmd.ticket (c : Cmd) : Nat :=
  errOf c.status * 2 ^ 63 + c.status * 2 ^ 56 + (if c.status = 0x0B then c.handle else 0) * 2 ^ 48 + c.count % 2 ^ 48

/-- A completion record (R316). -/
def Cmd.record (c : Cmd) (idx lsz : Nat) : List Byte :=
  bytesLE 8 (c.seq % 2 ^ 32 * 2 ^ 32 + faultOf c.status * 2 ^ 16 + c.kind * 2 ^ 8 + errOf c.status * 2 ^ 7 + c.status)
    ++ bytesLE 8 (c.ticket % 2 ^ 56)
    ++ bytesLE 8 c.fva
    ++ bytesLE 8 ((1 - idx / 2 ^ lsz % 2) * 2 ^ 63 + c.w % 2 ^ 32)

/-- Where the record of a command is due: none when it names no ring, or the ring is registered no longer or cannot be read (DEDUCED,
log entry 90). -/
def State.recordDue (s : State) (c : Cmd) : Option Nat :=
  (s.ringOf c).filter (fun _ => s.ringOk c (pktRing c.pkt) && !s.ringLost c)

/-- Granules of a completion ring, and of the slot for a command's record, that the host holds, and of the tables that map them: they are
asked for first (R257, R277, R316). -/
def State.ringHeld (s : State) (c : Cmd) : List Nat :=
  let l1 := s.cmdL1 c
  let ask (a : Nat) : List Nat := s.tableHeld l1 a ++ (match s.walk l1 a with
    | some l => if l.attr = .hosted then s.hostGranules (l.phys a) 32 [1, 2] else []
    | none => [])
  match s.ringOf c with
  | none => []
  | some h =>
    let head := ask h
    if !head.isEmpty || (s.recordDue c).isNone then head
    else ask (s.quadVa l1 (h + 16) + 32 * (s.quadVa l1 h % 2 ^ (s.quadVa l1 (h + 24) % 32)))

/-- Write the record of a command; none while its ring is full (R316). -/
def State.writeCompletion (s : State) (c : Cmd) : Option State :=
  match s.recordDue c with
  | none => some s
  | some h =>
    let l1 := s.cmdL1 c
    let widx := s.quadVa l1 h
    let ridx := s.quadVa l1 (h + 8)
    let base := s.quadVa l1 (h + 16)
    let lsz := s.quadVa l1 (h + 24) % 32
    if 2 ^ lsz ≤ widx - ridx then none
    else
      let s0 := { s with dev := { s.dev with j := Nat.max s.dev.j c.w } }
      let s1 := (s0.publishJ l1 (s.cmdTag c) (bytesAt (base + 32 * (widx % 2 ^ lsz)) (c.record widx lsz))).1
      some (s1.publishJ l1 (s.cmdTag c) (quadBytes h ((widx + 1) % 2 ^ 64))).1

/-- A ticket register of a group receives its value and is pending no longer. -/
def Group.writeTicket (g : Group) (d : SReg) (id : Nat) (v : DWord) : Group :=
  if g.tickets.any (fun p => p.2 == id) then
    { g.setS d v with tickets := g.tickets.filter (fun p => p.2 != id), outs := g.outs.map (fun o => o.keep id (fun h => h.setS d v)) }
  else g

/-- A ticket arrives at its agent: in its register and, while the team is away, as a late reply as well (R309, R312,
R331). A restart point that carries the pending register receives it too. -/
def State.deliverTicket (s : State) (c : Cmd) (d : SReg) : State :=
  let v := BitVec.ofNat 64 c.ticket
  let s1 := s.setAgent c.team c.agent ((s.agent c.team c.agent).writeTicket d c.id v)
  let x := s1.teamOf c.team
  let x1 := { x with restart := x.restart.map (fun l =>
    l.map (fun p => if p.1 == c.agent then (p.1, p.2.writeTicket d c.id v) else p)) }
  if x.status = .placed then
    let s2 := (s1.setTeamOf c.team x1).adjust x.core
    let k := s2.coreOf x.core
    let s3 := s2.setCoreOf x.core { k with copies := clearStable c.team (fun j => c.lines.contains j.line) k.copies }
    (s3.raiseCt x.core c.w).bumpLines c.team c.lines |>.leaveAsked c.team
  else
    ((s1.setTeamOf c.team { x1 with
      ct := Nat.max x1.ct c.w
      kept := x1.kept.filter (fun j => !c.lines.contains j.line)
      late := x1.late ++ [{ lane := 0, reg := d.val, grp := c.agent, kind := 2, value := v }] }).bumpLines c.team c.lines).writeLate c.team

end Sys2Proof.Machine
end

