-- ==== Sys2Proof/Machine/Collective.lean ====
section
/-!
DEFINITION. The collective engine (R378 to R385): the request block, its tree and placement tables, the combination of
shard values in tree order, the outputs of this device, and the log entry. A command keeps in `desc` the eight quads of
its block, then the S tree entries and the S placement entries; `vals` holds under key i what a partner sent for shard
i, under 65536 + i the input of an own shard, and under 131072 the result that the root's device sent.
-/

namespace Sys2Proof.Machine

open Sys2Proof

/-! ### The block (R379, R380) -/

def collQ (c : Cmd) (i : Nat) : Nat := (c.desc.getD i 0).toNat
def collId (c : Cmd) : Nat := bitsOf (collQ c 0) 63 32
def collS (c : Cmd) : Nat := bitsOf (collQ c 0) 31 16
def collPat (c : Cmd) : Nat := bitsOf (collQ c 0) 15 8
def collPout (c : Cmd) : Bool := bitOf (collQ c 0) 5
def collPin (c : Cmd) : Bool := bitOf (collQ c 0) 4
def collOp (c : Cmd) : Nat := bitsOf (collQ c 0) 3 0
def collN (c : Cmd) : Nat := bitsOf (collQ c 1) 31 0
def collTree (c : Cmd) (i : Nat) : Nat := collQ c (8 + i)
def collParent (c : Cmd) (i : Nat) : Nat := bitsOf (collTree c i) 15 0
def collPos (c : Cmd) (i : Nat) : Nat := bitsOf (collTree c i) 31 16
def collDev (c : Cmd) (i : Nat) : Nat := collQ c (8 + collS c + i)

def collShards (c : Cmd) : List Nat := List.range (collS c)
def collRoot (c : Cmd) : Nat := ((collShards c).find? (fun i => collParent c i == 0xFFFF)).getD 0

/-- Insert a shard in ascending pos. -/
def insertPos (c : Cmd) (i : Nat) : List Nat → List Nat
  | [] => [i]
  | j :: t => if collPos c i ≤ collPos c j then i :: j :: t else j :: insertPos c i t

/-- The children of a shard in ascending pos. -/
def collChildren (c : Cmd) (i : Nat) : List Nat :=
  ((collShards c).filter (fun j => collParent c j == i)).foldl (fun l j => insertPos c j l) []

/-- Follow parents for `n` steps; true when the root is reached. -/
def reachesRoot (c : Cmd) : Nat → Nat → Bool
  | 0, i => collParent c i == 0xFFFF
  | n + 1, i => collParent c i == 0xFFFF || reachesRoot c n (collParent c i)

/-- The block's fields are legal, before its tables are read (R379). -/
def collBlockOk (c : Cmd) : Bool :=
  decide (1 ≤ collS c) && decide (collS c ≤ 4096) && decide (collPat c ≤ 2) && bitsOf (collQ c 0) 7 6 == 0
    && decide (collOp c ≤ 3) && (collOp c == 0 || (!collPin c && !collPout c) || collPat c == 2)
    && bitsOf (collQ c 1) 63 32 == 0 && decide (1 ≤ collN c) && decide (collN c ≤ 16777216)
    && [4, 5, 6, 7].all (fun i => collQ c i == 0) && collQ c 2 % 8 == 0 && collQ c 3 % 4 == 0

/-- The tables are legal for a device `me` (R380). -/
def collTablesOk (c : Cmd) (me : Nat) : Bool :=
  let sh := collShards c
  sh.all (fun i => collTree c i / 2 ^ 32 == 0 && decide (collDev c i < 2 ^ 19))
    && ((sh.filter (fun i => collParent c i == 0xFFFF)).length == 1)
    && sh.all (fun i => collParent c i == 0xFFFF || decide (collParent c i < collS c))
    && sh.all (fun i => reachesRoot c (collS c) i)
    && sh.all (fun i => sh.all (fun j => i == j || collParent c i != collParent c j || collPos c i != collPos c j))
    && sh.all (fun i => collParent c i == 0xFFFF || collDev c i / 1024 == collDev c (collParent c i) / 1024)
    && sh.any (fun i => collDev c i == me)

/-! ### Values (R381) -/

/-- A value is 64 bits: s in [31:0] and c in [63:32] for dsum; [31:0] alone otherwise. -/
def sub32 (a b : Nat) : Nat := add32 a (Nat.xor b 0x80000000)
def isFinite32 (a : Nat) : Bool := bitsOf a 30 23 != 255

def pairAdd (s1 c1 s2 c2 : Nat) : Nat × Nat :=
  let t := add32 s1 s2
  if isFinite32 t then
    let c := if s2 % 2 ^ 31 ≤ s1 % 2 ^ 31 then add32 c1 (add32 (sub32 s1 t) s2) else add32 c1 (add32 (sub32 s2 t) s1)
    (t, add32 c c2)
  else (t, 0)

/-- comb of R381 for an operation. -/
def collComb (op : Nat) (a b : DWord) : DWord :=
  let x := a.toNat
  let y := b.toNat
  if op = 0 then
    let r := pairAdd (x % 2 ^ 32) (x / 2 ^ 32) (y % 2 ^ 32) (y / 2 ^ 32)
    BitVec.ofNat 64 (r.1 + r.2 * 2 ^ 32)
  else if op = 1 then BitVec.ofNat 64 ((x + y) % 2 ^ 32)
  else BitVec.ofNat 64 (fp32.minmax (op == 2) (x % 2 ^ 32) (y % 2 ^ 32)).1

def zipComb (op : Nat) (a b : List DWord) : List DWord := (a.zip b).map (fun p => collComb op p.1 p.2)

/-- The values of shard `i`, as far as they are known; `n` bounds the depth. -/
def collValue (c : Cmd) (me : Nat) : Nat → Nat → Option (List DWord)
  | 0, _ => none
  | n + 1, i =>
    if collDev c i = me then
      (collChildren c i).foldl (fun r j => match r, collValue c me n j with
        | some a, some b => some (zipComb (collOp c) a b)
        | _, _ => none) (Tab.find? c.vals (65536 + i))
    else Tab.find? c.vals i

/-- The result, as far as it is known on this device (R381, R382). -/
def collResult (c : Cmd) (me : Nat) : Option (List DWord) :=
  let r := collRoot c
  if collDev c r = me then
    if collPat c = 2 then Tab.find? c.vals (65536 + r) else collValue c me (collS c + 1) r
  else Tab.find? c.vals 131072

/-- Bytes of an element. -/
def collIn (c : Cmd) : Nat := if collPin c then 8 else 4
def collOut (c : Cmd) : Nat := if collPat c = 2 then collIn c else if collPout c then 8 else 4

/-- The bytes of one output element. -/
def collElem (c : Cmd) (v : DWord) : List Byte :=
  if collPat c = 2 then bytesLE (collIn c) v.toNat
  else if collOp c = 0 && !collPout c then bytesLE 4 (add32 (v.toNat % 2 ^ 32) (v.toNat / 2 ^ 32))
  else bytesLE (collOut c) v.toNat

/-- The ordinals of this device's shards that have an output (R381, R382). -/
def collOutputs (c : Cmd) (me : Nat) : List (Nat × Nat) :=
  let own := (collShards c).filter (fun i => collDev c i == me)
  ((List.range own.length).zip own).filter (fun p => collPat c != 0 || p.2 == collRoot c)

/-- The outputs of this device for a result. -/
def collBytes (c : Cmd) (me : Nat) (r : List DWord) : List (Nat × Byte) :=
  (collOutputs c me).flatMap (fun p =>
    bytesAt (pq c.pkt 2 + p.1 * collN c * collOut c) (r.flatMap (collElem c)))

/-- This device's part needs a result: it has an output. -/
def collWants (c : Cmd) (me : Nat) : Bool := !(collOutputs c me).isEmpty

/-- Own shards whose parents lie on other devices. -/
def collUps (c : Cmd) (me : Nat) : List Nat :=
  (collShards c).filter (fun i => collDev c i == me && collParent c i != 0xFFFF && collDev c (collParent c i) != me)

/-- What this device can send to its partners now: the values of its topmost shards, and the result from the root's
device to the others. -/
def collSends (c : Cmd) (me : Nat) : List (Nat × List DWord) :=
  let ups := if collPat c = 2 then [] else (collUps c me).filterMap (fun i => (collValue c me (collS c + 1) i).map (fun v => (i, v)))
  let down := if collPat c != 0 && collDev c (collRoot c) == me then
    match collResult c me with
    | some r => [(collRoot c, r)]
    | none => []
  else []
  ups ++ down

/-- This device's part can be published: its outputs are known and what it owes its partners can be sent. -/
def collReady (c : Cmd) (me : Nat) : Bool :=
  (!collWants c me || (collResult c me).isSome)
    && (collPat c == 2 || (collUps c me).all (fun i => (collValue c me (collS c + 1) i).isSome))

/-- The digest of a collective (R383). -/
def collDigest (c : Cmd) : List Byte :=
  sm3 (bytesLE 8 (collQ c 0 % 2 ^ 32) ++ (collShards c).flatMap (fun i => bytesLE 8 (collTree c i)))

/-- The log entry (R383). -/
def collLog (c : Cmd) (me : Nat) : List Byte :=
  bytesLE 8 (collId c * 2 ^ 32 + collS c * 2 ^ 16 + collPat c * 2 ^ 8 + collQ c 0 % 256)
    ++ bytesLE 8 (errOf c.status * 2 ^ 63 + c.status * 2 ^ 56 + me)
    ++ bytesLE 8 (c.w % 2 ^ 32) ++ bytesLE 8 0 ++ collDigest c

/-- The collective waits for a value that device `dev` has not sent: of a shard below one of this device's, or the result of
the root (R375, R384). -/
def collAwaits (c : Cmd) (me dev : Nat) : Bool :=
  (collPat c != 2 && (collShards c).any (fun i => collDev c i == dev && dev != me && collParent c i != 0xFFFF
      && collDev c (collParent c i) == me && (Tab.find? c.vals i).isNone))
    || (collPat c != 0 && collDev c (collRoot c) == dev && dev != me && (Tab.find? c.vals 131072).isNone)

/-- Device `dev` is to take a value that this device sends: of one of its shards below one of `dev`'s, or the root's result. -/
def collOwes (c : Cmd) (me dev : Nat) : Bool :=
  (collPat c != 2 && (collUps c me).any (fun i => collDev c (collParent c i) == dev))
    || (collPat c != 0 && collDev c (collRoot c) == me && dev != me && (collShards c).any (fun i => collDev c i == dev))

/-- Its partners have taken what this device has sent; the result, which the root sends, shows that they have (R383, R384; DEDUCED, log
entry 92). -/
def collTaken (c : Cmd) : Bool := decide (c.sent.length ≤ c.taken) || (Tab.find? c.vals 131072).isSome

/-! ### The command -/

/-- This device's number (R370, R390). -/
def State.devNum (s : State) : Nat := s.dev.dom * 1024 + s.dev.mem

/-- Read a list of addresses in the issuer's global space after checking them: the bytes, or how the command stops. -/
def State.collRead (s : State) (c : Cmd) (a n : Nat) : Except EChk (List Byte) :=
  match s.engChkAll c 0 false false (addrRange a n) with
  | .ok => .ok (s.engBytes c 0 a n)
  | r => .error r

/-- A station of the fabric is up (R369). -/
def State.stationsUp (s : State) : Bool := (List.range 8).any (fun i => vget false s.dev.stations i)

/-- The device has power and its firmware, and is in D0 (R393, R398). -/
def State.awake (s : State) : Bool := s.dev.rdy && s.dev.power && !s.dev.d3

/-- The device takes and sends traffic of the fabric: it is up, in D0, and a station is up (R369, R390, R393, R398). -/
def State.fabricUp (s : State) : Bool := s.awake && s.stationsUp

/-- A collective is complete; its log entry is due once its tables have been read, and its ticket waits for it (R382, R383). -/
def Cmd.logDue (c : Cmd) : Cmd := { c with stage := .complete, first := if 8 < c.desc.length then 1 else 0, await := [] }

/-- A collective ends with an error: its shadows go, and its log entry will say so (R383, R384). -/
def State.collEnd (s : State) (c : Cmd) (status fva : Nat) : State := s.setCmd (c.finish status fva c.written).logDue

/-- Partners learn that a collective has ended here with an error, while the fabric takes traffic (R383, R384, R393). -/
def State.tellPartners (s : State) (c : Cmd) (status : Nat) : State :=
  if s.fabricUp then { s with dev := { s.dev with out := s.dev.out ++ [.collectiveEnd (collId c) status] } } else s

/-- A collective that its partners know of ends with an error (R384). -/
def State.collFail (s : State) (c : Cmd) (status fva : Nat) : State := (s.collEnd c status fva).tellPartners c status

/-- The 64 bytes of a collective's log entry (R383). -/
def State.logBytes (s : State) (c : Cmd) : List (Nat × Byte) := bytesAt (pq c.pkt 4) (collLog c s.devNum)

/-- Quads, or words, of `k` bytes each. -/
def unitsLE (k : Nat) (bs : List Byte) : List DWord :=
  (List.range (bs.length / k)).map (fun i => BitVec.ofNat 64 (natLE ((bs.drop (k * i)).take k)))

/-- The addresses that a collective reads, as far as its block and tables stand in memory now: block, tables and inputs. -/
def State.collVas (s : State) (c : Cmd) : List Nat :=
  let get (a n : Nat) : List Byte := s.engBytes c 0 a n
  let blk := addrRange (pq c.pkt 1) 64
  let c1 := { c with desc := unitsLE 8 (get (pq c.pkt 1) 64) }
  if !collBlockOk c1 then blk
  else
    let tree := addrRange (collQ c1 2) (8 * collS c1)
    let place := addrRange (collQ c1 3) (4 * collS c1)
    let c2 := { c1 with desc := c1.desc ++ unitsLE 8 (get (collQ c1 2) (8 * collS c1)) ++ unitsLE 4 (get (collQ c1 3) (4 * collS c1)) }
    let own := (collShards c2).filter (fun i => collDev c2 i == s.devNum)
    blk ++ tree ++ place ++ addrRange (pq c.pkt 3) (own.length * collN c2 * collIn c2)

/-- What stops a command before it has an effect. -/
def State.stopCmd (s : State) (c : Cmd) (e : EChk) : State :=
  match e with
  | .ok => s
  | .fail st f => s.setCmd (c.finish st f 0)
  | .page va rd =>
    if rd then
      if s.net.collapse.contains (c.asid, va) then s
      else { s with net := { s.net with collapse := s.net.collapse ++ [(c.asid, va)] } }
    else
      let s1 := if c.asked.contains va then s else s.setCmd { c with asked := va :: c.asked }
      if s1.net.pageRq.contains (c.asid, va) then s1
      else { s1 with net := { s1.net with pageRq := s1.net.pageRq ++ [(c.asid, va)] } }

/-- What a collective owes its partners and has not sent (R381). -/
def State.collUnsent (s : State) (c : Cmd) : List (Nat × List DWord) :=
  (collSends c s.devNum).filter (fun p => !c.sent.contains p.1)

/-- Send what a collective owes its partners, each value with the digest, while the fabric takes traffic (R369, R381, R383, R393). -/
def State.collSend (s : State) (c : Cmd) : State × Cmd :=
  if s.fabricUp then
    ({ s with dev := { s.dev with out := s.dev.out ++ (s.collUnsent c).map (fun p => Output.collective (collId c) p.1 p.2 (collDigest c)) } },
      { c with sent := c.sent ++ (s.collUnsent c).map (·.1) })
  else (s, c)

/-- Go on with a collective whose inputs have been read: send what can be sent, and once its part is known and its partners have taken
what it sent, write the shadow; the await list holds 1 while partners, or a station, are awaited, 2 while an output page is (R369, R381,
R383, R384). -/
def State.collAdvance (s : State) (c0 : Cmd) : State :=
  let me := s.devNum
  let s1 := (s.collSend c0).1
  let c := (s.collSend c0).2
  if collReady c me && (s1.collUnsent c).isEmpty && collTaken c then
    let bs := if collWants c me then collBytes c me ((collResult c me).getD []) else []
    match s1.engChkAll c 0 true false (bs.map (·.1)) with
    | .ok => s1.setCmd { c with stage := .shadow, await := [], shadow := bs.map (fun b => (0, b.1, b.2)), count := bs.length }
    | .fail st f => s1.collFail c st f
    | .page va rd => (s1.setCmd { c with stage := .shadow, await := [2] }).stopCmd { c with stage := .shadow, await := [2] } (.page va rd)
  else s1.setCmd { c with stage := .shadow, await := [1] }

/-- Inputs of this device's shards (R381). -/
def State.collInputs (s : State) (c : Cmd) (me : Nat) : Except EChk (Tab (List DWord)) :=
  let own := (collShards c).filter (fun i => collDev c i == me)
  ((List.range own.length).zip own).foldl (fun r p =>
    match r with
    | .error e => .error e
    | .ok t =>
      let k := collIn c
      match s.collRead c (pq c.pkt 3 + p.1 * collN c * k) (collN c * k) with
      | .error e => .error e
      | .ok bs => .ok (Tab.set t (65536 + p.2) ((List.range (collN c)).map (fun i =>
          BitVec.ofNat 64 (natLE ((bs.drop (k * i)).take k)))))) (.ok [])

/-- Collectives that are active here with the id of collective `c`: those that have started, and those that wait for a page and whose ids
have been read (R384). -/
def State.collSame (s : State) (c : Cmd) : List Cmd :=
  s.net.cmds.filter (fun d => d.id != c.id && d.kind == 7 && (d.stage == .shadow || (d.stage == .queued && !d.desc.isEmpty)) && collId d == collId c)

/-- Of the collectives with one id that are active here those that were issued later than `c` end (R384). -/
def State.endLater (s : State) (c : Cmd) : State :=
  (s.collSame c).foldl (fun s d => if d.stage = .shadow then s.collFail d 0x05 0 else s.collEnd d 0x05 0) s

/-- Start a collective: its block, its tables and its inputs are read, and its log entry's page is writable (R379 to R381, R383, R384). Of
two with one id the later one ends, in the order of issue. -/
def State.collStart (s : State) (c : Cmd) : State :=
  let me := s.devNum
  match s.collRead c (pq c.pkt 1) 64 with
  | .error e => s.stopCmd c e
  | .ok blk =>
    let c1 := { c with desc := unitsLE 8 blk }
    if !collBlockOk c1 then s.setCmd (c1.finish 0x05 0 0)
    else match s.collRead c (collQ c1 2) (8 * collS c1), s.collRead c (collQ c1 3) (4 * collS c1) with
    | .error e, _ => s.stopCmd c1 e
    | _, .error e => s.stopCmd c1 e
    | .ok tree, .ok place =>
      let c2 := { c1 with desc := c1.desc ++ unitsLE 8 tree ++ unitsLE 4 place }
      if !collTablesOk c2 me then s.setCmd (c2.finish 0x05 0 0)
      else if (s.collSame c2).any (fun d => d.id < c.id) then s.collEnd c2 0x05 0
      else
      let s := s.endLater c2
      match s.engChkAll c2 0 true false (addrRange (pq c.pkt 4) 64) with
      | .fail st f => s.setCmd (c2.finish st f 0)
      | .page va rd => s.stopCmd c2 (.page va rd)
      | .ok => match s.collInputs c2 me with
      | .error (.fail st f) => s.collFail c2 st f
      | .error e => s.stopCmd c2 e
      | .ok t => s.collAdvance { c2 with vals := t }

/-- COLLECTIVE_MESSAGE: a partner's values of a shard, or the root's result; a different digest, or a shard that is not expected from
elsewhere, ends the collective with 0x05, and its partners learn so (R381, R383). That values of another length do the same is the
model's choice (DESIGN CHOICE, log entry 28). -/
def execCollectiveMessage (n shard : Nat) (vals : List (BitVec 64)) (digestOk : Bool) (s : State) : Out :=
  match s.cmdAt n with
  | none => .next s
  | some c =>
    let me := s.devNum
    if c.kind ≠ 7 || c.stage ≠ .shadow || !s.fabricUp then .next s
    else
      let up := collPat c != 2 && decide (shard < collS c) && collDev c shard != me
        && collParent c shard != 0xFFFF && collDev c (collParent c shard) == me
      let down := collPat c != 0 && shard == collRoot c && collDev c shard != me
      if !digestOk || !(up || down) || vals.length ≠ collN c then .next (s.collFail c 0x05 0)
      else if c.await.isEmpty then .next s
      else .next (s.collAdvance { c with vals := Tab.set c.vals (if down then 131072 else shard) vals })

/-- COLLECTIVE_PARTNER_TIMEOUT: a partner that this device waits for did not answer within 1 ms, or ended with a status of its own;
one that found a wrong digest or shard ends its sender too, whether or not it still waits (R383, R384). With status 0 the event is the
answer of a partner that has taken a value, for which its sender waits (DEDUCED, log entry 92). In D3hot the wait goes on (R393). -/
def execCollectivePartnerTimeout (n : Nat) (status : Option Nat) (s : State) : Out :=
  match s.cmdAt n with
  | none => .next s
  | some c =>
    if c.kind ≠ 7 || c.stage ≠ .shadow || !s.awake then .next s
    else if status = some 0 then
      if !s.fabricUp || c.await ≠ [1] || c.sent.length ≤ c.taken then .next s else .next (s.collAdvance { c with taken := c.taken + 1 })
    else if c.await ≠ [1] && status ≠ some 0x05 then .next s
    else .next (s.collFail c (match status with
      | some st => if 1 ≤ st && st ≤ 0x0A then st else 0x07
      | none => 0x07) 0)

end Sys2Proof.Machine
end

