-- ==== Sys2Proof/Machine/EngineHold.lean ====
section
/-!
DEFINITION. What a command of an engine reads and reaches: the rows that it walks (R297, R300), the lines of its sources, what the
host holds of them (R257, R277), and the ways to their homes (R250).
-/

namespace Sys2Proof.Machine

open Sys2Proof

/-- The rows of a command; one side of a GATH or SCAT takes its offsets from the index list (R297, R300). -/
def State.cmdRows (s : State) (c : Cmd) : List Row :=
  let k := c.kind
  let idx (i : Nat) : Int := (natLE (s.engBytes c 0 (c.b + 4 * i) 4) : Int)
  pktRows c.pkt (if k = 3 then idx else fun i => (i : Int)) (if k = 4 then idx else fun i => (i : Int))

/-- The source elements at which the destination blocks of a command begin, in the order of its walk. -/
def State.cmdBlocks (s : State) (c : Cmd) : List Int :=
  let b := blockElems (pktDfmt c.pkt)
  (s.cmdRows c).flatMap (fun r => (List.range (pktExt c.pkt 0 / b)).map (fun (i : Nat) => r.1 + ((i * b : Nat) : Int)))

/-- A command copies elements: kinds 1 to 6. -/
def Cmd.copies (c : Cmd) : Bool := decide (1 ≤ c.kind) && decide (c.kind ≤ 6)

/-- The source addresses of the first `n` bytes that a command writes, in its source space. -/
def State.sourceAddrs (s : State) (c : Cmd) (n : Nat) : List Nat :=
  if !c.copies || pktZfill c.pkt then []
  else ((s.cmdBlocks c).take (n / blockBytes (pktDfmt c.pkt))).flatMap (srcAddrs c.pkt)

/-- The bytes that a command writes when nothing stops it. -/
def State.cmdLength (s : State) (c : Cmd) : Nat := (s.cmdBlocks c).length * blockBytes (pktDfmt c.pkt)

/-- The backing copies and the zero map that an LREN exchanges (R264, R305). -/
def State.backVas (s : State) (c : Cmd) : List Nat :=
  let x := s.teamOf c.team
  let n := bitsOf c.a 47 32
  addrRange x.bkva 256 ++ [bitsOf c.a 21 0, bitsOf c.b 21 0].flatMap (fun o => addrRange (x.bkva + 2048 + o) (2048 * n))

/-- The global lines that a command reads: the header of the completion ring that it names, its index list and its source, the header of
its queue, what an LREN exchanges, or the block, the tables and the inputs of a collective. -/
def State.sourceVas (s : State) (c : Cmd) : List Nat :=
  let sp := pktSspace c.pkt
  let base := if sp = 3 then (s.teamOf c.team).param else 0
  let list := if c.kind = 3 || c.kind = 4 then addrRange c.b (4 * pktExt c.pkt 1) else if c.fn = 6 then [c.a]
    else if c.fn = 11 then s.backVas c
    else if c.kind = 7 then s.collVas c else []
  let src := if sp = 0 || sp = 3 then (s.sourceAddrs c (s.cmdLength c)).map (base + ·) else []
  distinct (((s.ringOf c).toList ++ list ++ src).map lineOf)

/-- The global lines that a command is about to reach: those that it reads until it has started, then those that it publishes. -/
def State.cmdVas (s : State) (c : Cmd) : List Nat :=
  if c.stage = .queued || c.stage = .waiting then s.sourceVas c else if c.stage = .shadow then shadowLines c.shadow else []

/-- The ways of a command's engine to the homes of global lines and, as it publishes, of their invalidations to the dies that hold
copies (R250, R255). -/
def State.cmdTrips (s : State) (c : Cmd) (vas : List Nat) : List (Nat × Nat) :=
  (vas.flatMap (fun va => match s.walk (s.cmdL1 c) va with
    | some l =>
      let pa := l.phys va
      if l.attr = .remote || s.homeGone pa then []
      else (c.die, homeOf pa) :: (if c.stage = .shadow && l.attr = .hosted then
        ((s.holderDies (lineOf pa) va none).filter s.dieLive).map (fun d => (homeOf pa, d)) else [])
    | none => [])).eraseDups

/-- The engine reaches the homes of global lines, and their holders, over links that are up (R250). -/
def State.cmdReaches (s : State) (c : Cmd) (vas : List Nat) : Bool := (s.cmdTrips c vas).all (fun j => s.pathOk j.1 j.2)

/-- What the host holds of the HOSTED lines that a command reads, and of the tables that map them: asked for first (R257, R277). -/
def State.sourceHeld (s : State) (c : Cmd) : List Nat :=
  let l1 := s.cmdL1 c
  distinct ((s.sourceVas c).flatMap (fun va => s.tableHeld l1 va ++ (match s.walk l1 va with
    | some l => if l.attr = .hosted then s.hostGranules (l.phys va) 128 [2] else []
    | none => [])))

/-- The window pages that a command has read for its first `n` bytes have been accessed (R263). -/
def State.touchSource (s : State) (c : Cmd) (n : Nat) : State :=
  if pktSspace c.pkt = 1 || pktSspace c.pkt = 2 then
    s.readWindows ((s.sourceAddrs c n).filterMap (fun a => (s.engWindow c (pktSspace c.pkt) a).map (fun w => (w.1, w.2, 1))))
  else s

end Sys2Proof.Machine
end

