-- ==== Sys2Proof/Machine/EngineEvents.lean ====
section
/-!
DEFINITION. The events of the engines: a command's start (R291, R297, R308), its publication (R307), multicast landings
(R299), signals (R301, R376), faults (R311), completion (R309, R316), and the serving of packet rings (R315).
-/

namespace Sys2Proof.Machine

open Sys2Proof

/-! ### Starting (R291, R303, R308) -/

/-- The earlier commands of the same issuer have started (R308). -/
def State.inTurn (s : State) (c : Cmd) : Bool :=
  !s.net.cmds.any (fun d => decide (d.id < c.id) && d.sameIssuer c && d.stage == .queued)

/-- A command whose destination may lie on a REMOTE page: a PUTS or a queue's copy (R301, R366). -/
def Cmd.mayLandFar (c : Cmd) : Bool := c.kind == 5 || (c.queued && c.kind == 1)

/-- A handle that the owner of a command does not use (R303). -/
def State.freeHandle (s : State) (c : Cmd) : Option Nat :=
  ((List.range 256).drop 1).find? (fun h =>
    !s.net.cmds.any (fun d => d.sameOwner c && d.handle == h && (d.stage == .deferred || d.status == 0x0B)))

/-- A request of an engine on the fabric. -/
def State.sendFabric (s : State) (c : Cmd) (dev cls xaddr va : Nat) (k : RemoteKind) : State :=
  s.sendFar c.team c.agent dev cls xaddr va k

/-- Lines of a GETR's source that lie on REMOTE pages and have not been fetched (R302). -/
def State.unfetched (s : State) (c : Cmd) : List Nat :=
  (distinct ((s.sourceAddrs c (s.cmdLength c)).map lineOf)).filter (fun l => match s.walk (s.cmdL1 c) l with
    | some f => f.attr == .remote && (pairAt c.fetched l).isNone && decide (f.dev / 1024 = s.dev.dom)
    | none => false)

/-- Ask for the source lines of a GETR over the fabric, in class 2 (R302, R372). -/
def State.fetchLines (s : State) (c : Cmd) (ls : List Nat) : State :=
  let n := s.net.nextId
  let s1 := ls.foldl (fun s l => match s.walk (s.cmdL1 c) l with
    | some f => s.sendFabric c f.dev 2 (f.phys l) l (.fetch c.id 128)
    | none => s) s
  s1.setCmd { c with await := (List.range (s1.net.nextId - n)).map (n + ·) }

/-- The positions a multicast names. -/
def castPositions (p : List DWord) : List Nat := (List.range 12).filter (fun i => bitOf (pktMask p) i)

/-- Where a byte of a multicast lands in a receiver's window: at its landing base plus the byte's own address, modulo 2^64 (R297, R299). -/
def landAt (lbase a : Nat) : Nat := (lbase + a) % 2 ^ 64

/-- The shadow of a multicast at its receivers, whose landing bases are taken now (R299, R304); none where a landing
passes a window or a position has no team. -/
def State.castShadow (s : State) (c : Cmd) (bs : List (Nat × Byte)) : Option (List (Nat × Nat × Byte)) :=
  (castPositions c.pkt).foldl (fun r p => match r, s.member c.team p with
    | some l, some u =>
      let x := s.teamOf u
      if bs.all (fun b => decide (landAt x.lbase b.1 < x.window)) then
        some (l ++ bs.map (fun b => (u + 1, landAt x.lbase b.1, b.2)))
      else none
    | _, _ => none) (some [])

/-- The bytes of one receiver's copy that a multicast writes before one passes a window (R293, R299). -/
def State.castCount (s : State) (c : Cmd) (bs : List (Nat × Byte)) : Nat :=
  (bs.takeWhile (fun b => (castPositions c.pkt).all (fun p => match s.member c.team p with
    | some u => decide (landAt (s.teamOf u).lbase b.1 < (s.teamOf u).window)
    | none => false))).length

/-- The signal descriptor of a PUTS: 0, or the status it refuses the command with (R301, R370). -/
def State.descStatus (s : State) (c : Cmd) : Nat :=
  let d := pq c.desc 0
  let k := d % 4
  if bitsOf d 63 51 ≠ 0 || bitsOf d 31 11 ≠ 0 || bitsOf d 7 2 ≠ 0 || k = 0 || k = 3 || (k = 1 && bitsOf d 50 32 ≠ 0)
  then 0x05
  else if k = 1 && pq c.desc 1 % 8 ≠ 0 then 0x06
  else if k = 2 && decide (bitsOf d 50 32 / 1024 ≠ s.dev.dom) then 0x05 else 0

/-- The command's shadow is complete, each window page of it in a frame of its own: it waits for its publication, or for PUBL
(R267, R268, R303). -/
def State.shadowDone (s : State) (c : Cmd) (sh : List (Nat × Nat × Byte)) (count : Nat) : State :=
  let pages := shadowPages sh
  let clash := s.net.cmds.any (fun d => d.id != c.id && (shadowPages d.shadow).any pages.contains
    && (d.stage != .waiting || (decide (d.id < c.id) && d.sameIssuer c)))
  if clash then s.setCmd { c with stage := .waiting, shadow := sh }
  else
    let c1 := { c with shadow := sh, lines := shadowLines sh, count := count
                       await := if c.kind = 2 then castPositions c.pkt else [] }
    match s.bindShadows c.team pages with
    | none => s.setCmd { c with stage := .waiting, shadow := sh }
    | some s1 =>
      if pktDefer c.pkt then
        match s.freeHandle c with
        | none => s
        | some h => s1.setCmd ({ c1 with handle := h }.finish 0x0B 0 count)
      else s1.setCmd { c1 with stage := .shadow }

/-- Start a command of kinds 1 to 6 (R297 to R302, R366); what a GETR lacks of its source is fetched once nothing else stops it. The index
list of a GATH or SCAT is judged before the layout of its rows, which it is needed for, and so is the signal descriptor of a PUTS; a
misaligned layout, which no one address breaks, is reported with faulting address 0: the spec orders the checks and names the address no
further (DESIGN CHOICE, log entry 85). -/
def State.startCopy (s : State) (c : Cmd) : State :=
  let p := c.pkt
  let k := pktKind p
  if s.refused c then s.setCmd (c.finish 0x05 0 0)
  else if k = 5 && s.descStatus c ≠ 0 then
    s.setCmd (c.finish (s.descStatus c) (if s.descStatus c = 0x06 then pq c.desc 1 else 0) 0)
  else if (k = 3 || k = 4) && c.b % 4 ≠ 0 then s.setCmd (c.finish 0x06 c.b 0)
  else
    let gs := k = 3 || k = 4
    match (if gs then s.engChkAll c 0 false false (addrRange c.b (4 * pktExt p 1)) else .ok) with
    | .fail st f => s.setCmd (c.finish st f 0)
    | .page va rd => s.stopCmd c (.page va rd)
    | .ok =>
      let rows := s.cmdRows c
      let lay := pktLayout p rows
      if lay ≠ 0 then s.setCmd (c.finish lay 0 0)
      else
        match s.walkAll c (k = 2) (k = 6) c.mayLandFar rows with
        | .fault st f n => (s.touchSource c n).setCmd (c.finish st f n)
        | .wait va rd => s.stopCmd c (.page va rd)
        | .going bs n =>
          let far := if k = 6 then s.unfetched c else []
          let s1 := s.touchSource c n
          if !far.isEmpty then s.fetchLines c far
          else if k = 2 then
            match s1.castShadow c bs with
            | none => s1.setCmd (c.finish 0x04 (pq p 2) (s1.castCount c bs))
            | some sh => s1.shadowDone c sh n
          else s1.shadowDone c (s1.toShadow c bs) n

/-- PUBL, or a kind 08 packet: the deferred command of the handle goes on to its publication (R303). -/
def State.startPubl (s : State) (c : Cmd) : State :=
  let h := if c.queued then pq c.pkt 1 % 256 else bitsOf c.a 55 48
  if c.queued && s.refused c then s.setCmd (c.finish 0x05 0 0)
  else match s.net.cmds.find? (fun d => d.sameOwner c && d.stage == .deferred && d.handle == h && h != 0) with
  | none => s.setCmd (c.finish 0x05 0 0)
  | some d => (s.setCmd { d with stage := .shadow, status := 0, ref := d.id }).setCmd { c with stage := .published, ref := d.id }

/-- What a queue claim finds before it is performed: 0, or the status that ends it; as a home atomic it needs the right to write the
header's page (R278, R306). -/
def State.claimStatus (s : State) (c : Cmd) : Nat :=
  let n := c.b % 2 ^ 16
  let q := s.quadVa (s.cmdL1 c) (c.a + 0x18)
  if n = 0 || 2 ^ 17 ≤ c.b then 0x05
  else if ((s.walk (s.cmdL1 c) c.a).map (·.attr)) ≠ some Attr.hosted then 0x03
  else if (match s.engChkAll c 0 true false (addrRange c.a 8) with
    | .fail st _ => st == 0x03
    | _ => false) then 0x03
  else if bitsOf q 63 14 ≠ 0 || bitsOf q 7 5 ≠ 0 || 16 < q % 32 || 2 ^ (q % 32) < n then 0x05 else 0

/-- Perform a claim at the header's home (R306). -/
def State.performClaim (s : State) (c : Cmd) : State :=
  let l1 := s.cmdL1 c
  let n := c.b % 2 ^ 16
  let widx := s.quadVa l1 c.a
  let ridx := s.quadVa l1 (c.a + 8)
  let size := 2 ^ (s.quadVa l1 (c.a + 0x18) % 32)
  if widx + n - ridx ≤ size then
    let r := s.publishJ l1 none (quadBytes c.a ((widx + n) % 2 ^ 64))
    r.1.setCmd { c.finish 0 0 widx with w := r.2 }
  else
    let r := s.publishJ l1 none (quadBytes c.a widx)
    r.1.setCmd { c.finish 0x09 0 0 with w := r.2 }

/-- Granules under a command's header that the host holds; they are asked for (R257). -/
def State.headerHeld (s : State) (l1 va : Nat) : List Nat :=
  match s.walk l1 va with
  | some l => if l.attr = .hosted then s.hostGranules (l.phys va) 64 [1, 2] else []
  | none => []

/-- Start a QPKT: checks, then an immediate claim is performed and a deterministic one waits for its boundary. -/
def State.startClaim (s : State) (c : Cmd) : State :=
  let st := s.claimStatus c
  if st ≠ 0 then
    let x := s.teamOf c.team
    let g := s.gridOf x.grid
    (s.setGridOf x.grid { g with claims := g.claims.filter (fun k => k.cmd != c.id) }).setCmd (c.finish st 0 0)
  else match s.engChkAll c 0 false false (addrRange c.a 8) with
  | .fail f va =>
    let x := s.teamOf c.team
    let g := s.gridOf x.grid
    (s.setGridOf x.grid { g with claims := g.claims.filter (fun k => k.cmd != c.id) }).setCmd (c.finish f va 0)
  | .page va rd => s.stopCmd c (.page va rd)
  | .ok => if bitOf c.b 16 then s.setCmd { c with stage := .shadow, await := [0] }
  else
    let held := s.headerHeld (s.cmdL1 c) c.a
    if held.isEmpty then s.performClaim c else s.snoop held true

/-- The fields of LREN are legal and its ranges apart: the page count, or none for status 0x05 (R305). -/
def lrenPages (a b : Nat) : Option Nat :=
  let n := bitsOf a 47 32
  let oa := bitsOf a 21 0
  let ob := bitsOf b 21 0
  if oa % 2048 ≠ 0 || ob % 2048 ≠ 0 || n = 0 || 2047 < n || bitsOf a 31 22 ≠ 0 || bitsOf b 31 22 ≠ 0 || bitsOf a 63 48 ≠ 0
    || bitsOf b 63 48 ≠ 0 || (bitsOf b 47 32 ≠ 0 && bitsOf b 47 32 ≠ n) then none
  else if oa < ob + 2048 * n && ob < oa + 2048 * n then none else some n

/-- Window page `p` under the exchange of `n` pages from `pa` and from `pb`. -/
def lrenPage (pa pb n p : Nat) : Nat :=
  if pa ≤ p && p < pa + n then p - pa + pb else if pb ≤ p && p < pb + n then p - pb + pa else p

/-- Exchange frames, away states and backing copies of two page ranges of team `t` (R305). -/
def State.lren (s : State) (t pa pb n : Nat) : State :=
  let x := s.teamOf t
  let l1 := x.ctx.l1pa
  let k := s.coreOf x.core
  let move (p : Nat × Byte) : Nat × Byte := (lrenPage pa pb n (p.1 / 2048) * 2048 + p.1 % 2048, p.2)
  let s1 := (s.setTeamOf t { x with ls := (Memory.writeList [] (x.ls.map move)) }).setCoreOf x.core { k with
    ltt := k.ltt.map (fun e => if e.team == t then { e with vpage := lrenPage pa pb n e.vpage } else e) }
  let pages := (List.range n).map (pa + ·) ++ (List.range n).map (pb + ·)
  let back := pages.flatMap (fun p =>
    bytesAt (x.bkva + 2048 * (lrenPage pa pb n p + 1)) (s.readVaN l1 (x.bkva + 2048 * (p + 1)) 2048))
  let bit (p : Nat) : Bool := bitOf (s.readVa l1 (x.bkva + p / 8)).toNat (p % 8)
  let zmap := (List.range 256).map (fun i => (x.bkva + i, BitVec.ofNat 8 ((List.range 8).foldl (fun a j =>
    a + if bit (lrenPage pa pb n (8 * i + j)) then 2 ^ j else 0) 0)))
  s1.publishFrom (dieOf x.core) l1 (back ++ zmap) (s.ctSent x.core)

/-- Start an LREN: it waits until no page of either range is pinned; one that holds uncorrectable bytes, in its frame or in its backing
copy, ends it with 0x01 (R305, R392). -/
def State.startLren (s : State) (c : Cmd) : State :=
  match lrenPages c.a c.b with
  | none => s.setCmd (c.finish 0x05 0 0)
  | some n =>
    let pa := bitsOf c.a 21 0 / 2048
    let pb := bitsOf c.b 21 0 / 2048
    let ps := (List.range n).map (pa + ·) ++ (List.range n).map (pb + ·)
    let x := s.teamOf c.team
    if ps.any (s.pinned c.team) then s
    else match ps.find? (fun p => x.lsBad.any (fun o => o / 2048 == p) || !(s.backingBad c.team p).isEmpty) with
    | some p => s.setCmd (c.finish 0x01 (2048 * p) 0)
    | none => (s.lren c.team pa pb n).setCmd (c.finish 0 0 (2048 * n))

/-- The windows that a command reads or names are at hand: its own team is not cocooned, and another team of its cluster is resident, or has
ended (R312, R327, R339). -/
def State.windowsAtHand (s : State) (c : Cmd) : Bool :=
  let away (u : Nat) : Bool := (s.teamOf u).status != .placed && (s.teamOf u).status != .ended && !s.awayOwn c.team u
  let named : List Nat :=
    if pktSspace c.pkt = 2 then distinct ((s.sourceAddrs c (s.cmdLength c)).filterMap (fun a => (s.engWindow c 2 a).map (·.1))) else []
  c.queued || !(c.team :: named).any away

/-- ENGINE_COMMAND_START: after the agent's earlier window accesses, in its order of issue (R291, R308). The engine's die works, the
links to the homes that it reads are up, the windows that it names are at hand, and the host has given up what it holds exclusively there;
a completion ring whose header cannot be read ends it with 0x01, ahead of what the packet itself may break (R250, R251, R257, R310, R327,
R339, R392; DEDUCED, log entry 90). -/
def execEngineCommandStart (n : Nat) (s : State) : Out :=
  match s.cmdAt n with
  | none => .next s
  | some c =>
    if !s.engineRuns c || (c.stage ≠ .waiting && (c.stage ≠ .queued || !c.await.isEmpty || !s.inTurn c)) then .next s
    else if !s.cmdReaches c (s.sourceVas c) || !s.windowsAtHand c then .next s
    else if !(s.sourceHeld c).isEmpty then .next (s.snoop (s.sourceHeld c) false)
    else if c.stage = .waiting then .next (s.startCopy c)
    else if s.ringLost c then .next (s.setCmd (c.finish 0x01 ((s.ringOf c).getD 0) 0))
    else
      let s1 := if c.queued then s else s.drainIf c.team c.agent (fun p => p.target != .global)
      if !c.queued && (s1.agent c.team c.agent).stores.any (fun p => p.target != .global) then .next s1
      else if c.fn = 5 || (c.queued && c.kind = 8) then .next (s1.startPubl c)
      else if c.fn = 6 then .next (s1.startClaim c)
      else if c.fn = 10 then .next (s1.setCmd { c with stage := .published })
      else if c.fn = 11 then .next (s1.startLren c)
      else if c.kind = 7 && !s1.refused c then .next (s1.collStart c)
      else .next (s1.startCopy c)

/-! ### Publication (R307, R308) -/

/-- Earlier commands of the issuer that must publish first: of a queue, every one; of an agent, one whose destination
shares a byte (R308, R315). -/
def State.publishBlocked (s : State) (c : Cmd) : Bool :=
  s.net.cmds.any (fun d => decide (d.id < c.id) && d.sameIssuer c &&
    (d.stage == .queued || d.stage == .waiting || d.stage == .shadow || d.stage == .deferred || (d.status == 0x0B && d.stage == .complete)) &&
    (if c.queued then d.stage == .queued || d.stage == .waiting || d.stage == .shadow else shadowsMeet d.shadow c.shadow))

/-- The part of a shadow on REMOTE pages, and the rest. -/
def State.splitRemote (s : State) (c : Cmd) : List (Nat × Nat × Byte) × List (Nat × Nat × Byte) :=
  let far (x : Nat × Nat × Byte) : Bool := x.1 == 0 && (match s.walk (s.cmdL1 c) x.2.1 with
    | some l => l.attr == .remote
    | none => false)
  (c.shadow.filter far, c.shadow.filter (fun x => !far x))

/-- A command's effects are done: its own barrier arrival is made, unless its team has ended, and its ticket is due (R295, R131). -/
def State.cmdDone (s : State) (c : Cmd) : State :=
  let s1 := s.setCmd { c with stage := .complete, await := [] }
  if !c.queued && c.kind != 2 && decide (128 ≤ pktBar c.pkt) && (s.teamOf c.team).status != .ended then
    (s1.engArrive c.team ⟨pktBar c.pkt % 8, Nat.mod_lt _ (by decide)⟩ c.id).1
  else s1

/-- The windows that a shadow of team `own`'s command touches can take its pages now: their teams are resident and the pages have
frames, or it is the window of the team itself, which is away (R266, R312). -/
def State.framesFor (s : State) (own : Nat) (sh : List (Nat × Nat × Byte)) : State × Bool :=
  let ps := (shadowPages sh).filter (fun p => !s.awayOwn own p.1)
  if ps.any (fun p => (s.teamOf p.1).status != .placed) then (s, false)
  else
    let bound (s : State) (p : Nat × Nat) : Bool :=
      (s.coreOf (s.teamOf p.1).core).ltt.any (fun e => e.shd && e.team == p.1 && e.vpage == p.2)
    let s1 := s.fillPages (ps.filter (fun p => !bound s p))
    (s1, ps.all (fun p => bound s1 p || s1.pageIn p.1 p.2))

/-- Send a message about the REMOTE part of a shadow to each device that it lies on: `k` of its bytes there at their exported
addresses; the command awaits the answers (R366, R376). -/
def State.sendParts (s : State) (c : Cmd) (far : List (Nat × Nat × Byte)) (k : List (Nat × Byte) → RemoteKind) : State :=
  let leafOf (x : Nat × Nat × Byte) : Option Leaf := s.walk (s.cmdL1 c) x.2.1
  let devs := distinct (far.filterMap (fun x => (leafOf x).map (·.dev)))
  let n := s.net.nextId
  let s1 := devs.foldl (fun s d =>
    let mine := far.filter (fun x => (leafOf x).map (·.dev) == some d)
    let parts := mine.filterMap (fun x => (leafOf x).map (fun l => (l.phys x.2.1, x.2.2)))
    let va := lineOf ((mine.headD (0, 0, 0)).2.1)
    s.sendFabric c d (if c.queued then 1 else 0) ((parts.headD (0, 0)).1) va (k parts)) s
  s1.setCmd { c with await := (List.range (s1.net.nextId - n)).map (n + ·) }

/-- The destination devices receive shadow lines, which they hold (R366, R376). -/
def State.sendShadow (s : State) (c : Cmd) (far : List (Nat × Nat × Byte)) : State :=
  s.sendParts { c with lines := shadowLines c.shadow, first := 2 } far (.shadow c.id)

/-- Once every destination device holds its lines, each is told to merge them (R307, R366, R376; DEDUCED, log entry 86). -/
def State.sendMerge (s : State) (c : Cmd) (far : List (Nat × Nat × Byte)) : State :=
  s.sendParts { c with first := 3 } far (fun _ => .merge c.id)

/-- The destination devices that hold lines of a command discard them, those too that have been told to merge them and have not
(R366, R376). -/
def State.discardHeld (s : State) (c : Cmd) : State :=
  if c.first = 2 || c.first = 3 then s.sendParts c (s.splitRemote c).1 (fun _ => .discard c.id) else s

/-- A command ends with a status, and its lines are discarded where peers hold them; a deferred one, which has completed, is just
gone (R303, R366, R376). -/
def State.endCmd (s : State) (c : Cmd) (status fva : Nat) : State :=
  if c.stage = .deferred then (s.discardHeld c).dropCmd c.id
  else (s.discardHeld c).setCmd { c.finish status fva c.written with await := [] }

/-- A command, a collective too, ends with a status before it is published (R311, R384). -/
def State.endAny (s : State) (c : Cmd) (status fva : Nat) : State :=
  if c.kind = 7 && c.stage = .shadow then s.collFail c status fva else s.endCmd c status fva

/-- The destination of a shadow as it stands when it is to be published: an absent or read-duplicated page is waited for, a right or a
mapping that has gone ends the command (R280, R281, R311). A collective's log entry has its page as well (R383). -/
def State.destChk (s : State) (c : Cmd) (sh : List (Nat × Nat × Byte)) : EChk :=
  s.engChkAll c 0 true c.mayLandFar ((sh.filter (fun x => x.1 == 0)).map (fun x => x.2.1))

/-- Publish the local part of a shadow, once the host and the frames allow it (R257, R267, R307). -/
def State.publishLocal (s : State) (c : Cmd) (near : List (Nat × Nat × Byte)) : State :=
  let held := s.shadowGranules c near
  if !held.isEmpty then s.snoop held true
  else
    let f := s.framesFor c.team near
    if !f.2 then f.1
    else
      let r := f.1.publishShadow c near
      if s.tooLate r.2 then s
      else
        let c1 := { c with w := r.2, shadow := [], lines := shadowLines c.shadow, first := 0 }
        if c.kind = 7 then (r.1.cmdDone c1).setCmd c1.logDue
        else if c.kind = 5 then r.1.setCmd { c1 with stage := .published }
        else r.1.cmdDone c1

/-- ENGINE_PUBLICATION: the shadow of a command becomes visible with one W; the devices of a part on REMOTE pages hold it first, and
merge it once all of them do, before anything here is published; if one refuses it nothing is (R307, R267, R366, R376). A collective
that waits for an output page or a station goes on. -/
def execEnginePublication (n : Nat) (s : State) : Out :=
  match s.cmdAt n with
  | none => .next s
  | some c =>
    if c.stage ≠ .shadow || !s.engineRuns c then .next s
    else if c.kind = 7 && !c.await.isEmpty then
      if c.await = [2] || (s.fabricUp && !(s.collUnsent c).isEmpty) then .next (s.collAdvance c) else .next s
    else if c.kind = 2 || c.fn = 6 || !c.await.isEmpty || s.publishBlocked c then .next s
    else
      let parts := s.splitRemote c
      if !s.cmdReaches c (shadowLines parts.2) then .next s
      else if c.first = 3 then .next (s.publishLocal c parts.2)
      else match s.destChk c c.shadow with
      | .fail st f => .next (s.endAny c st f)
      | .page va rd => .next (s.stopCmd c (.page va rd))
      | .ok =>
        if parts.1.isEmpty then .next (s.publishLocal c parts.2)
        else if c.first = 2 then .next (s.sendMerge c parts.1)
        else .next (s.sendShadow c parts.1)

/-- MCAST_LANDING: one receiver's shadow is published and its barrier counts an arrival; once a receiver has ended, the command
ends with 0x04 and nothing more lands (R299, R133). What has landed at another receiver before stays, and its arrival with it
(DESIGN CHOICE, log entry 85). -/
def execMcastLanding (n pos : Nat) (s : State) : Out :=
  match s.cmdAt n with
  | none => .next s
  | some c =>
    if c.stage ≠ .shadow || c.kind ≠ 2 || !s.engineRuns c || !c.await.contains pos || s.publishBlocked c then .next s
    else match s.member c.team pos with
    | none => .next (s.setCmd { c.finish 0x04 (pq c.pkt 2) c.count with await := [] })
    | some u =>
      if c.await.any (fun p => (s.member c.team p).all (fun v => (s.teamOf v).status == .ended)) then
        .next (s.setCmd { c.finish 0x04 (pq c.pkt 2) c.count with await := [] })
      else
        let mine := c.shadow.filter (fun x => x.1 == u + 1)
        let f := s.framesFor c.team mine
        if ((s.teamOf u).status ≠ .placed && !s.awayOwn c.team u) || !f.2 then .next f.1
        else
          let r := f.1.publishShadow c mine
          let left := c.await.erase pos
          let c1 := { c with shadow := c.shadow.filter (fun x => x.1 != u + 1), await := left, t := r.1.timeSince s c.t
                             stage := if left.isEmpty then .complete else .shadow }
          .next ((r.1.setCmd c1).engArrive u ⟨pktBar c.pkt % 8, Nat.mod_lt _ (by decide)⟩ c.id).1

/-! ### Signals (R301, R376) -/

/-- The team that a kind 2 signal names on this device (R301). -/
def State.signalTeam (s : State) (asid node rank : Nat) : Option Nat :=
  let grids := (List.range s.graphs.length).filterMap (fun i => match s.graphs[i]? with
    | none => none
    | some gr =>
      if decide (gr.asid = asid) && gr.live then
        (List.find? (fun (p : Nat × Grid) => p.2.gi == i && p.2.node == node && p.2.failing.isNone) s.grids).map (·.1)
      else none)
  match grids with
  | [] => none
  | g :: _ => s.teamKeys.find? (fun t =>
      let x := s.teamOf t
      x.grid == g && x.rank == rank && x.handles.isNone && x.status != .ended)

/-- A kind 2 signal on this device: counted, held at a saturated barrier for `id`, held for an absent team, or dropped;
the status, and whether the command may complete (R131, R301). -/
def State.signalBarrier (s : State) (asid node rank : Nat) (h : Fin 8) (id : Option Nat) : State × Nat :=
  match s.signalTeam asid node rank with
  | none => (s, 0x08)
  | some t =>
    let x := s.teamOf t
    if x.status ≠ .placed then (s.setTeamOf t { x with hbHeld := x.hbHeld ++ [(h, none)] }, 0)
    else match x.arriveFar h with
    | some y => (s.setTeamOf t y, 0)
    | none => (s.setTeamOf t { x with hbHeld := x.hbHeld ++ [(h, id)] }, 0)

/-- Add 1 to a word at its home, at J (R239, R254, R301). -/
def State.signalWord (s : State) (l1 va : Nat) : State :=
  (s.publishJ l1 none (quadBytes va ((s.quadVa l1 va + 1) % 2 ^ 64))).1

/-- PUTS_SIGNAL: performed once every byte of the data is published (R301, R376). -/
def execPutsSignal (n : Nat) (s : State) : Out :=
  match s.cmdAt n with
  | none => .next s
  | some c =>
    if c.stage ≠ .published || c.kind ≠ 5 || !c.await.isEmpty then .next s
    else
      let d := pq c.desc 0
      let tgt := pq c.desc 1
      if d % 4 = 1 then
        match s.engChkAll c 0 true true (addrRange tgt 8), s.engChkAll c 0 false true (addrRange tgt 8) with
        | .fail st f, _ => .next (s.setCmd (c.finish st f c.count))
        | .page va rd, _ => .next (s.stopCmd c (.page va rd))
        | .ok, .fail st f => .next (s.setCmd (c.finish st f c.count))
        | .ok, .page va rd => .next (s.stopCmd c (.page va rd))
        | .ok, .ok => match s.walk (s.cmdL1 c) tgt with
          | none => .next s
          | some l =>
            if l.attr = .remote then
              let s1 := s.sendFabric c l.dev 0 (l.phys tgt) tgt (.signal c.id)
              .next (s1.setCmd { c with await := [s.net.nextId], first := 1 })
            else
              let held := s.headerHeld (s.cmdL1 c) (tgt / 64 * 64)
              let s1 := s.signalWord (s.cmdL1 c) tgt
              if held.isEmpty then .next (s1.cmdDone { c with w := s1.timeSince s c.w }) else .next (s.snoop held true)
      else
        let dev := bitsOf d 50 32
        let hb := bitsOf d 10 8
        if dev = s.devNum then
          let r := s.signalBarrier c.asid (tgt / 2 ^ 32) (tgt % 2 ^ 32) ⟨hb % 8, Nat.mod_lt _ (by decide)⟩ (some c.id)
          if r.2 = 0 then .next (r.1.cmdDone c) else .next (r.1.setCmd (c.finish r.2 0 c.count))
        else
          let s1 := s.sendFabric c dev 0 0 0 (.signalBarrier c.id (tgt / 2 ^ 32) (tgt % 2 ^ 32) hb)
          .next (s1.setCmd { c with await := [s.net.nextId], first := 1 })

/-! ### Faults and completion (R309, R311, R316) -/

/-- The bytes that a command has written to its shadow when its source line at `line` fails (R293, R311); all of them where it reads
none there. -/
def State.writtenBefore (s : State) (c : Cmd) (line : Nat) : Nat :=
  match (s.cmdBlocks c).findIdx? (fun n => (srcAddrs c.pkt n).any (fun a => lineOf a == line)) with
  | some i => i * blockBytes (pktDfmt c.pkt)
  | none => c.written

/-- A multicast has landed at some receiver: its source has been read, and what has landed stays (R299). -/
def Cmd.landed (c : Cmd) : Bool := c.kind == 2 && decide (c.await.length < (castPositions c.pkt).length)

/-- ENGINE_COMMAND_FAULT: uncorrectable data in the source, which a zero fill does not read, or, with verify set, a shadow line that
reads back wrong twice, ends a command with status 0x01 before any of it is published (R295, R311, R376). -/
def execEngineCommandFault (n status fva : Nat) (s : State) : Out :=
  match s.cmdAt n with
  | none => .next s
  | some c =>
    if c.stage ≠ .shadow || c.fn = 6 || c.first = 3 || c.landed || status ≠ 1 then .next s
    else if c.kind = 7 then .next (s.collFail c 0x01 fva)
    else if bitOf (pq c.pkt 0) 27 then
      .next (s.endCmd { c with count := if pktZfill c.pkt then c.written else s.writtenBefore c (lineOf fva) } 0x01 fva)
    else if pktZfill c.pkt then .next s
    else .next (s.endCmd { c with count := s.writtenBefore c (lineOf fva) } 0x01 fva)

/-- ENGINE_REMOTE_TIMEOUT: a remote side that does not answer within 1 ms ends the command with 0x07; in D3hot it waits (R302, R366, R376,
R393). -/
def execEngineRemoteTimeout (n : Nat) (s : State) : Out :=
  match s.cmdAt n with
  | none => .next s
  | some c =>
    let mine (r : RemoteReq) : Bool := c.await.contains r.id
    if c.stage = .complete || c.kind = 2 || c.kind = 7 || !s.awake || !s.net.remote.any mine then .next s
    else
      let s1 := { s with net := { s.net with remote := s.net.remote.filter (fun r => !mine r) } }
      .next (s1.endCmd c 0x07 ((s.net.remote.filter mine).headD
        { id := 0, dev := 0, cls := 0, xaddr := 0, va := 0, team := 0, agent := 0, kind := .signal 0, ans := none }).va)

/-- A node one of whose engine commands met uncorrectable data fails (R343). -/
def State.failBy (s : State) (c : Cmd) : State :=
  if c.status ≠ 0x01 || c.queued then s
  else
    let x := s.teamOf c.team
    match Tab.find? s.grids x.grid with
    | none => s
    | some g => match g.failing with
      | some _ => s
      | none => s.setGridOf x.grid { g with failing := some (1, 0x09, c.fva, 0, x.rank) }

/-- The command as it completes: a PUBL takes over what it published (R303). -/
def State.closing (s : State) (c : Cmd) : Option Cmd :=
  if c.ref = c.id then none
  else if c.stage = .complete then some c
  else if c.stage = .published && c.ref ≠ 0 then
    match s.cmdAt c.ref with
    | some d => if d.stage = .complete && s.arrivalsCounted d.id then
        some { c with status := d.status, count := d.count, w := d.w, lines := d.lines, fva := d.fva } else none
    | none => none
  else if c.stage = .published && c.fn = 10 then
    if s.net.cmds.any (fun d => decide (d.id < c.id) && d.kind == 2 && d.shadow.any (fun x => x.1 == c.team + 1))
    then none else some (c.finish 0 0 0)
  else none

/-- A PUTS that was deferred, and whose data the commit of its node has published: its signal alone is left, for its ticket and its record
have been written (R301, R303). -/
def Cmd.signalOnly (c : Cmd) : Bool :=
  c.kind == 5 && !c.queued && c.sd.isNone && c.ref == 0 && c.handle != 0 && (c.stage == .published || c.stage == .complete) && c.status != 0x0A

/-- Records and tickets of one queue are written in slot order (R315). -/
def State.recordBlocked (s : State) (c : Cmd) : Bool :=
  c.queued && s.net.cmds.any (fun d => decide (d.id < c.id) && d.sameIssuer c && d.stage != .deferred && d.ref != d.id)

/-- Write the log entry of a collective: once its page and the host allow it, or not at all where the page takes no write (R257,
R383). -/
def State.writeLog (s : State) (c : Cmd) : State :=
  let bs := s.logBytes c
  match s.engChkAll c 0 true false (bs.map (·.1)) with
  | .page va rd => s.stopCmd c (.page va rd)
  | .fail _ _ => s.setCmd { c with first := 0 }
  | .ok =>
    let held := s.shadowGranules c (bs.map (fun b => (0, b)))
    if !held.isEmpty then s.snoop held true
    else
      let s1 := (s.publishJ (s.cmdL1 c) (s.cmdTag c) bs).1
      s1.setCmd { c with first := 0, w := s1.timeSince s c.w }

/-- TICKET_COMPLETE: a collective's log entry, the completion record, then the ticket; the core's time and the team's view follow; of a
command whose ticket has been written, nothing (R303, R309, R316, R382). -/
def execTicketComplete (n : Nat) (s : State) : Out :=
  match s.cmdAt n with
  | none => .next s
  | some c0 => match s.closing c0 with
    | none => .next s
    | some c =>
      if !s.engineRuns c then .next s
      else if c.signalOnly then .next (if s.arrivalsCounted c.id then s.dropCmd c.id else s)
      else if c.kind = 7 && c.first = 1 then .next (s.writeLog c)
      else if !s.arrivalsCounted c.id || s.recordBlocked c || (!c.queued && (s.teamOf c.team).status == .cocooned) then .next s
      else if !(s.ringHeld c).isEmpty then .next (s.snoop (distinct (s.ringHeld c)) true)
      else match s.writeCompletion c with
      | none => .next s
      | some s1 =>
        let c := { c with w := s1.timeSince s c.w }
        let s2 := s1.failBy c
        let s3 := match c.sd with
          | some d => s2.deliverTicket c d
          | none => s2
        if c.status = 0x0B then .next (s3.setCmd { c with stage := .deferred, sd := none })
        else .next ((if c.ref = 0 then s3 else s3.dropCmd c.ref).dropCmd c.id)

/-! ### Packet rings (R313 to R315) -/

/-- The address of the slot at ridx of the ring with header `hdr` (R313). -/
def State.slotVa (s : State) (l1 hdr : Nat) : Nat :=
  s.quadVa l1 (hdr + 16) + 64 * (s.quadVa l1 (hdr + 8) % 2 ^ (s.quadVa l1 (hdr + 0x18) % 32))

/-- What a poll of a ring waits for: what the host holds exclusively of its header and, once that is at hand, of its next slot, and of
the tables that map them (R257, R277, R315). -/
def State.pollHeld (s : State) (asid hdr : Nat) : List Nat :=
  let l1 := s.asidL1 asid
  let ask (a : Nat) : List Nat := s.tableHeld l1 a ++ (match s.walk l1 a with
    | some l => if l.attr = .hosted then s.hostGranules (l.phys a) 64 [2] else []
    | none => [])
  let head := ask hdr
  if !head.isEmpty || s.quadVa l1 hdr ≤ s.quadVa l1 (hdr + 8) then head else ask (s.slotVa l1 hdr)

/-- The next slot of a packet ring that is served and filled: its address, its index and its packet. A ring whose context or header
cannot be read is not served; a slot that cannot be read is taken, and has no packet (R392; DEDUCED, log entry 90). -/
def State.nextSlot (s : State) (asid hdr : Nat) : Option (Nat × Nat × List DWord) :=
  let l1 := s.asidL1 asid
  let q := s.quadVa l1 (hdr + 0x18)
  if s.contextLost asid || s.badVa l1 hdr 64 then none
  else if ((s.walk l1 hdr).map (·.attr)) ≠ some Attr.hosted || bitOf q 13 || !ringServed q then none
  else
    let ridx := s.quadVa l1 (hdr + 8)
    if s.quadVa l1 hdr ≤ ridx then none
    else
      let slot := s.slotVa l1 hdr
      let pkt := (List.range 8).map (fun i => BitVec.ofNat 64 (s.quadVa l1 (slot + 8 * i)))
      if s.badVa l1 slot 64 then some (slot, ridx, [])
      else if pktKind pkt = 0 then none else some (slot, ridx, pkt)

/-- Clear a slot's kind byte and raise ridx, each as a publication with ct := J (R315). -/
def State.takeSlot (s : State) (asid hdr slot ridx : Nat) : State :=
  let l1 := s.asidL1 asid
  let s1 := (s.publishJ l1 none [(slot, 0)]).1
  (s1.publishJ l1 none (quadBytes (hdr + 8) ((ridx + 1) % 2 ^ 64))).1

/-- QUEUE_SLOT_SERVE: a bulk engine takes the next filled slot and queues its command; one that cannot be read ends with 0x01 (R315,
R392). The ring at the completion-ring table's own base is the graph engine's (R347). -/
def execQueueSlotServe (asid hdr : Nat) (s : State) : Out :=
  if hdr = s.asidCrt asid then .next s
  else if !(s.pollHeld asid hdr).isEmpty then .next (s.snoop (distinct (s.pollHeld asid hdr)) false)
  else match s.nextSlot asid hdr with
  | none => .next s
  | some (slot, ridx, pkt) =>
    let l1 := s.asidL1 asid
    let held := s.headerHeld l1 hdr ++ s.headerHeld l1 slot
    if !held.isEmpty then .next (s.snoop (distinct held) true)
    else
      let s1 := s.takeSlot asid hdr slot ridx
      let c : Cmd := { id := s1.net.nextId, fn := 12, team := 0, agent := 0, asid := asid, core := 0, sd := none, pkt := pkt
                       a := 0, b := 0, desc := [], slot := some (hdr, ridx), seq := ridx, t := 0, stage := .queued
                       shadow := [], fetched := [], await := [], lines := [], ref := 0, handle := 0, status := 0, count := 0
                       fva := 0, w := 0, vals := [], first := 0, asked := [], closed := [], sent := [], taken := 0 }
      .next { s1 with net := { s1.net with cmds := s1.net.cmds ++ [if pkt.isEmpty then c.finish 0x01 slot 0 else c], nextId := c.id + 1 } }

end Sys2Proof.Machine
end

