-- ==== Sys2Proof/Machine/Coherence.lean ====
section
/-!
DEFINITION. The events of the homes and of the replies they send (R226, R231, R234, R239), the forced visibility point
(R230), late replies (R331), deterministic adds and grid boundaries (R221, R222, R241, R242), and rebasing (R245, R246).
-/

namespace Sys2Proof.Machine

open Sys2Proof

/-! ### Requests at their homes -/

/-- What a request finds where its line is homed. -/
inductive AtHome where
  /-- its leaf and its physical line -/
  | here (l : Leaf) (pa : Nat)
  /-- refused (R252, R278) -/
  | refused (code : Nat)
  /-- it waits for a page (R281) or a collapse (R280) -/
  | page (va : Nat) (rd : Bool)
  /-- its walk waits for these granules of table lines, which the host holds exclusively (R257, R277) -/
  | table (gs : List Nat)
  deriving DecidableEq, Repr

/-- Look up the line of a request; `wr` when it writes there. -/
def State.atHome (s : State) (r : Req) (wr : Bool) : AtHome :=
  match s.tableHeld (s.l1Of r.team) r.va with
  | g :: gs => .table (g :: gs)
  | [] => match s.walk (s.l1Of r.team) r.va with
  | none => .refused (s.noLeaf (s.l1Of r.team) r.va)
  | some l =>
    if wr && !l.w then .refused trapProtection
    else if !l.rs then .page (l.page r.va) false
    else if wr && l.rd then .page (l.page r.va) true
    else
      let pa := lineOf (if wr then l.phys r.va else l.physFor (dieOf r.core) r.va)
      if s.homeGone pa || (!wr && s.poisoned pa) then .refused trapPoison else .here l pa

/-- Ask the page service for a page, or for a collapse, unless it has been asked already. -/
def State.askPage (s : State) (asid va : Nat) (rd : Bool) : State :=
  if rd then
    if s.net.collapse.contains (asid, va) then s
    else { s with net := { s.net with collapse := s.net.collapse ++ [(asid, va)] } }
  else if s.net.pageRq.contains (asid, va) then s
  else { s with net := { s.net with pageRq := s.net.pageRq ++ [(asid, va)] } }

/-- A request waits at its home for a page: what its team awaits of an access that is refused elsewhere waits no longer (R52, R281). -/
def State.waitPage (s : State) (r : Req) (va : Nat) (rd : Bool) : State :=
  (s.teamOf r.team).agents.foldl (fun s a => s.trapBad r.team a) (s.askPage r.asid va rd)

/-- A line fails its CRC-32C when it is read: one more mismatch is counted and the line is poisoned (R391, R392). -/
def State.crcFail (s : State) (pa : Nat) : State :=
  let s1 := ({ s with dev := { s.dev with crcerr := Nat.min (s.dev.crcerr + 1) (2 ^ 32 - 1) } } : State).evictHome pa none
  s1.setHline pa { s1.hline pa with poison := .whole }

/-- What a write of core `r.core` to a HOSTED line still waits for: the host's granules (R257, R258), and a path for the
invalidations to every die that holds a copy (R250, R255). -/
def State.writeFirst (s : State) (r : Req) (l : Leaf) (pa a n : Nat) : Option State :=
  match s.hostFirst l a n true with
  | some s1 => some s1
  | none => if l.attr = .hosted && !s.holdersReached pa (lineOf r.va) (some (r.core, r.asid)) then some s else none

/-- The incarnation of the die that homes a line; 0 for host memory. -/
def State.incOf (s : State) (pa : Nat) : Nat := if isHostPa pa then 0 else (s.dieAt (homeDie pa)).inc

/-- HOME_RENEWAL (R226, R255): request `n` is served in its turn. -/
def execHomeRenewal (n : Nat) (victim : Option Nat) (crcOk : Bool) (s : State) : Out :=
  match s.net.reqs[n]? with
  | none => .next s
  | some r => match r.kind with
    | .renew spin =>
      if !s.reqReady n then .next s
      else match s.atHome r false with
      | .refused c => .next ((s.dropReq n).reply r (r.kind.refusal c))
      | .page va rd => .next (s.waitPage r va rd)
      | .table gs => .next (s.snoop gs false)
      | .here l pa => match s.hostFirst l pa 128 false with
        | some s1 => .next s1
        | none =>
          if !crcOk then .next (((s.crcFail pa).dropReq n).reply r (r.kind.refusal trapPoison))
          else
            let tag := s.tagOf r.team r.va
            let s0 := (s.noteWalk (s.l1Of r.team) r.va l).evictHome pa victim
            let x := s0.renewAt tag r.va pa r.ct l
            if s.tooLate x.2.2.2 then .next s
            else .next ((x.1.dropReq n).reply r (.renewed x.2.1 (x.1.timeTo r.team r.core x.2.2.1) (x.1.timeTo r.team r.core x.2.2.2) l
              (s.incOf pa) spin))
    | _ => .next s

/-- HOME_PUBLICATION (R231, R255, R257, R278): the bytes are merged by mask with a new wts. -/
def execHomePublication (n : Nat) (crcOk : Bool) (s : State) : Out :=
  match s.net.reqs[n]? with
  | none => .next s
  | some r => match r.kind with
    | .publish bs =>
      if !s.reqReady n then .next s
      else match s.atHome r true with
      | .refused c => .next ((s.dropReq n).reply r (r.kind.refusal c))
      | .page va rd => .next (s.waitPage r va rd)
      | .table gs => .next (s.snoop gs false)
      | .here l pa =>
        let lo := pa + (bs.map (·.1)).foldl Nat.min 127
        let hi := pa + maxOf 0 (bs.map (·.1))
        match s.writeFirst r l pa lo (hi + 1 - lo) with
        | some s1 => .next s1
        | none =>
          let s0 := (if crcOk then s else s.crcFail pa).noteWalk (s.l1Of r.team) r.va l
          let tag := s0.tagOf r.team r.va
          let p := s0.publish (s0.l1Of r.team) tag (bs.map (fun b => (r.va + b.1, b.2))) r.ct (some (r.core, r.asid))
          if s.tooLate p.2 then .next s
          else .next ((p.1.dropReq n).reply r (.published (p.1.seenLine tag r.va pa) (p.1.timeTo r.team r.core p.2) l (s.incOf pa)))
    | _ => .next s

/-- HOME_ATOMIC (R239, R240, R287): performed at once, in the order of arrival. -/
def execHomeAtomic (n : Nat) (crcOk : Bool) (s : State) : Out :=
  match s.net.reqs[n]? with
  | none => .next s
  | some r => match r.kind with
    | .atomic op k b c lane =>
      if !s.reqReady n then .next s
      else match s.atHome r true with
      | .refused e => .next ((s.dropReq n).reply r (r.kind.refusal e))
      | .page va rd => .next (s.waitPage r va rd)
      | .table gs => .next (s.snoop gs false)
      | .here l pa =>
        if s.poisoned pa then .next ((s.dropReq n).reply r (r.kind.refusal trapPoison))
        else if !crcOk then .next (((s.crcFail pa).dropReq n).reply r (r.kind.refusal trapPoison))
        else match s.writeFirst r l pa (l.phys r.va) k with
        | some s1 => .next s1
        | none =>
          let s0 := s.noteWalk (s.l1Of r.team) r.va l
          let tag := s0.tagOf r.team (lineOf r.va)
          let x := s0.atomicAt (s.l1Of r.team) tag r.va (l.phys r.va) k op b.toNat c.toNat r.ct (some (r.core, r.asid))
          if s.tooLate x.2.2 then .next s
          else .next ((x.1.dropReq n).reply r (.atomic (x.1.seenLine tag (lineOf r.va) pa) (x.1.timeTo r.team r.core x.2.2) l (s.incOf pa)
            (bytesLE k x.2.1) lane))
    | _ => .next s

/-! ### Results at the core -/

/-- A reply that is kept aside: of a cocooned team, or a refusal, which traps, of a team that is away (R331, R339). -/
def State.aside (s : State) (q : Rep) : Bool :=
  (s.teamOf q.team).status == .cocooned || ((s.teamOf q.team).status != .placed && (match q.kind with
    | .failed _ p => !p
    | .failedOp _ _ _ _ => true
    | _ => false))

/-- A reply of home slice `sl` to core `c` is in flight among `rs`; those kept aside do not count (R248). -/
def State.replying (s : State) (rs : List Rep) (c sl : Nat) : Bool :=
  rs.any (fun q => q.core == c && q.slice == sl && !s.aside q)

/-- Reply `n` arrives: those of one home slice to one core in order (R248), over a path that is up (R250), and none that is kept
aside (R339). -/
def State.repReady (s : State) (n : Nat) : Bool :=
  match s.net.reps[n]? with
  | none => false
  | some r => !s.replying (s.net.reps.take n) r.core r.slice && s.pathOk (r.slice / 16) (dieOf r.core)
      && !s.aside r

/-- The core at which a reply acts: the one that asked, or the one on which its team has been placed since, in the time of
that core (R237, R331). -/
def State.follow (s : State) (r : Rep) : Rep :=
  let x := s.teamOf r.team
  if x.status = .placed && x.core ≠ r.core then
    { r with core := x.core, kind := r.kind.mapTimes (fun t => s.timeFor x.core (s.timeFrom r.core t)) }
  else r

/-- Take reply `n` out of the messages in flight. -/
def State.dropRep (s : State) (n : Nat) : State :=
  { s with net := { s.net with reps := s.net.reps.eraseIdx n } }

/-- A byte of an access takes the value that renewal `id` of `line` brings: none asked for before its view (R226, R227). -/
def Slot.takes (sl : Slot) (line id : Nat) : Bool := lineOf sl.va == line && decide (sl.since ≤ id)

/-- Give the accesses of a team that await a line the bytes of a renewal numbered `id` (R226, R227). -/
def State.fillLine (s : State) (t line id : Nat) (data : List Byte) : State :=
  (s.teamOf t).agents.foldl (fun s a => s.fill t a (fun o sl =>
    if o.cached && sl.takes line id then data[sl.va - line]? else none)) s

/-- An access of the team's present view awaits the line and takes renewal `id` of it. -/
def State.awaited (s : State) (t line id : Nat) : Bool := decide ((s.teamOf t).fromOf line ≤ id) && s.awaiting t line

/-- An outstanding access awaits a byte of the `n` at `va`, as a load in any lane or as the old value of lane `lane`. -/
def Outst.wants (o : Outst) (va n lane : Nat) (old : Bool) : Bool :=
  (o.cached != old) && o.slots.any (fun sl => sl.val.isNone && decide (va ≤ sl.va) && decide (sl.va < va + n)
    && (!old || sl.lane == lane))

/-- The first outstanding access of an agent that awaits bytes from `va` on, as a load of any of its lanes or as the old value
of lane `lane`, takes them (R74, R234, R239). -/
def State.fillFirst (s : State) (t a va lane : Nat) (old : Bool) (bs : List Byte) : State :=
  match (s.agent t a).outs.find? (fun o => o.wants va bs.length lane old) with
  | none => s
  | some o => s.fill t a (fun p sl =>
      if p.id == o.id && decide (va ≤ sl.va) && (!old || sl.lane == lane) then bs[sl.va - va]? else none)

/-- The renewal of a SPIN has come: the view of its line ends, CT rises by 1 and the agent goes on; a team that is away takes
the rise with it (R135, R227, R237). -/
def State.spinDone (s : State) (r : Rep) : State :=
  let g := s.agent r.team r.agent
  if g.status ≠ .spin r.id then s
  else
    let x := s.teamOf r.team
    let s1 := if x.status = .placed then
        let k := s.coreOf r.core
        (s.setCoreOf r.core { k with copies := clearStable r.team (fun c => c.line == r.va) k.copies }).raiseCt r.core (k.ct + 1)
      else s.setTeamOf r.team { x with ct := x.ct + 1, kept := x.kept.filter (fun c => c.line != r.va) }
    (s1.bumpLines r.team [r.va]).setAgent r.team r.agent { g.advance with status := .run }

/-- A renewal is refused: a SPIN traps where it stands, and every access of the team that awaits the line has those bytes refused, at
its own address (R50, R52, R252, R278). -/
def State.refuseLine (s : State) (r : Rep) (code : Nat) : State :=
  if (s.agent r.team r.agent).status = .spin r.id then s.trapAgent r.team r.agent code kindFault r.va 0
  else (s.teamOf r.team).agents.foldl (fun s a => s.refuse r.team a code (fun o sl => o.cached && sl.takes r.va r.id)
    (fun sl => if lineOf (sl.va - sl.idx) = r.va then sl.va - sl.idx else sl.va)) s

/-- An atomic or an UNCACHED load is refused at its home: the first access that waits for it has those bytes refused (R50, R52,
R252). -/
def State.refuseOne (s : State) (t a va n lane : Nat) (old : Bool) (code : Nat) : State :=
  match (s.agent t a).outs.find? (fun o => o.wants va n lane old) with
  | none => s
  | some o => s.refuse t a code (fun p sl => p.id == o.id && decide (va ≤ sl.va) && decide (sl.va < va + n) && (!old || sl.lane == lane))
      (fun sl => if va ≤ sl.va - sl.idx then sl.va - sl.idx else sl.va)

/-- CT of the core that asked rises to a time that its reply returned, and so does that of the core on which its team has been
placed since, or what a team that is away has recorded (R223, R237). -/
def State.joinCt (s : State) (r : Rep) (w : Nat) : State :=
  let s1 := s.raiseCt r.core w
  let x := s1.teamOf r.team
  let w1 := s1.timeFrom r.core w
  if x.status ≠ .placed then s1.setTeamOf r.team { x with ct := Nat.max x.ct w1 }
  else if x.core = r.core then s1 else s1.raiseCt x.core (s1.timeFor x.core w1)

/-- The copy that a renewal brings to a core. It is stable for the team if a load of the team's view awaits it; one that was
invalidated on its way stays for that view only (R226, R227, R255). A team that is away keeps it with its context (R237). -/
def State.installRenewed (s : State) (r : Rep) : State :=
  match s.copyOf r with
  | none => s
  | some c =>
    let x := s.teamOf r.team
    let mine := s.awaited r.team r.va r.id
    let put (s : State) (ts : List Nat) : State :=
      if ts.isEmpty && r.gone then s else s.setCoreOf r.core ((s.coreOf r.core).install ts c)
    if x.status = .placed then put s (if mine then [r.team] else [])
    else if mine then
      put (s.setTeamOf r.team { x with kept := { c with latest := false, stable := [r.team] } :: x.kept.filter (fun k => k.line != c.line) }) []
    else put s []

/-- RENEWAL_REPLY (R226): CT jumps to a later wts, the copy is installed, and the loads that await it complete. A renewal
that was refused traps what awaits it. -/
def execRenewalReply (n : Nat) (victim : Option Nat) (s : State) : Out :=
  match s.net.reps[n]? with
  | none => .next s
  | some r =>
    if !s.repReady n || (s.teamOf r.team).status ≠ .placed then .next s
    else match r.kind with
    | .renewed data wts _ _ _ spin =>
      let r1 := s.follow r
      let s1 := (s.dropRep n).makeRoom r1.core victim
      let s2 := s1.joinCt r wts
      let s3 := (s2.installRenewed r1).fillLine r.team r.va r.id data
      .next (if spin then s3.spinDone r1 else s3)
    | .failed code false => .next ((s.dropRep n).refuseLine r code)
    | _ => .next s

/-- The copy that the reply of a publication or atomic brings replaces the core's copies of its line (R228, R231, R239). -/
def State.replaceCopy (s : State) (r : Rep) : State :=
  match s.copyOf r with
  | none => s
  | some c =>
    let s1 := if (s.coreOf r.core).copies.any (fun j => j.asid == c.asid && j.line == c.line) then s else s.makeRoom r.core none
    s1.setCoreOf r.core ((s1.coreOf r.core).replace c)

/-- The copy replaces those of the core that asked, and those of the core on which its team has been placed since; a team that
is away keeps no older one (R228, R231, R237). -/
def State.replaceAll (s : State) (r : Rep) : State :=
  let s1 := s.replaceCopy r
  let x := s1.teamOf r.team
  if x.status ≠ .placed then s1.setTeamOf r.team { x with kept := x.kept.filter (fun k => k.line != lineOf r.va) }
  else if x.core = r.core then s1 else s1.replaceCopy (s.follow r)

/-- PUBLICATION_REPLY (R231, R228): CT := max(CT, w), and the published line replaces the core's copies. A refusal traps
at the visibility point (R252, R278). -/
def execPublicationReply (n : Nat) (s : State) : Out :=
  match s.net.reps[n]? with
  | none => .next s
  | some r =>
    let x := s.teamOf r.team
    let y := { x with pubs := x.pubs.filter (fun p => p.id != r.id) }
    if !s.repReady n then .next s
    else match r.kind, (s.follow r).kind with
    | .published _ w _ _, .published _ w1 _ _ =>
      let s1 := (s.dropRep n).setTeamOf r.team { y with got := Nat.max y.got w1 }
      .next ((s1.replaceAll r).joinCt r w)
    | .failed code true, _ => .next ((s.dropRep n).setTeamOf r.team { y with pubTrap := some (code, r.va) })
    | _, _ => .next s

/-- ATOMIC_REPLY (R239): the old value arrives, CT := max(CT, w), the copy is replaced, and the team's view ends. A drain that awaited
it goes on (R328). What the control die held of an UNCACHED access arrives in the same way (R234, R339). -/
def execAtomicReply (n : Nat) (s : State) : Out :=
  match s.net.reps[n]? with
  | none => .next s
  | some r =>
    if !s.repReady n || (s.teamOf r.team).status ≠ .placed then .next s
    else match r.kind with
    | .atomic _ w _ _ old lane =>
      let s2 := ((s.dropRep n).joinCt r w).replaceAll r
      .next (((s2.viewPoint r.team).fillFirst r.team r.agent r.va lane true old).leaveAsked r.team)
    | .uncached bs w lane st => .next (((s.dropRep n).joinCt r w).fillFirst r.team r.agent r.va lane st bs)
    | .failedOp code k lane old => .next ((s.dropRep n).refuseOne r.team r.agent r.va k lane old code)
    | _ => .next s

/-- The late-reply entries of an access that is complete: what agent `a`'s registers now hold. -/
def Group.lateOf (g : Group) (a : Nat) (o : Outst) : List LateReply :=
  let lanes := o.dest.vregs.flatMap (fun r => (slotLanes o.slots).map (fun l =>
    ({ lane := l, reg := r.val, grp := a, kind := 0, value := (g.lane r l).setWidth 64 } : LateReply)))
  let keep := match o.dest with
    | .laneOld r _ => lanes.filter (fun e => e.reg == r.val)
    | _ => lanes
  keep ++ o.dest.sregs.map (fun r => { lane := 0, reg := r.val, grp := a, kind := 1, value := g.getS r })

/-- Record as late what a step from `s0` to `s1` completed for a team that is away, in its table in memory as well (R331). -/
def State.recordLate (s0 s1 : State) (t : Nat) : State :=
  let x := s1.teamOf t
  let es := x.agents.flatMap (fun a =>
    let left := (s1.agent t a).outs.map (·.id)
    ((s0.agent t a).outs.filter (fun o => !left.contains o.id)).flatMap ((s1.agent t a).lateOf a))
  if es.isEmpty then s1 else (s1.setTeamOf t { x with late := x.late ++ es }).writeLate t

/-- UNCACHED_ACCESS_AT_HOME (R234): a load or store of an UNCACHED page, with its reply, which waits its turn behind the earlier
replies of its slice (R248); a team that is away takes the result late (R331), and the control die holds it for a cocooned one (R339). -/
def execUncachedAccessAtHome (n : Nat) (crcOk : Bool) (s : State) : Out :=
  match s.net.reqs[n]? with
  | none => .next s
  | some r =>
    let x := s.teamOf r.team
    let rep : Rep := { id := r.id, core := r.core, team := r.team, agent := r.agent, asid := r.asid, va := r.va
                       kind := .failed 0 false, slice := s.reqSlice r, gone := false }
    let hold (s : State) (bs : List Byte) (w lane : Nat) (st : Bool) : State := (s.dropReq n).reply r (.uncached bs w lane st)
    if !s.reqReady n || s.replying s.net.reps r.core (s.reqSlice r) then .next s
    else match r.kind with
    | .uload len lane =>
      let fail (s : State) (c : Nat) : State :=
        if x.status = .cocooned then (s.dropReq n).reply r (r.kind.refusal c)
        else (s.dropReq n).refuseOne r.team r.agent r.va len lane false c
      match s.atHome r false with
      | .refused c => .next (fail s c)
      | .page va rd => .next (s.waitPage r va rd)
      | .table gs => .next (s.snoop gs false)
      | .here l pa =>
        if !crcOk then .next (fail (s.crcFail pa) trapPoison)
        else
          let tag := s.tagOf r.team (lineOf r.va)
          let bs := ((s.seenLine tag (lineOf r.va) pa).drop (r.va % 128)).take len
          let p := (s.noteWalk (s.l1Of r.team) r.va l).readAt tag (lineOf r.va) pa
          let s1 := ((p.1.dropReq n).joinCt rep (p.1.timeFor r.core p.2)).fillFirst r.team r.agent r.va lane false bs
          .next (if x.status = .cocooned then hold p.1 bs p.2 lane false else if x.status = .placed then s1 else p.1.recordLate s1 r.team)
    | .ustore bs lane => match s.atHome r true with
      | .refused c => .next (if x.status = .cocooned then (s.dropReq n).reply r (r.kind.refusal c)
          else (s.dropReq n).refuseOne r.team r.agent r.va bs.length lane true c)
      | .page va rd => .next (s.waitPage r va rd)
      | .table gs => .next (s.snoop gs false)
      | .here l pa =>
        let s0 := (if crcOk then s else s.crcFail pa).noteWalk (s.l1Of r.team) r.va l
        let p := s0.publish (s0.l1Of r.team) (s0.tagOf r.team (lineOf r.va)) (bytesAt r.va bs) r.ct (some (r.core, r.asid))
        if s.tooLate p.2 then .next s
        else if x.status = .cocooned then .next (hold p.1 bs p.2 lane true)
        else .next (((p.1.dropReq n).joinCt rep (p.1.timeFor r.core p.2)).fillFirst r.team r.agent r.va lane true bs)
    | _ => .next s

/-! ### Late replies (R331) -/

/-- LATE_REPLY: a reply for a team that is away is written into its late-reply table and its register; it acts on the core that
asked and on what the team keeps; a refusal waits until the team is placed (R331). -/
def execLateReply (n : Nat) (s : State) : Out :=
  match s.net.reps[n]? with
  | none => .next s
  | some r =>
    let x := s.teamOf r.team
    if !s.repReady n || x.status = .placed then .next s
    else
      match r.kind with
      | .renewed data wts _ _ _ spin =>
        let s1 := (((s.dropRep n).joinCt r wts).installRenewed r).fillLine r.team r.va r.id data
        let s2 := s.recordLate s1 r.team
        .next (if spin then s2.spinDone r else s2)
      | .atomic _ w _ _ old lane =>
        let s1 := ((s.dropRep n).joinCt r w).replaceAll r
        let y := s1.teamOf r.team
        let s2 := (s1.setTeamOf r.team { y with kept := [], ovf := y.unpubOvf }).bumpView r.team
        .next (s.recordLate (s2.fillFirst r.team r.agent r.va lane true old) r.team)
      | .uncached bs w lane st =>
        .next (s.recordLate (((s.dropRep n).joinCt r w).fillFirst r.team r.agent r.va lane st bs) r.team)
      | _ => .next s

/-! ### The forced visibility point (R230) -/

/-- FORCED_VISIBILITY_POINT: the team publishes everything, from when on it is not flushed unless its node is idempotent, waits for
the replies, and its view and area are cleared (R230, R329). -/
def execForcedVisibilityPoint (t : Nat) (s : State) : Out :=
  let x := s.teamOf t
  if !x.forced || !s.onCore t || x.trap.isSome then .next s
  else match x.pubTrap with
  | some (c, a) => .next ((s.setTeamOf t { x with pubTrap := none }).trapAgent t ((s.liveGroups t).headD 0) c kindFault a 0)
  | none =>
    match s.closedUnpub t, s.absentUnpub t with
    | some a, _ => .next (s.trapAgent t ((s.liveGroups t).headD 0) trapNoMap kindFault a 0)
    | none, p :: ps => .next (s.awaitPages t (p :: ps))
    | none, [] =>
      if !x.unpub.isEmpty then
        let s1 := s.publishAll t 0
        .next (s1.setTeamOf t { s1.teamOf t with used := { (s1.teamOf t).used with release := true } })
      else if !x.pubs.isEmpty then .next s
      else
        let s1 := s.viewPoint t
        let y := s1.teamOf t
        .next (s1.setTeamOf t { y with ovf := [], forced := false, used := { y.used with release := true } })

/-! ### Deterministic adds (R221, R222, R241, R242) -/

/-- DADD_UPDATE_ARRIVAL (R219 to R221). -/
def execDaddUpdateArrival (n : Nat) (s : State) : Out :=
  match s.net.reqs[n]? with
  | none => .next s
  | some r => match r.kind with
    | .dadd u i q phase =>
      if !s.reqReady n then .next s
      else match s.atHome r true with
      | .refused c => .next (if s.cocooned r.team then (s.dropReq n).reply r (r.kind.refusal c)
          else (s.dropReq n).refuseOne r.team r.agent r.va 4 (i % 32) true c)
      | .page va rd => .next (s.waitPage r va rd)
      | .table gs => .next (s.snoop gs false)
      | .here _ pa =>
        let g := (s.teamOf r.team).grid
        let s0 := (s.dropReq n).evictHome pa none
        let s1 := if 16 ≤ (s0.hline pa).held.length then s0.spillLine pa else s0
        let done (s : State) : State :=
          if s.cocooned r.team then s.reply r (.uncached (bytesLE 4 u.toNat) 0 (i % 32) true)
          else s.fillFirst r.team r.agent r.va (i % 32) true (bytesLE 4 u.toNat)
        if (s1.gridOf g).failing.isSome then .next (done s1)
        else
          let h := s1.hline pa
          let d : Dadd := { grid := g, i := i, q := q, team := r.team, phase := phase, line := lineOf r.va, off := r.va % 128, u := u }
          .next (done (s1.setHline pa { h with held := h.held ++ [d] }))
    | _ => .next s

/-- Insert an update in ascending key order. -/
def insertDadd (d : Dadd) : List Dadd → List Dadd
  | [] => [d]
  | e :: t => if d.i < e.i || (d.i == e.i && d.q ≤ e.q) then d :: e :: t else e :: insertDadd d t

def sortDadds (l : List Dadd) : List Dadd := l.foldl (fun a d => insertDadd d a) []

/-- Insert a claim in ascending (c, q). -/
def insertClaim (k : Claim) : List Claim → List Claim
  | [] => [k]
  | e :: t => if k.c < e.c || (k.c == e.c && k.q ≤ e.q) then k :: e :: t else e :: insertClaim k t

/-- Every held update of a grid. -/
def State.heldOf (s : State) (g : Nat) : List Dadd :=
  (s.gridOf g).held ++ s.lines.flatMap (fun p => p.2.held.filter (fun d => d.grid == g))

/-- Ranks of a grid. -/
def Grid.ranks (g : Grid) : List Nat := List.range g.teams

/-- Every team of the grid has completed boundary `n` or ended (R222). -/
def Grid.reached (g : Grid) (n : Nat) : Bool := g.ranks.all (fun r => decide (n ≤ Tab.get 0 g.done r) || g.ended.contains r)

/-- The boundary time of R241. -/
def Grid.boundaryTime (g : Grid) (n : Nat) : Nat :=
  maxOf 0 ((g.times.filter (fun t => t.1 == n || (t.2.1 && decide (t.1 ≤ n)))).map (·.2.2))

/-- The bytes that one line's updates leave, from what the line holds (R220). -/
def applyWords (data : List Byte) (line : Nat) (ds : List Dadd) : List (Nat × Byte) :=
  (distinct (ds.map (·.off))).flatMap (fun o =>
    let w0 := natLE ((data.drop o).take 4)
    bytesAt (line + o) (bytesLE 4 ((ds.filter (fun d => d.off == o)).foldl (fun w d => add32 w d.u.toNat) w0)))

/-- Apply the updates of one line as one write at the boundary time (R222, R241). Updates of a line that has lost its mapping since it
accepted them are dropped, and a page that has become absent, HOSTED or REMOTE or lost W since takes them at the physical address of its
leaf, with nothing asked of the host or sent over the fabric (DESIGN CHOICE, log entry 85). -/
def State.applyLine (s : State) (g bt line : Nat) (ds : List Dadd) : State :=
  let l1 := (s.gridOf g).ctx.l1pa
  match s.walk l1 line with
  | none => s
  | some l =>
    let tag := if (s.gridOf g).declaresLine line then some g else none
    let data := s.seenLine tag line (lineOf (l.phys line))
    (s.publish l1 tag (applyWords data line (sortDadds ds)) bt none).1

/-- Updates of a line cannot be applied: its home is gone, or the tables that say where it is (R251 to R253). -/
def State.updateGone (s : State) (l1 line : Nat) : Bool :=
  match s.walk l1 line with
  | none => s.walkLost l1 line
  | some l => s.homeGone (lineOf (l.phys line))

/-- GRID_BOUNDARY: once every team has reached boundary n and every update and claim of phase n has arrived, they are
applied (R222, R306). Where the home of one is gone they wait while a fenced die may still be declared dead, which discards them and
fails the node (R252); else the node fails here, as its updates cannot be applied (DEDUCED, log entry 90). -/
def execGridBoundary (gr : Nat) (s : State) : Out :=
  let g := s.gridOf gr
  let n := g.bound + 1
  let flying := s.net.reqs.any (fun r => (s.teamOf r.team).grid == gr && (match r.kind with
    | .dadd _ _ _ p => decide (p ≤ n)
    | _ => false))
  let claims := g.claims.filter (fun k => decide (k.phase ≤ n))
  let held := s.heldOf gr
  let due := held.filter (fun d => decide (d.phase ≤ n))
  let some_ := g.ranks.any (fun r => decide (n ≤ Tab.get 0 g.done r)) || !held.isEmpty || !g.claims.isEmpty
  let ready := claims.all (fun k => match s.cmdAt k.cmd with
    | some c => c.stage == .shadow
    | none => true)
  if g.teams = 0 || g.failing.isSome || !g.reached n || flying || !some_ || !ready then .next s
  else
    let hosts := claims.flatMap (fun k => match s.cmdAt k.cmd with
      | some c => s.headerHeld (s.cmdL1 c) c.a
      | none => [])
    match hosts.isEmpty, due.find? (fun d => s.updateGone g.ctx.l1pa d.line) with
    | false, _ => .next (s.snoop (distinct hosts) true)
    | true, some d =>
      if [0, 1].any (fun i => (s.dieAt i).alive && (s.dieAt i).fenced) then .next s else .next (s.spillFull gr (d.i / 512))
    | true, none =>
      let bt := g.boundaryTime n
      let lines := distinct (due.map (·.line))
      let s1 : State := { s with lines := s.lines.map (fun (p : Nat × HLine) =>
        (p.1, { p.2 with held := p.2.held.filter (fun d => !due.contains d) })) }
      let s2 := s1.setGridOf gr { g with
        bound := n, runs := 0, held := g.held.filter (fun d => !due.contains d)
        claims := g.claims.filter (fun k => !claims.contains k)
        times := g.times.filter (fun t => t.2.1 || decide (n < t.1)) }
      let s3 := lines.foldl (fun s l => s.applyLine gr (s.timeSince s2 bt) l (due.filter (fun d => d.line == l))) s2
      .next ((claims.foldl (fun a k => insertClaim k a) []).foldl (fun s k => match s.cmdAt k.cmd with
        | some c => s.performClaim c
        | none => s) s3)

/-! ### Rebasing (R245, R246) -/

/-- REBASE_ADJUST_TIMEOUT: a core that has not adjusted has its teams saved, which adjusts it (R246). -/
def execRebaseAdjustTimeout (c : Nat) (s : State) : Out :=
  if !s.dev.rebase || (s.coreOf c).gen = s.genBit then .next s
  else
    let mine := s.teamKeys.filter (fun t => (s.teamOf t).core == c && (s.teamOf t).status == .placed)
    .next (mine.foldl (fun s t => s.preempt t 2) (s.adjust c))

/-- A core counts as adjusted: it has adjusted, no team is resident there, or it is the state of a cocooned core, which
is kept under a key from 512 on (R339). -/
def State.coreAdjusted (s : State) (c : Nat) : Bool :=
  (s.coreOf c).gen == s.genBit || decide (512 ≤ c)
    || !s.teamKeys.any (fun t => (s.teamOf t).core == c && (s.teamOf t).status == .placed)

/-- The phase record of a team that is away is converted in memory: its CT becomes the one that the rebase lowered (R246, R325). -/
def State.convertRecord (s : State) (t : Nat) : State :=
  let x := s.teamOf t
  let a := x.recVA + recPhase + 8
  let q := s.quadVa x.ctx.l1pa a
  if x.status ≠ .atBoundary || x.recVA = 0 || q / 2 ^ 32 = x.bct then s
  else (s.publishJ x.ctx.l1pa none (quadBytes a (x.bct * 2 ^ 32 + q % 2 ^ 32))).1

/-- REBASE_COMPLETE: every core has adjusted; the sweep converts every line that is still stale, and the records of the teams that
are away (R246). -/
def execRebaseComplete (s : State) : Out :=
  if !s.dev.rebase || !(Tab.keys s.cores).all s.coreAdjusted then .next s
  else
    let s1 := ((Tab.keys s.cores).filter (fun c => decide (c < 512))).foldl State.adjust s
    let s2 : State := { s1 with lines := s1.lines.map (fun p => (p.1, s1.hline p.1)) }
    let s3 := s2.teamKeys.foldl State.convertRecord s2
    .next { s3 with dev := { s3.dev with rebase := false } }

end Sys2Proof.Machine
end

