-- ==== Sys2Proof/Machine/Engine.lean ====
section
/-!
DEFINITION. The meanings of the twelve ENG instructions (R290 to R306): the checks and the operand blocks read at issue,
the ticket register, and the command that joins the engine's list.
-/

namespace Sys2Proof.Machine

open Sys2Proof

/-- Operand blocks of an ENG function: space, address, bytes (R290, R291). -/
def engBlocks (fn va vb : Nat) : List (Space × Nat × Nat) :=
  if fn = 1 then [(.cluster, va, 64)]
  else if fn = 7 then [(.global, va, 64), (.global, vb, 16)]
  else if fn = 5 || 10 ≤ fn then []
  else [(.global, va, 64)]

/-- A register that an outstanding access or a ticket keeps pending (R64, R292). -/
def Group.pendingS (g : Group) (r : SReg) : Bool :=
  g.outs.any (fun o => o.dest.sregs.contains r) || g.tickets.any (fun p => p.1 == r)

/-- A byte of an operand block, if it is at hand: in the window, the team's own, in a readable copy, at the home of an
UNCACHED page or in its attempt's shadow (R341), or arrived over the fabric (R291). -/
def State.blockByte (s : State) (sp : Space) (va : Nat) : Option Byte :=
  let t := s.cur.1
  match sp with
  | .cluster =>
    let w := s.windowOf .cluster va
    match storeByte (.window w.1) s.grp.stores w.2 with
    | some b => some b
    | none => some ((s.teamOf w.1).ls.read w.2)
  | _ =>
    match s.attrAt t va with
    | .remote => match s.grp.status with
      | .block got => pairAt got va
      | _ => none
    | .uncached => (s.walk (s.l1Of t) va).bind (fun l => (s.seenLine (s.tagOf t (lineOf va)) (lineOf va) (lineOf (l.phys va)))[va % 128]?)
    | _ => s.cachedByte t s.cur.2 va

/-- The agent's own stores and atomics to the lines of an UNCACHED block are still on their way to its home, whose bytes they change
first (R75, R234, R291). -/
def State.homePending (s : State) (va n : Nat) : Bool :=
  s.attrAt s.cur.1 va == .uncached && s.net.reqs.any (fun r => r.team == s.cur.1 && r.agent == s.cur.2
    && decide (lineOf va ≤ lineOf r.va) && decide (r.va < va + n) && (match r.kind with
      | .ustore _ _ => true
      | .atomic _ _ _ _ _ => true
      | _ => false))

/-- Ask for what a block still lacks: a renewal of its line, or a load over the fabric (lane 32 stands for a block). -/
def State.askBlock (s : State) (va n : Nat) : State :=
  let t := s.cur.1
  match s.attrAt t va with
  | .uncached => s
  | .remote =>
    let s1 := match s.grp.status with
      | .block _ => s
      | _ => s.setGrp { s.grp with status := .block [] }
    if s1.net.remote.any (fun r => r.team == t && r.agent == s.cur.2 && r.va == va && r.kind == .load n 32) then s1
    else match s1.leafFor t va with
    | some l => s1.sendRemote l.dev 1 (l.phys va) va (.load n 32)
    | none => s1
  | _ =>
    let line := lineOf va
    if s.renewing t line then s else s.sendHere line (.renew false)

/-- The bytes of the operand blocks, once all are at hand; else the state in which they have been asked for. -/
def State.readBlocks (s : State) (bl : List (Space × Nat × Nat)) : State × Option (List (List Byte)) :=
  let got := bl.map (fun b => (b, (addrRange b.2.1 b.2.2).map (s.blockByte b.1)))
  if got.all (fun p => p.2.all (·.isSome)) then
    let t := s.cur.1
    let lines := distinct ((bl.filter (fun b => b.1 != .cluster)).map (fun b => lineOf b.2.1))
    let s1 := s.markStable t lines
    let s2 := bl.foldl (fun s b =>
      if b.1 != .cluster && s.attrAt t b.2.1 == .uncached then
        match s.walk (s.l1Of t) b.2.1 with
        | some l =>
          let p := s.readAt (s.tagOf t (lineOf b.2.1)) (lineOf b.2.1) (lineOf (l.phys b.2.1))
          p.1.raiseCt s.team.core (s.timeFor s.team.core p.2)
        | none => s
      else if b.1 == .cluster then let w := s.windowOf .cluster b.2.1; s.readWindows [(w.1, w.2, b.2.2)]
      else s) s1
    (s2, some (got.map (fun p => p.2.map (·.getD 0))))
  else
    ((got.filter (fun p => !p.2.all (·.isSome))).foldl (fun s p => s.askBlock p.1.2.1 p.1.2.2) s, none)

/-- Quads of bytes. -/
def quadsOf (bs : List Byte) : List DWord :=
  (List.range (bs.length / 8)).map (fun i => BitVec.ofNat 64 (natLE ((bs.drop (8 * i)).take 8)))

/-- The range traps that LBSET and LREN raise at issue: the faulting value (R304, R305). -/
def State.engRange (s : State) (fn va vb : Nat) : Option Nat :=
  let win := s.team.window
  if fn = 10 then if va % 128 ≠ 0 || win ≤ va then some va else none
  else if fn = 11 then
    let n := bitsOf va 47 32
    if win < bitsOf va 21 0 + 2048 * n then some va
    else if win < bitsOf vb 21 0 + 2048 * n then some vb else none
  else none

/-- A core copy engine holds 32 commands in flight (R291). -/
def State.engFull (s : State) (fn : Nat) : Bool :=
  decide (fn ≤ 4) && decide (32 ≤ (s.net.cmds.filter (fun c =>
    c.slot.isNone && decide (c.fn ≤ 4) && c.core == s.team.core && c.stage != .deferred)).length)

/-- The command joins the list: its ticket register is pending and the team's count of commands rises (R291, R402). -/
def State.engQueue (s : State) (fn : Nat) (d : SReg) (va vb : Nat) (pkt desc : List DWord) : State :=
  let t := s.cur.1
  let x := s.team
  let g := s.grp
  let id := s.net.nextId
  let c : Cmd := { id := id, fn := fn, team := t, agent := s.cur.2, asid := x.asid, core := x.core, sd := some d, pkt := pkt
                   a := va, b := vb, desc := desc, slot := none, seq := x.engCount, t := s.ctSent x.core, stage := .queued
                   shadow := [], fetched := [], await := [], lines := [], ref := 0, handle := 0, status := 0, count := 0
                   fva := 0, w := 0, vals := [], first := 0, asked := [], closed := [], sent := [], taken := 0 }
  let det := fn == 6 && bitOf vb 16
  let s1 := { s with net := { s.net with cmds := s.net.cmds ++ [c], nextId := id + 1 } }
  let s2 := s1.setTeam { x with engCount := x.engCount + 1, used := { x.used with engine := true }
                                lbase := if fn = 10 then va else x.lbase }
  let s3 := s2.setGrp { g with tickets := g.tickets ++ [(d, id)], claimQ := if det then g.claimQ + 1 else g.claimQ
                               status := .run }
  if det then
    let gr := s3.gridOf x.grid
    s3.setGridOf x.grid { gr with claims := gr.claims ++
      [{ grid := x.grid, c := x.rank * 32 + s.cur.2, q := g.claimQ, cmd := id, phase := x.phase + 1 }] }
  else s3

/-- The form of ENG (R291): ticket register, operand blocks, capacity, start. -/
def State.eng (s : State) (fn : Nat) (d a : SReg) (vb : Nat) : State :=
  let g := s.grp
  let va := (g.getS a).toNat
  if d.val = 63 || g.pendingS d then s.raise trapTicket 0
  else
    let bl := engBlocks fn va vb
    match verdict (bl.map (fun b => s.chk b.1 s.cur.1 b.2.1 b.2.2 .load)) with
    | .ok => if (bl.filter (fun b => b.1 != .cluster)).any (fun b => s.loadHeld .global [{ lane := 0, va := b.2.1, n := b.2.2 }]
          || s.homePending b.2.1 b.2.2) then s else match s.engRange fn va vb with
      | some f => s.raise trapRange f
      | none =>
        let r := s.readBlocks bl
        match r.2 with
        | none => r.1
        | some bytes =>
          if s.engFull fn then r.1
          else (r.1.engQueue fn d va vb (quadsOf (bytes.getD 0 [])) (quadsOf (bytes.getD 1 []))).advance
    | v => s.stop v false

/-- COPY (R299). -/
def execCopy (d a : SReg) (s : State) : Out := .next (s.eng 0 d a 0)
/-- COPYW (R299). -/
def execCopyw (d a : SReg) (s : State) : Out := .next (s.eng 1 d a 0)
/-- MCAST (R152, R299). -/
def execMcast (d a : SReg) (s : State) : Out := .next (s.eng 2 d a 0)
/-- GATH (R300). -/
def execGath (d a b : SReg) (s : State) : Out := .next (s.eng 3 d a (s.grp.getS b).toNat)
/-- SCAT (R300). -/
def execScat (d a b : SReg) (s : State) : Out := .next (s.eng 4 d a (s.grp.getS b).toNat)
/-- PUBL (R303). -/
def execPubl (d a : SReg) (s : State) : Out := .next (s.eng 5 d a 0)
/-- QPKT (R306). -/
def execQpkt (d a b : SReg) (s : State) : Out := .next (s.eng 6 d a (s.grp.getS b).toNat)
/-- PUTS (R301). -/
def execPuts (d a b : SReg) (s : State) : Out := .next (s.eng 7 d a (s.grp.getS b).toNat)
/-- GETR (R302). -/
def execGetr (d a : SReg) (s : State) : Out := .next (s.eng 8 d a 0)
/-- COLL (R378). -/
def execColl (d a : SReg) (s : State) : Out := .next (s.eng 9 d a 0)
/-- LBSET (R304). -/
def execLbset (d a : SReg) (s : State) : Out := .next (s.eng 10 d a 0)
/-- LREN (R305). -/
def execLren (d a b : SReg) (s : State) : Out := .next (s.eng 11 d a (s.grp.getS b).toNat)

end Sys2Proof.Machine
end

