-- ==== Sys2Proof/WellFormed.lean ====
section
/-!
DEFINITION. The operand limits of R39, R41, R44, R48 and R128 that the fields of `Instr` do not carry in their types.
-/

namespace Sys2Proof

/-- The operands are within the limits of the opcode map; a word that breaks one of them traps 0x01 (R50). The
events carry no word and no such limit. -/
def Instr.wf : Instr → Bool
  | .iadd _ _ _ _ _ _ => true
  | .isub _ _ _ _ _ _ => true
  | .imul _ _ _ _ _ _ => true
  | .imulh _ _ _ _ _ _ => true
  | .nmulhLane _ _ _ _ _ _ => true
  | .imad _ _ _ _ _ _ => true
  | .imin _ _ _ _ _ _ => true
  | .imax _ _ _ _ _ _ => true
  | .nminLane _ _ _ _ _ _ => true
  | .nmaxLane _ _ _ _ _ _ => true
  | .andLane _ _ _ _ _ _ => true
  | .orLane _ _ _ _ _ _ => true
  | .xorLane _ _ _ _ _ _ => true
  | .andnLane _ _ _ _ _ _ => true
  | .shlLane _ _ _ _ _ _ => true
  | .shrLane _ _ _ _ _ _ => true
  | .sarLane _ _ _ _ _ _ => true
  | .hadd2 _ _ _ _ _ _ => true
  | .hsub2 _ _ _ _ _ _ => true
  | .hmin2 _ _ _ _ _ _ => true
  | .hmax2 _ _ _ _ _ _ => true
  | .hclt2 _ _ _ _ _ _ => true
  | .icmp p c _ _ _ _ _ => p != 0 && c != .un && c != .ord
  | .ncmp p c _ _ _ _ _ => p != 0 && c != .un && c != .ord
  | .fcmp p _ _ _ _ _ _ => p != 0
  | .sel _ _ _ _ _ _ => true
  | .fadd _ _ _ _ _ _ => true
  | .fsub _ _ _ _ _ _ => true
  | .fmul _ _ _ _ _ _ => true
  | .ffma _ _ _ _ _ _ => true
  | .fmin _ _ _ _ _ _ => true
  | .fmax _ _ _ _ _ _ => true
  | .hfma2 _ _ _ _ _ _ => true
  | .bfma2 _ _ _ _ _ _ => true
  | .shfl _ _ _ _ _ _ => true
  | .shfliIndex _ _ _ _ _ => true
  | .shfliUp _ _ _ _ _ => true
  | .shfliDown _ _ _ _ _ => true
  | .shfliXor _ _ _ _ _ => true
  | .lscanAddI32 _ _ _ _ => true
  | .lscanAddF32 _ _ _ _ => true
  | .lscanMaxI32 _ _ _ _ => true
  | .lscanMinI32 _ _ _ _ => true
  | .iaddi _ _ _ _ _ => true
  | .andiLane _ _ _ _ _ => true
  | .oriLane _ _ _ _ _ => true
  | .xoriLane _ _ _ _ _ => true
  | .shliLane _ _ _ _ _ => true
  | .shriLane _ _ _ _ _ => true
  | .sariLane _ _ _ _ _ => true
  | .icmpi p c _ _ _ _ => p != 0 && c != .un && c != .ord
  | .iadds _ _ _ _ _ _ => true
  | .imuls _ _ _ _ _ _ => true
  | .ffmas _ _ _ _ _ _ => true
  | .fmuls _ _ _ _ _ _ => true
  | .bcast _ _ _ _ => true
  | .ldg d _ _ w _ _ => w != .x4 || d.val <= 124
  | .stg d _ _ w _ _ => w != .x4 || d.val <= 124
  | .ldl d _ _ w _ _ => w != .x4 || d.val <= 124
  | .stl d _ _ w _ _ => w != .x4 || d.val <= 124
  | .ldw d _ _ w _ _ => w != .x4 || d.val <= 124
  | .stw d _ _ w _ _ => w != .x4 || d.val <= 124
  | .ldk d _ _ w _ _ => w != .x4 || d.val <= 124
  | .ldgp _ _ _ p _ => p != 0
  | .ldlt _ _ _ w _ _ => w != .x4
  | .atomgAddI32 _ _ _ _ => true
  | .atomgAddF32 _ _ _ _ => true
  | .atomgMinI32 _ _ _ _ => true
  | .atomgMaxI32 _ _ _ _ => true
  | .atomgOr _ _ _ _ => true
  | .atomgXchg _ _ _ _ => true
  | .atomgCas d _ _ _ => d.val <= 126
  | .atomgDaddF32 _ _ _ _ => true
  | .atomlAddI32 _ _ _ _ => true
  | .atomlAddF32 _ _ _ _ => true
  | .atomlMinI32 _ _ _ _ => true
  | .atomlMaxI32 _ _ _ _ => true
  | .atomlAnd _ _ _ _ => true
  | .atomlOr _ _ _ _ => true
  | .atomlXchg _ _ _ _ => true
  | .atomlCas d _ _ _ => d.val <= 126
  | .atomwAddI32 _ _ _ _ => true
  | .atomwAddF32 _ _ _ _ => true
  | .atomwMinI32 _ _ _ _ => true
  | .atomwMaxI32 _ _ _ _ => true
  | .atomwAnd _ _ _ _ => true
  | .atomwOr _ _ _ _ => true
  | .atomwXchg _ _ _ _ => true
  | .atomwCas d _ _ _ => d.val <= 126
  | .mov _ _ _ _ => true
  | .not _ _ _ _ => true
  | .neg _ _ _ _ => true
  | .abs _ _ _ _ => true
  | .clzLane _ _ _ _ => true
  | .popcLane _ _ _ _ => true
  | .brev _ _ _ _ => true
  | .sext8 _ _ _ _ => true
  | .sext16 _ _ _ _ => true
  | .fneg _ _ _ _ => true
  | .fabs _ _ _ _ => true
  | .frcp _ _ _ _ => true
  | .frsq _ _ _ _ => true
  | .fexp2 _ _ _ _ => true
  | .flog2 _ _ _ _ => true
  | .fsin _ _ _ _ => true
  | .fcos _ _ _ _ => true
  | .frnd _ _ _ _ => true
  | .cvtfi _ _ _ _ => true
  | .cvtfiz _ _ _ _ => true
  | .cvtif _ _ _ _ => true
  | .cvtnf _ _ _ _ => true
  | .pkh _ _ _ _ => true
  | .pkbf _ _ _ _ => true
  | .upkhl _ _ _ _ => true
  | .upkhh _ _ _ _ => true
  | .pk8e4 _ _ _ _ => true
  | .pk8e5 _ _ _ _ => true
  | .upk8e4 _ _ _ _ => true
  | .upk8e5 _ _ _ _ => true
  | .upkf4 _ _ _ _ => true
  | .laneid _ _ => true
  | .add _ _ _ _ _ => true
  | .sub _ _ _ _ _ => true
  | .mul _ _ _ _ _ => true
  | .mulh _ _ _ _ _ => true
  | .nmulhUniform _ _ _ _ _ => true
  | .andUniform _ _ _ _ _ => true
  | .orUniform _ _ _ _ _ => true
  | .xorUniform _ _ _ _ _ => true
  | .andnUniform _ _ _ _ _ => true
  | .shlUniform _ _ _ _ _ => true
  | .shrUniform _ _ _ _ _ => true
  | .sarUniform _ _ _ _ _ => true
  | .min _ _ _ _ _ => true
  | .max _ _ _ _ _ => true
  | .nminUniform _ _ _ _ _ => true
  | .nmaxUniform _ _ _ _ _ => true
  | .seq _ _ _ _ _ => true
  | .sne _ _ _ _ _ => true
  | .slt _ _ _ _ _ => true
  | .sltn _ _ _ _ _ => true
  | .sdiv _ _ _ _ _ => true
  | .ndiv _ _ _ _ _ => true
  | .srem _ _ _ _ _ => true
  | .nrem _ _ _ _ _ => true
  | .popcUniform _ _ _ => true
  | .clzUniform _ _ _ => true
  | .addi _ _ _ => true
  | .andiUniform _ _ _ => true
  | .oriUniform _ _ _ => true
  | .xoriUniform _ _ _ => true
  | .shliUniform _ _ _ => true
  | .shriUniform _ _ _ => true
  | .sariUniform _ _ _ => true
  | .slti _ _ _ => true
  | .movw _ _ _ _ => true
  | .ldgs _ _ _ _ => true
  | .stgs _ _ _ _ => true
  | .ldls _ _ _ _ => true
  | .stls _ _ _ _ => true
  | .ldks _ _ _ _ => true
  | .vget _ _ _ _ => true
  | .vput _ _ _ => true
  | .ballot _ _ _ _ => true
  | .redlAddI32 _ _ _ => true
  | .redlAddF32 _ _ _ => true
  | .redlMinI32 _ _ _ => true
  | .redlMaxI32 _ _ _ => true
  | .redlAnd _ _ _ => true
  | .redlOr _ _ _ => true
  | .kmovFromLane _ p _ => p != 0
  | .kmovToLane _ _ => true
  | .kand d _ _ => d != 0
  | .kor d _ _ => d != 0
  | .kxor d _ _ => d != 0
  | .kandn d _ _ => d != 0
  | .knot d _ => d != 0
  | .kfroms d _ => d != 0
  | .ktos _ _ => true
  | .b _ _ => true
  | .bs _ _ _ _ => true
  | .bk _ _ _ _ => true
  | .call _ _ => true
  | .jr _ _ => true
  | .jrCall _ _ _ => true
  | .jrReturn _ _ => true
  | .phase e c => !e || c == 0
  | .cbar e c => !e || c == 0
  | .arrive _ => true
  | .waitb _ => true
  | .spin _ _ => true
  | .fenceAcquire _ => true
  | .fenceRelease _ => true
  | .fenceFull _ => true
  | .fork _ _ => true
  | .rend _ => true
  | .elect _ => true
  | .trap c => decide (256 ≤ c.toNat)
  | .tret => true
  | .sysc _ => true
  | .mfc _ _ => true
  | .mtc _ _ => true
  | .halt => true
  | .nop => true
  | .rnxt _ => true
  | .rjmp _ => true
  | .rdraw _ _ _ => true
  | .pgreq _ => true
  | .launch _ => true
  | .ntok _ => true
  | .mcfg _ _ _ => true
  | .mma _ _ _ _ _ _ _ => true
  | .mmax _ _ _ _ _ _ _ => true
  | .mmz _ _ => true
  | .mdrain _ _ _ _ => true
  | .msave _ _ => true
  | .mload _ _ => true
  | .msmx _ _ _ => true
  | .mlint d _ => d.val % 2 == 0 && decide (d.val ≤ 60)
  | .mtbl _ => true
  | .copy _ _ => true
  | .copyw _ _ => true
  | .mcast _ _ => true
  | .gath _ _ _ => true
  | .scat _ _ _ => true
  | .publ _ _ => true
  | .qpkt _ _ _ => true
  | .puts _ _ _ => true
  | .getr _ _ => true
  | .coll _ _ => true
  | .lbset _ _ => true
  | .lren _ _ _ => true
  | .uatomAdd _ _ _ _ _ _ => true
  | .uatomMin _ _ _ _ _ _ => true
  | .uatomMax _ _ _ _ _ _ => true
  | .uatomAnd _ _ _ _ _ _ => true
  | .uatomOr _ _ _ _ _ _ => true
  | .uatomXor _ _ _ _ _ _ => true
  | .uatomXchg _ _ _ _ _ _ => true
  | .uatomCas _ _ _ _ _ _ => true
  | .phaseBoundaryComplete _ => true
  | .cbarBoundaryComplete _ => true
  | .teamEnd _ => true
  | .barrierArrivalHeldCounted _ _ => true
  | .homeRenewal _ _ _ => true
  | .renewalReply _ _ => true
  | .homePublication _ _ => true
  | .publicationReply _ => true
  | .homeAtomic _ _ => true
  | .atomicReply _ => true
  | .uncachedAccessAtHome _ _ => true
  | .forcedVisibilityPoint _ => true
  | .daddUpdateArrival _ => true
  | .gridBoundary _ => true
  | .rebaseAdjustTimeout _ => true
  | .rebaseComplete => true
  | .linkWake _ => true
  | .linkWakeTimeout _ => true
  | .linkRetrainFailure _ => true
  | .dieSelfFence _ => true
  | .dieDeclaredDead _ => true
  | .dieRejoin _ => true
  | .hostWrite _ _ => true
  | .hostRead _ _ _ => true
  | .hostLinkFailure => true
  | .remoteResponse _ _ => true
  | .remoteTimeout _ => true
  | .remoteAccessIngress _ _ _ => true
  | .lsFillComplete _ _ => true
  | .lsStallTimeout _ _ => true
  | .pageResident _ _ _ => true
  | .readDuplicateCollapse _ _ => true
  | .engineCommandStart _ => true
  | .enginePublication _ => true
  | .engineCommandFault _ _ _ => true
  | .ticketComplete _ => true
  | .mcastLanding _ _ => true
  | .queueSlotServe _ _ => true
  | .putsSignal _ => true
  | .collectiveMessage _ _ _ _ => true
  | .collectivePartnerTimeout _ _ => true
  | .engineRemoteTimeout _ => true
  | .lateReply _ => true
  | .teamTrapHalt _ => true
  | .fpTrapCollectionClose _ _ => true
  | .misalignedEmulation _ _ => true
  | .handlerPlace _ _ => true
  | .watchdog _ => true
  | .teamPlace _ _ => true
  | .quantExpiry _ => true
  | .preemptSchedulerChoice _ _ => true
  | .preemptDrain _ _ => true
  | .preemptSave _ _ => true
  | .preemptFlush _ _ => true
  | .drainLimitExpiry _ => true
  | .carveOutChange _ => true
  | .carveOutTimeout _ => true
  | .coreRetire _ => true
  | .coreReturn _ => true
  | .cocoonOut _ => true
  | .cocoonIn _ => true
  | .graphSubmit _ => true
  | .launchRequest _ => true
  | .ntokRequest _ => true
  | .nodeDispatch _ _ _ => true
  | .teamSteal _ _ => true
  | .nodeCommit _ => true
  | .nodeFail _ => true
  | .graphEnd _ => true
  | .fabricStationDown _ => true
  | .deviceUnreachable _ => true
  | .gateDie _ => true
  | .ungateDie _ => true
  | .dieReset _ => true
  | .bar0RegisterWrite _ _ => true
  | .d3hotEntry => true
  | .d0Return => true
  | .auxiliaryPowerOnly => true
  | .moduleReset _ _ => true
  | .powerLimitSet _ => true
  | .pldmBaseDiscovery => true
  | .pldmMonitoring _ => true
  | .pldmFirmwareUpdate _ _ => true
  | .getMeasurements => true
  | .rmaEntryRequest _ => true
  | .debugLevelRequest _ _ => true
  | .debugAccess _ => true
  | .bridgeLinkSleep _ => true
  | .bridgeLinkUp _ => true
  | .bridgeLinkDown _ => true
  | .fabricStationUp _ _ => true
  | .hostLinkRetrained => true
  | .hdmDecoderCommit _ _ => true
  | .backInvalidateResponse _ _ => true
  | .cxlCacheResponse _ _ => true
  | .pageRequestClosed _ _ => true
  | .spdmSecuredSession => true

end Sys2Proof
end

