-- ==== Sys2Proof/Decode.lean ====
section
/-!
DEFINITION. The decoder and the encoder, from the formats and the opcode map of R38 to R50. A word is read as a
natural number with bit 0 its least significant bit; a word that is no instruction is refused with the reason, and
the machine traps 0x01 on it (R50).
-/

namespace Sys2Proof

/-- Why a word is not an instruction (R50). -/
inductive DecodeError where
  /-- a major that R42 and R48 do not assign -/
  | unassignedMajor
  /-- a function or selector value that R43 to R49 do not assign, or a non-zero must-be-zero field beside one -/
  | unassignedFunction
  /-- a non-zero bit in a field that must be 0 (R40, R42, R48) -/
  | reservedBits
  /-- a condition code that R41 or R47 does not assign -/
  | badCondition
  /-- a 6-bit predicate field of 8 or more (R39) -/
  | badPredicate
  /-- a start or join mask of 0 (R136, R137) -/
  | badMask
  /-- an operand outside the limits of R39, R41, R44, R48 or R128 -/
  | operandLimits
  /-- fewer than four bytes -/
  | tooShort
  deriving DecidableEq, Repr

/-- Bits `[lo + len - 1 : lo]` of `w`. -/
def field (w lo len : Nat) : Nat := w / 2 ^ lo % 2 ^ len

theorem field_lt (w lo len : Nat) : field w lo len < 2 ^ len :=
  Nat.mod_lt _ (Nat.two_pow_pos len)

def flagAt (w lo : Nat) : Bool := field w lo 1 == 1
def vregAt (w lo : Nat) : VReg := ⟨field w lo 7, field_lt w lo 7⟩
def sregAt (w lo : Nat) : SReg := ⟨field w lo 6, field_lt w lo 6⟩
def kregAt (w lo : Nat) : KReg := ⟨field w lo 3, field_lt w lo 3⟩
def fin4At (w lo : Nat) : Fin 4 := ⟨field w lo 2, field_lt w lo 2⟩
def fin8At (w lo : Nat) : Fin 8 := ⟨field w lo 3, field_lt w lo 3⟩
def fin32At (w lo : Nat) : Fin 32 := ⟨field w lo 5, field_lt w lo 5⟩

/-- A 6-bit predicate field, which must hold a value below 8 (R39). -/
def kreg6At? (w lo : Nat) : Option KReg :=
  if h : field w lo 6 < 8 then some ⟨field w lo 6, h⟩ else none

/-- The code of a `Cond` in its field. -/
def Cond.code : Cond → Nat
  | .eq => 0
  | .ne => 1
  | .lt => 2
  | .le => 3
  | .gt => 4
  | .ge => 5
  | .un => 6
  | .ord => 7

/-- The `Cond` of a code, if one is assigned. -/
def Cond.ofCode? : Nat → Option Cond
  | 0 => some .eq
  | 1 => some .ne
  | 2 => some .lt
  | 3 => some .le
  | 4 => some .gt
  | 5 => some .ge
  | 6 => some .un
  | 7 => some .ord
  | _ => none

/-- The code of a `BsCond` in its field. -/
def BsCond.code : BsCond → Nat
  | .eq => 0
  | .ne => 1
  | .lt => 2
  | .ge => 3
  | .ltn => 4
  | .gen => 5

/-- The `BsCond` of a code, if one is assigned. -/
def BsCond.ofCode? : Nat → Option BsCond
  | 0 => some .eq
  | 1 => some .ne
  | 2 => some .lt
  | 3 => some .ge
  | 4 => some .ltn
  | 5 => some .gen
  | _ => none

/-- The code of a `BkMode` in its field. -/
def BkMode.code : BkMode → Nat
  | .any => 0
  | .all => 1
  | .none => 2
  | .each => 3

/-- The `BkMode` of a 2-bit code. -/
def BkMode.ofCode : Nat → BkMode
  | 0 => .any
  | 1 => .all
  | 2 => .none
  | _ => .each

/-- The code of a `LSize` in its field. -/
def LSize.code : LSize → Nat
  | .b8 => 0
  | .b16 => 1
  | .b32 => 2
  | .x4 => 3

/-- The `LSize` of a 2-bit code. -/
def LSize.ofCode : Nat → LSize
  | 0 => .b8
  | 1 => .b16
  | 2 => .b32
  | _ => .x4

/-- The code of a `USize` in its field. -/
def USize.code : USize → Nat
  | .b8 => 0
  | .b16 => 1
  | .b32 => 2
  | .b64 => 3

/-- The `USize` of a 2-bit code. -/
def USize.ofCode : Nat → USize
  | 0 => .b8
  | 1 => .b16
  | 2 => .b32
  | _ => .b64

/-- The code of a `Scope` in its field. -/
def Scope.code : Scope → Nat
  | .team => 0
  | .cluster => 1
  | .device => 2
  | .system => 3

/-- The `Scope` of a 2-bit code. -/
def Scope.ofCode : Nat → Scope
  | 0 => .team
  | 1 => .cluster
  | 2 => .device
  | _ => .system

/-- The code of a `UScope` in its field. -/
def UScope.code : UScope → Nat
  | .cluster => 0
  | .device => 1
  | .system => 2

/-- The `UScope` of a code, if one is assigned. -/
def UScope.ofCode? : Nat → Option UScope
  | 0 => some .cluster
  | 1 => some .device
  | 2 => some .system
  | _ => none

/-- The code of a `SideMask` in its field. -/
def SideMask.code : SideMask → Nat
  | .fore => 1
  | .hind => 2
  | .both => 3

/-- The `SideMask` of a code, if one is assigned. -/
def SideMask.ofCode? : Nat → Option SideMask
  | 1 => some .fore
  | 2 => some .hind
  | 3 => some .both
  | _ => none

/-- The instruction, if its operands are within their limits. -/
def accept (i : Instr) : Except DecodeError Instr := if i.wf then .ok i else .error .operandLimits

/-- Major 0x15 of the L-form: ATOMG_ADD_I32 to ATOMG_DADD_F32. -/
def decodeL15 (w : Nat) : Except DecodeError Instr :=
  if field w 2 3 = 0 then accept (.atomgAddI32 (vregAt w 18) (vregAt w 11) (sregAt w 5) (fin4At w 0))
      else if field w 2 3 = 1 then accept (.atomgAddF32 (vregAt w 18) (vregAt w 11) (sregAt w 5) (fin4At w 0))
      else if field w 2 3 = 2 then accept (.atomgMinI32 (vregAt w 18) (vregAt w 11) (sregAt w 5) (fin4At w 0))
      else if field w 2 3 = 3 then accept (.atomgMaxI32 (vregAt w 18) (vregAt w 11) (sregAt w 5) (fin4At w 0))
      else if field w 2 3 = 4 then accept (.atomgOr (vregAt w 18) (vregAt w 11) (sregAt w 5) (fin4At w 0))
      else if field w 2 3 = 5 then accept (.atomgXchg (vregAt w 18) (vregAt w 11) (sregAt w 5) (fin4At w 0))
      else if field w 2 3 = 6 then accept (.atomgCas (vregAt w 18) (vregAt w 11) (sregAt w 5) (fin4At w 0))
      else if field w 2 3 = 7 then accept (.atomgDaddF32 (vregAt w 18) (vregAt w 11) (sregAt w 5) (fin4At w 0))
      else .error .unassignedFunction

/-- Major 0x17 of the L-form: ATOML_ADD_I32 to ATOML_CAS. -/
def decodeL17 (w : Nat) : Except DecodeError Instr :=
  if field w 2 3 = 0 then accept (.atomlAddI32 (vregAt w 18) (vregAt w 11) (sregAt w 5) (fin4At w 0))
      else if field w 2 3 = 1 then accept (.atomlAddF32 (vregAt w 18) (vregAt w 11) (sregAt w 5) (fin4At w 0))
      else if field w 2 3 = 2 then accept (.atomlMinI32 (vregAt w 18) (vregAt w 11) (sregAt w 5) (fin4At w 0))
      else if field w 2 3 = 3 then accept (.atomlMaxI32 (vregAt w 18) (vregAt w 11) (sregAt w 5) (fin4At w 0))
      else if field w 2 3 = 4 then accept (.atomlAnd (vregAt w 18) (vregAt w 11) (sregAt w 5) (fin4At w 0))
      else if field w 2 3 = 5 then accept (.atomlOr (vregAt w 18) (vregAt w 11) (sregAt w 5) (fin4At w 0))
      else if field w 2 3 = 6 then accept (.atomlXchg (vregAt w 18) (vregAt w 11) (sregAt w 5) (fin4At w 0))
      else if field w 2 3 = 7 then accept (.atomlCas (vregAt w 18) (vregAt w 11) (sregAt w 5) (fin4At w 0))
      else .error .unassignedFunction

/-- Major 0x25 of the L-form: SHFLI_INDEX to SHFLI_XOR. -/
def decodeL25 (w : Nat) : Except DecodeError Instr :=
  if field w 8 3 = 0 then accept (.shfliIndex (vregAt w 18) (vregAt w 11) (BitVec.ofNat 5 (field w 3 5)) (flagAt w 2) (fin4At w 0))
      else if field w 8 3 = 1 then accept (.shfliUp (vregAt w 18) (vregAt w 11) (BitVec.ofNat 5 (field w 3 5)) (flagAt w 2) (fin4At w 0))
      else if field w 8 3 = 2 then accept (.shfliDown (vregAt w 18) (vregAt w 11) (BitVec.ofNat 5 (field w 3 5)) (flagAt w 2) (fin4At w 0))
      else if field w 8 3 = 3 then accept (.shfliXor (vregAt w 18) (vregAt w 11) (BitVec.ofNat 5 (field w 3 5)) (flagAt w 2) (fin4At w 0))
      else .error .unassignedFunction

/-- Major 0x26 of the L-form: LSCAN_ADD_I32 to LSCAN_MIN_I32. -/
def decodeL26 (w : Nat) : Except DecodeError Instr :=
  if field w 3 8 = 0 then accept (.lscanAddI32 (vregAt w 18) (vregAt w 11) (flagAt w 2) (fin4At w 0))
      else if field w 3 8 = 1 then accept (.lscanAddF32 (vregAt w 18) (vregAt w 11) (flagAt w 2) (fin4At w 0))
      else if field w 3 8 = 2 then accept (.lscanMaxI32 (vregAt w 18) (vregAt w 11) (flagAt w 2) (fin4At w 0))
      else if field w 3 8 = 3 then accept (.lscanMinI32 (vregAt w 18) (vregAt w 11) (flagAt w 2) (fin4At w 0))
      else .error .unassignedFunction

/-- Major 0x3D of the L-form: ATOMW_ADD_I32 to ATOMW_CAS. -/
def decodeL3D (w : Nat) : Except DecodeError Instr :=
  if field w 2 3 = 0 then accept (.atomwAddI32 (vregAt w 18) (vregAt w 11) (sregAt w 5) (fin4At w 0))
      else if field w 2 3 = 1 then accept (.atomwAddF32 (vregAt w 18) (vregAt w 11) (sregAt w 5) (fin4At w 0))
      else if field w 2 3 = 2 then accept (.atomwMinI32 (vregAt w 18) (vregAt w 11) (sregAt w 5) (fin4At w 0))
      else if field w 2 3 = 3 then accept (.atomwMaxI32 (vregAt w 18) (vregAt w 11) (sregAt w 5) (fin4At w 0))
      else if field w 2 3 = 4 then accept (.atomwAnd (vregAt w 18) (vregAt w 11) (sregAt w 5) (fin4At w 0))
      else if field w 2 3 = 5 then accept (.atomwOr (vregAt w 18) (vregAt w 11) (sregAt w 5) (fin4At w 0))
      else if field w 2 3 = 6 then accept (.atomwXchg (vregAt w 18) (vregAt w 11) (sregAt w 5) (fin4At w 0))
      else if field w 2 3 = 7 then accept (.atomwCas (vregAt w 18) (vregAt w 11) (sregAt w 5) (fin4At w 0))
      else .error .unassignedFunction

/-- Major 0x3E of the L-form: MOV to LANEID. -/
def decodeL3E (w : Nat) : Except DecodeError Instr :=
  if field w 2 1 = 0 ∧ field w 4 7 = 0 then accept (.mov (vregAt w 18) (vregAt w 11) (flagAt w 3) (fin4At w 0))
      else if field w 2 1 = 0 ∧ field w 4 7 = 1 then accept (.not (vregAt w 18) (vregAt w 11) (flagAt w 3) (fin4At w 0))
      else if field w 2 1 = 0 ∧ field w 4 7 = 2 then accept (.neg (vregAt w 18) (vregAt w 11) (flagAt w 3) (fin4At w 0))
      else if field w 2 1 = 0 ∧ field w 4 7 = 3 then accept (.abs (vregAt w 18) (vregAt w 11) (flagAt w 3) (fin4At w 0))
      else if field w 2 1 = 0 ∧ field w 4 7 = 4 then accept (.clzLane (vregAt w 18) (vregAt w 11) (flagAt w 3) (fin4At w 0))
      else if field w 2 1 = 0 ∧ field w 4 7 = 5 then accept (.popcLane (vregAt w 18) (vregAt w 11) (flagAt w 3) (fin4At w 0))
      else if field w 2 1 = 0 ∧ field w 4 7 = 6 then accept (.brev (vregAt w 18) (vregAt w 11) (flagAt w 3) (fin4At w 0))
      else if field w 2 1 = 0 ∧ field w 4 7 = 7 then accept (.sext8 (vregAt w 18) (vregAt w 11) (flagAt w 3) (fin4At w 0))
      else if field w 2 1 = 0 ∧ field w 4 7 = 8 then accept (.sext16 (vregAt w 18) (vregAt w 11) (flagAt w 3) (fin4At w 0))
      else if field w 2 1 = 0 ∧ field w 4 7 = 9 then accept (.fneg (vregAt w 18) (vregAt w 11) (flagAt w 3) (fin4At w 0))
      else if field w 2 1 = 0 ∧ field w 4 7 = 10 then accept (.fabs (vregAt w 18) (vregAt w 11) (flagAt w 3) (fin4At w 0))
      else if field w 2 1 = 0 ∧ field w 4 7 = 11 then accept (.frcp (vregAt w 18) (vregAt w 11) (flagAt w 3) (fin4At w 0))
      else if field w 2 1 = 0 ∧ field w 4 7 = 12 then accept (.frsq (vregAt w 18) (vregAt w 11) (flagAt w 3) (fin4At w 0))
      else if field w 2 1 = 0 ∧ field w 4 7 = 13 then accept (.fexp2 (vregAt w 18) (vregAt w 11) (flagAt w 3) (fin4At w 0))
      else if field w 2 1 = 0 ∧ field w 4 7 = 14 then accept (.flog2 (vregAt w 18) (vregAt w 11) (flagAt w 3) (fin4At w 0))
      else if field w 2 1 = 0 ∧ field w 4 7 = 15 then accept (.fsin (vregAt w 18) (vregAt w 11) (flagAt w 3) (fin4At w 0))
      else if field w 2 1 = 0 ∧ field w 4 7 = 16 then accept (.fcos (vregAt w 18) (vregAt w 11) (flagAt w 3) (fin4At w 0))
      else if field w 2 1 = 0 ∧ field w 4 7 = 17 then accept (.frnd (vregAt w 18) (vregAt w 11) (flagAt w 3) (fin4At w 0))
      else if field w 2 1 = 0 ∧ field w 4 7 = 18 then accept (.cvtfi (vregAt w 18) (vregAt w 11) (flagAt w 3) (fin4At w 0))
      else if field w 2 1 = 0 ∧ field w 4 7 = 19 then accept (.cvtfiz (vregAt w 18) (vregAt w 11) (flagAt w 3) (fin4At w 0))
      else if field w 2 1 = 0 ∧ field w 4 7 = 20 then accept (.cvtif (vregAt w 18) (vregAt w 11) (flagAt w 3) (fin4At w 0))
      else if field w 2 1 = 0 ∧ field w 4 7 = 21 then accept (.cvtnf (vregAt w 18) (vregAt w 11) (flagAt w 3) (fin4At w 0))
      else if field w 2 1 = 0 ∧ field w 4 7 = 22 then accept (.pkh (vregAt w 18) (vregAt w 11) (flagAt w 3) (fin4At w 0))
      else if field w 2 1 = 0 ∧ field w 4 7 = 23 then accept (.pkbf (vregAt w 18) (vregAt w 11) (flagAt w 3) (fin4At w 0))
      else if field w 2 1 = 0 ∧ field w 4 7 = 24 then accept (.upkhl (vregAt w 18) (vregAt w 11) (flagAt w 3) (fin4At w 0))
      else if field w 2 1 = 0 ∧ field w 4 7 = 25 then accept (.upkhh (vregAt w 18) (vregAt w 11) (flagAt w 3) (fin4At w 0))
      else if field w 2 1 = 0 ∧ field w 4 7 = 26 then accept (.pk8e4 (vregAt w 18) (vregAt w 11) (flagAt w 3) (fin4At w 0))
      else if field w 2 1 = 0 ∧ field w 4 7 = 27 then accept (.pk8e5 (vregAt w 18) (vregAt w 11) (flagAt w 3) (fin4At w 0))
      else if field w 2 1 = 0 ∧ field w 4 7 = 28 then accept (.upk8e4 (vregAt w 18) (vregAt w 11) (flagAt w 3) (fin4At w 0))
      else if field w 2 1 = 0 ∧ field w 4 7 = 29 then accept (.upk8e5 (vregAt w 18) (vregAt w 11) (flagAt w 3) (fin4At w 0))
      else if field w 2 1 = 0 ∧ field w 4 7 = 30 then accept (.upkf4 (vregAt w 18) (vregAt w 11) (flagAt w 3) (fin4At w 0))
      else if field w 2 16 = 124 then accept (.laneid (vregAt w 18) (fin4At w 0))
      else .error .unassignedFunction

/-- Major 0x00 of the U-form: ADD to CLZ_UNIFORM. -/
def decodeU00 (w : Nat) : Except DecodeError Instr :=
  if field w 0 5 = 0 then accept (.add (sregAt w 19) (sregAt w 13) (sregAt w 7) (flagAt w 6) (flagAt w 5))
      else if field w 0 5 = 1 then accept (.sub (sregAt w 19) (sregAt w 13) (sregAt w 7) (flagAt w 6) (flagAt w 5))
      else if field w 0 5 = 2 then accept (.mul (sregAt w 19) (sregAt w 13) (sregAt w 7) (flagAt w 6) (flagAt w 5))
      else if field w 0 5 = 3 then accept (.mulh (sregAt w 19) (sregAt w 13) (sregAt w 7) (flagAt w 6) (flagAt w 5))
      else if field w 0 5 = 4 then accept (.nmulhUniform (sregAt w 19) (sregAt w 13) (sregAt w 7) (flagAt w 6) (flagAt w 5))
      else if field w 0 5 = 5 then accept (.andUniform (sregAt w 19) (sregAt w 13) (sregAt w 7) (flagAt w 6) (flagAt w 5))
      else if field w 0 5 = 6 then accept (.orUniform (sregAt w 19) (sregAt w 13) (sregAt w 7) (flagAt w 6) (flagAt w 5))
      else if field w 0 5 = 7 then accept (.xorUniform (sregAt w 19) (sregAt w 13) (sregAt w 7) (flagAt w 6) (flagAt w 5))
      else if field w 0 5 = 8 then accept (.andnUniform (sregAt w 19) (sregAt w 13) (sregAt w 7) (flagAt w 6) (flagAt w 5))
      else if field w 0 5 = 9 then accept (.shlUniform (sregAt w 19) (sregAt w 13) (sregAt w 7) (flagAt w 6) (flagAt w 5))
      else if field w 0 5 = 10 then accept (.shrUniform (sregAt w 19) (sregAt w 13) (sregAt w 7) (flagAt w 6) (flagAt w 5))
      else if field w 0 5 = 11 then accept (.sarUniform (sregAt w 19) (sregAt w 13) (sregAt w 7) (flagAt w 6) (flagAt w 5))
      else if field w 0 5 = 12 then accept (.min (sregAt w 19) (sregAt w 13) (sregAt w 7) (flagAt w 6) (flagAt w 5))
      else if field w 0 5 = 13 then accept (.max (sregAt w 19) (sregAt w 13) (sregAt w 7) (flagAt w 6) (flagAt w 5))
      else if field w 0 5 = 14 then accept (.nminUniform (sregAt w 19) (sregAt w 13) (sregAt w 7) (flagAt w 6) (flagAt w 5))
      else if field w 0 5 = 15 then accept (.nmaxUniform (sregAt w 19) (sregAt w 13) (sregAt w 7) (flagAt w 6) (flagAt w 5))
      else if field w 0 5 = 16 then accept (.seq (sregAt w 19) (sregAt w 13) (sregAt w 7) (flagAt w 6) (flagAt w 5))
      else if field w 0 5 = 17 then accept (.sne (sregAt w 19) (sregAt w 13) (sregAt w 7) (flagAt w 6) (flagAt w 5))
      else if field w 0 5 = 18 then accept (.slt (sregAt w 19) (sregAt w 13) (sregAt w 7) (flagAt w 6) (flagAt w 5))
      else if field w 0 5 = 19 then accept (.sltn (sregAt w 19) (sregAt w 13) (sregAt w 7) (flagAt w 6) (flagAt w 5))
      else if field w 0 5 = 20 then accept (.sdiv (sregAt w 19) (sregAt w 13) (sregAt w 7) (flagAt w 6) (flagAt w 5))
      else if field w 0 5 = 21 then accept (.ndiv (sregAt w 19) (sregAt w 13) (sregAt w 7) (flagAt w 6) (flagAt w 5))
      else if field w 0 5 = 22 then accept (.srem (sregAt w 19) (sregAt w 13) (sregAt w 7) (flagAt w 6) (flagAt w 5))
      else if field w 0 5 = 23 then accept (.nrem (sregAt w 19) (sregAt w 13) (sregAt w 7) (flagAt w 6) (flagAt w 5))
      else if field w 0 6 = 24 ∧ field w 7 6 = 0 then accept (.popcUniform (sregAt w 19) (sregAt w 13) (flagAt w 6))
      else if field w 0 6 = 25 ∧ field w 7 6 = 0 then accept (.clzUniform (sregAt w 19) (sregAt w 13) (flagAt w 6))
      else .error .unassignedFunction

/-- Major 0x12 of the U-form: REDL_ADD_I32 to REDL_OR. -/
def decodeU12 (w : Nat) : Except DecodeError Instr :=
  if field w 0 6 = 0 ∧ field w 7 5 = 0 then accept (.redlAddI32 (sregAt w 19) (vregAt w 12) (flagAt w 6))
      else if field w 0 6 = 0 ∧ field w 7 5 = 1 then accept (.redlAddF32 (sregAt w 19) (vregAt w 12) (flagAt w 6))
      else if field w 0 6 = 0 ∧ field w 7 5 = 2 then accept (.redlMinI32 (sregAt w 19) (vregAt w 12) (flagAt w 6))
      else if field w 0 6 = 0 ∧ field w 7 5 = 3 then accept (.redlMaxI32 (sregAt w 19) (vregAt w 12) (flagAt w 6))
      else if field w 0 6 = 0 ∧ field w 7 5 = 4 then accept (.redlAnd (sregAt w 19) (vregAt w 12) (flagAt w 6))
      else if field w 0 6 = 0 ∧ field w 7 5 = 5 then accept (.redlOr (sregAt w 19) (vregAt w 12) (flagAt w 6))
      else .error .unassignedFunction

/-- Major 0x13 of the U-form: KMOV_FROM_LANE to KMOV_TO_LANE. -/
def decodeU13 (w : Nat) : Except DecodeError Instr :=
  if field w 0 6 = 0 ∧ field w 7 1 = 0 ∧ field w 11 1 = 0 ∧ field w 19 6 = 0 then accept (.kmovFromLane (vregAt w 12) (kregAt w 8) (flagAt w 6))
      else if field w 0 8 = 0 ∧ field w 11 1 = 1 ∧ field w 19 6 = 0 then accept (.kmovToLane (vregAt w 12) (kregAt w 8))
      else .error .unassignedFunction

/-- Major 0x14 of the U-form: KAND to KTOS. -/
def decodeU14 (w : Nat) : Except DecodeError Instr :=
  if field w 0 7 = 0 then match kreg6At? w 19 with | none => .error .badPredicate | some d => match kreg6At? w 13 with | none => .error .badPredicate | some a => match kreg6At? w 7 with | none => .error .badPredicate | some b => accept (.kand d a b)
      else if field w 0 7 = 1 then match kreg6At? w 19 with | none => .error .badPredicate | some d => match kreg6At? w 13 with | none => .error .badPredicate | some a => match kreg6At? w 7 with | none => .error .badPredicate | some b => accept (.kor d a b)
      else if field w 0 7 = 2 then match kreg6At? w 19 with | none => .error .badPredicate | some d => match kreg6At? w 13 with | none => .error .badPredicate | some a => match kreg6At? w 7 with | none => .error .badPredicate | some b => accept (.kxor d a b)
      else if field w 0 7 = 3 then match kreg6At? w 19 with | none => .error .badPredicate | some d => match kreg6At? w 13 with | none => .error .badPredicate | some a => match kreg6At? w 7 with | none => .error .badPredicate | some b => accept (.kandn d a b)
      else if field w 0 13 = 4 then match kreg6At? w 19 with | none => .error .badPredicate | some d => match kreg6At? w 13 with | none => .error .badPredicate | some a => accept (.knot d a)
      else if field w 0 13 = 5 then match kreg6At? w 19 with | none => .error .badPredicate | some d => accept (.kfroms d (sregAt w 13))
      else if field w 0 13 = 6 then match kreg6At? w 13 with | none => .error .badPredicate | some a => accept (.ktos (sregAt w 19) a)
      else .error .unassignedFunction

/-- Major 0x19 of the U-form: JR to JR_RETURN. -/
def decodeU19 (w : Nat) : Except DecodeError Instr :=
  if field w 0 6 = 0 ∧ field w 7 6 = 0 ∧ field w 19 6 = 0 then accept (.jr (sregAt w 13) (flagAt w 6))
      else if field w 0 6 = 1 ∧ field w 7 6 = 0 then accept (.jrCall (sregAt w 19) (sregAt w 13) (flagAt w 6))
      else if field w 0 6 = 2 ∧ field w 7 6 = 0 ∧ field w 19 6 = 0 then accept (.jrReturn (sregAt w 13) (flagAt w 6))
      else .error .unassignedFunction

/-- Major 0x1F of the U-form: FENCE_ACQUIRE to FENCE_FULL. -/
def decodeU1F (w : Nat) : Except DecodeError Instr :=
  if field w 0 2 = 0 ∧ field w 4 21 = 0 then accept (.fenceAcquire (Scope.ofCode (field w 2 2)))
      else if field w 0 2 = 1 ∧ field w 4 21 = 0 then accept (.fenceRelease (Scope.ofCode (field w 2 2)))
      else if field w 0 2 = 2 ∧ field w 4 21 = 0 then accept (.fenceFull (Scope.ofCode (field w 2 2)))
      else .error .unassignedFunction

/-- Major 0x3A of the U-form: COPY to LREN. -/
def decodeU3A (w : Nat) : Except DecodeError Instr :=
  if field w 0 13 = 0 then accept (.copy (sregAt w 19) (sregAt w 13))
      else if field w 0 13 = 1 then accept (.copyw (sregAt w 19) (sregAt w 13))
      else if field w 0 13 = 2 then accept (.mcast (sregAt w 19) (sregAt w 13))
      else if field w 0 7 = 3 then accept (.gath (sregAt w 19) (sregAt w 13) (sregAt w 7))
      else if field w 0 7 = 4 then accept (.scat (sregAt w 19) (sregAt w 13) (sregAt w 7))
      else if field w 0 13 = 5 then accept (.publ (sregAt w 19) (sregAt w 13))
      else if field w 0 7 = 6 then accept (.qpkt (sregAt w 19) (sregAt w 13) (sregAt w 7))
      else if field w 0 7 = 7 then accept (.puts (sregAt w 19) (sregAt w 13) (sregAt w 7))
      else if field w 0 13 = 8 then accept (.getr (sregAt w 19) (sregAt w 13))
      else if field w 0 13 = 9 then accept (.coll (sregAt w 19) (sregAt w 13))
      else if field w 0 13 = 10 then accept (.lbset (sregAt w 19) (sregAt w 13))
      else if field w 0 7 = 11 then accept (.lren (sregAt w 19) (sregAt w 13) (sregAt w 7))
      else .error .unassignedFunction

/-- Major 0x3B of the U-form: UATOM_ADD to UATOM_CAS. -/
def decodeU3B (w : Nat) : Except DecodeError Instr :=
  if field w 0 3 = 0 then match UScope.ofCode? (field w 3 2) with | none => .error .unassignedFunction | some e => accept (.uatomAdd (sregAt w 19) (sregAt w 13) (sregAt w 7) (flagAt w 6) (flagAt w 5) e)
      else if field w 0 3 = 1 then match UScope.ofCode? (field w 3 2) with | none => .error .unassignedFunction | some e => accept (.uatomMin (sregAt w 19) (sregAt w 13) (sregAt w 7) (flagAt w 6) (flagAt w 5) e)
      else if field w 0 3 = 2 then match UScope.ofCode? (field w 3 2) with | none => .error .unassignedFunction | some e => accept (.uatomMax (sregAt w 19) (sregAt w 13) (sregAt w 7) (flagAt w 6) (flagAt w 5) e)
      else if field w 0 3 = 3 then match UScope.ofCode? (field w 3 2) with | none => .error .unassignedFunction | some e => accept (.uatomAnd (sregAt w 19) (sregAt w 13) (sregAt w 7) (flagAt w 6) (flagAt w 5) e)
      else if field w 0 3 = 4 then match UScope.ofCode? (field w 3 2) with | none => .error .unassignedFunction | some e => accept (.uatomOr (sregAt w 19) (sregAt w 13) (sregAt w 7) (flagAt w 6) (flagAt w 5) e)
      else if field w 0 3 = 5 then match UScope.ofCode? (field w 3 2) with | none => .error .unassignedFunction | some e => accept (.uatomXor (sregAt w 19) (sregAt w 13) (sregAt w 7) (flagAt w 6) (flagAt w 5) e)
      else if field w 0 3 = 6 then match UScope.ofCode? (field w 3 2) with | none => .error .unassignedFunction | some e => accept (.uatomXchg (sregAt w 19) (sregAt w 13) (sregAt w 7) (flagAt w 6) (flagAt w 5) e)
      else if field w 0 3 = 7 then match UScope.ofCode? (field w 3 2) with | none => .error .unassignedFunction | some e => accept (.uatomCas (sregAt w 19) (sregAt w 13) (sregAt w 7) (flagAt w 6) (flagAt w 5) e)
      else .error .unassignedFunction

/-- The L-form majors (bit 31 = 0), by their number in [30:25] (R42 to R45). -/
def decodeL (major w : Nat) : Except DecodeError Instr :=
  match major with
  | 0 => accept (.iadd (vregAt w 18) (vregAt w 11) (vregAt w 4) (flagAt w 3) (flagAt w 2) (fin4At w 0))
  | 1 => accept (.isub (vregAt w 18) (vregAt w 11) (vregAt w 4) (flagAt w 3) (flagAt w 2) (fin4At w 0))
  | 2 => accept (.imul (vregAt w 18) (vregAt w 11) (vregAt w 4) (flagAt w 3) (flagAt w 2) (fin4At w 0))
  | 3 => accept (.imulh (vregAt w 18) (vregAt w 11) (vregAt w 4) (flagAt w 3) (flagAt w 2) (fin4At w 0))
  | 4 => accept (.nmulhLane (vregAt w 18) (vregAt w 11) (vregAt w 4) (flagAt w 3) (flagAt w 2) (fin4At w 0))
  | 5 => accept (.imad (vregAt w 18) (vregAt w 11) (vregAt w 4) (flagAt w 3) (flagAt w 2) (fin4At w 0))
  | 6 => accept (.imin (vregAt w 18) (vregAt w 11) (vregAt w 4) (flagAt w 3) (flagAt w 2) (fin4At w 0))
  | 7 => accept (.imax (vregAt w 18) (vregAt w 11) (vregAt w 4) (flagAt w 3) (flagAt w 2) (fin4At w 0))
  | 8 => accept (.nminLane (vregAt w 18) (vregAt w 11) (vregAt w 4) (flagAt w 3) (flagAt w 2) (fin4At w 0))
  | 9 => accept (.nmaxLane (vregAt w 18) (vregAt w 11) (vregAt w 4) (flagAt w 3) (flagAt w 2) (fin4At w 0))
  | 10 => accept (.andLane (vregAt w 18) (vregAt w 11) (vregAt w 4) (flagAt w 3) (flagAt w 2) (fin4At w 0))
  | 11 => accept (.orLane (vregAt w 18) (vregAt w 11) (vregAt w 4) (flagAt w 3) (flagAt w 2) (fin4At w 0))
  | 12 => accept (.xorLane (vregAt w 18) (vregAt w 11) (vregAt w 4) (flagAt w 3) (flagAt w 2) (fin4At w 0))
  | 13 => accept (.andnLane (vregAt w 18) (vregAt w 11) (vregAt w 4) (flagAt w 3) (flagAt w 2) (fin4At w 0))
  | 14 => accept (.shlLane (vregAt w 18) (vregAt w 11) (vregAt w 4) (flagAt w 3) (flagAt w 2) (fin4At w 0))
  | 15 => accept (.shrLane (vregAt w 18) (vregAt w 11) (vregAt w 4) (flagAt w 3) (flagAt w 2) (fin4At w 0))
  | 16 => accept (.sarLane (vregAt w 18) (vregAt w 11) (vregAt w 4) (flagAt w 3) (flagAt w 2) (fin4At w 0))
  | 17 => accept (.hadd2 (vregAt w 18) (vregAt w 11) (vregAt w 4) (flagAt w 3) (flagAt w 2) (fin4At w 0))
  | 18 => accept (.hsub2 (vregAt w 18) (vregAt w 11) (vregAt w 4) (flagAt w 3) (flagAt w 2) (fin4At w 0))
  | 19 => accept (.hmin2 (vregAt w 18) (vregAt w 11) (vregAt w 4) (flagAt w 3) (flagAt w 2) (fin4At w 0))
  | 20 => accept (.hmax2 (vregAt w 18) (vregAt w 11) (vregAt w 4) (flagAt w 3) (flagAt w 2) (fin4At w 0))
  | 21 => decodeL15 w
  | 22 => accept (.hclt2 (vregAt w 18) (vregAt w 11) (vregAt w 4) (flagAt w 3) (flagAt w 2) (fin4At w 0))
  | 23 => decodeL17 w
  | 24 => match Cond.ofCode? (field w 18 4) with | none => .error .badCondition | some c => accept (.icmp (kregAt w 22) c (vregAt w 11) (vregAt w 4) (flagAt w 3) (flagAt w 2) (fin4At w 0))
  | 25 => match Cond.ofCode? (field w 18 4) with | none => .error .badCondition | some c => accept (.ncmp (kregAt w 22) c (vregAt w 11) (vregAt w 4) (flagAt w 3) (flagAt w 2) (fin4At w 0))
  | 26 => match Cond.ofCode? (field w 18 4) with | none => .error .badCondition | some c => accept (.fcmp (kregAt w 22) c (vregAt w 11) (vregAt w 4) (flagAt w 3) (flagAt w 2) (fin4At w 0))
  | 27 => accept (.sel (vregAt w 18) (vregAt w 11) (vregAt w 4) (flagAt w 3) (flagAt w 2) (fin4At w 0))
  | 28 => accept (.fadd (vregAt w 18) (vregAt w 11) (vregAt w 4) (flagAt w 3) (flagAt w 2) (fin4At w 0))
  | 29 => accept (.fsub (vregAt w 18) (vregAt w 11) (vregAt w 4) (flagAt w 3) (flagAt w 2) (fin4At w 0))
  | 30 => accept (.fmul (vregAt w 18) (vregAt w 11) (vregAt w 4) (flagAt w 3) (flagAt w 2) (fin4At w 0))
  | 31 => accept (.ffma (vregAt w 18) (vregAt w 11) (vregAt w 4) (flagAt w 3) (flagAt w 2) (fin4At w 0))
  | 32 => accept (.fmin (vregAt w 18) (vregAt w 11) (vregAt w 4) (flagAt w 3) (flagAt w 2) (fin4At w 0))
  | 33 => accept (.fmax (vregAt w 18) (vregAt w 11) (vregAt w 4) (flagAt w 3) (flagAt w 2) (fin4At w 0))
  | 34 => accept (.hfma2 (vregAt w 18) (vregAt w 11) (vregAt w 4) (flagAt w 3) (flagAt w 2) (fin4At w 0))
  | 35 => accept (.bfma2 (vregAt w 18) (vregAt w 11) (vregAt w 4) (flagAt w 3) (flagAt w 2) (fin4At w 0))
  | 36 => accept (.shfl (vregAt w 18) (vregAt w 11) (vregAt w 4) (flagAt w 3) (flagAt w 2) (fin4At w 0))
  | 37 => decodeL25 w
  | 38 => decodeL26 w
  | 39 => accept (.iaddi (vregAt w 18) (vregAt w 11) (BitVec.ofNat 8 (field w 3 8)) (flagAt w 2) (fin4At w 0))
  | 40 => accept (.andiLane (vregAt w 18) (vregAt w 11) (BitVec.ofNat 8 (field w 3 8)) (flagAt w 2) (fin4At w 0))
  | 41 => accept (.oriLane (vregAt w 18) (vregAt w 11) (BitVec.ofNat 8 (field w 3 8)) (flagAt w 2) (fin4At w 0))
  | 42 => accept (.xoriLane (vregAt w 18) (vregAt w 11) (BitVec.ofNat 8 (field w 3 8)) (flagAt w 2) (fin4At w 0))
  | 43 => if field w 8 3 = 0 then accept (.shliLane (vregAt w 18) (vregAt w 11) (BitVec.ofNat 5 (field w 3 5)) (flagAt w 2) (fin4At w 0))
      else .error .reservedBits
  | 44 => if field w 8 3 = 0 then accept (.shriLane (vregAt w 18) (vregAt w 11) (BitVec.ofNat 5 (field w 3 5)) (flagAt w 2) (fin4At w 0))
      else .error .reservedBits
  | 45 => if field w 8 3 = 0 then accept (.sariLane (vregAt w 18) (vregAt w 11) (BitVec.ofNat 5 (field w 3 5)) (flagAt w 2) (fin4At w 0))
      else .error .reservedBits
  | 46 => match Cond.ofCode? (field w 18 4) with | none => .error .badCondition | some c => accept (.icmpi (kregAt w 22) c (vregAt w 11) (BitVec.ofNat 8 (field w 3 8)) (flagAt w 2) (fin4At w 0))
  | 47 => if field w 2 1 = 0 then accept (.iadds (vregAt w 18) (vregAt w 11) (sregAt w 5) (flagAt w 4) (flagAt w 3) (fin4At w 0))
      else .error .reservedBits
  | 48 => if field w 2 1 = 0 then accept (.imuls (vregAt w 18) (vregAt w 11) (sregAt w 5) (flagAt w 4) (flagAt w 3) (fin4At w 0))
      else .error .reservedBits
  | 49 => if field w 2 1 = 0 then accept (.ffmas (vregAt w 18) (vregAt w 11) (sregAt w 5) (flagAt w 4) (flagAt w 3) (fin4At w 0))
      else .error .reservedBits
  | 50 => if field w 2 1 = 0 then accept (.fmuls (vregAt w 18) (vregAt w 11) (sregAt w 5) (flagAt w 4) (flagAt w 3) (fin4At w 0))
      else .error .reservedBits
  | 51 => if field w 2 1 = 0 ∧ field w 4 1 = 0 ∧ field w 11 7 = 0 then accept (.bcast (vregAt w 18) (sregAt w 5) (flagAt w 3) (fin4At w 0))
      else .error .reservedBits
  | 52 => accept (.ldg (vregAt w 18) (vregAt w 11) (sregAt w 5) (LSize.ofCode (field w 3 2)) (flagAt w 2) (fin4At w 0))
  | 53 => accept (.stg (vregAt w 18) (vregAt w 11) (sregAt w 5) (LSize.ofCode (field w 3 2)) (flagAt w 2) (fin4At w 0))
  | 54 => accept (.ldl (vregAt w 18) (vregAt w 11) (sregAt w 5) (LSize.ofCode (field w 3 2)) (flagAt w 2) (fin4At w 0))
  | 55 => accept (.stl (vregAt w 18) (vregAt w 11) (sregAt w 5) (LSize.ofCode (field w 3 2)) (flagAt w 2) (fin4At w 0))
  | 56 => accept (.ldw (vregAt w 18) (vregAt w 11) (sregAt w 5) (LSize.ofCode (field w 3 2)) (flagAt w 2) (fin4At w 0))
  | 57 => accept (.stw (vregAt w 18) (vregAt w 11) (sregAt w 5) (LSize.ofCode (field w 3 2)) (flagAt w 2) (fin4At w 0))
  | 58 => accept (.ldk (vregAt w 18) (vregAt w 11) (sregAt w 5) (LSize.ofCode (field w 3 2)) (flagAt w 2) (fin4At w 0))
  | 59 => accept (.ldgp (vregAt w 18) (vregAt w 11) (sregAt w 5) (kregAt w 2) (fin4At w 0))
  | 60 => accept (.ldlt (vregAt w 18) (vregAt w 11) (sregAt w 5) (LSize.ofCode (field w 3 2)) (flagAt w 2) (fin4At w 0))
  | 61 => decodeL3D w
  | 62 => decodeL3E w
  | _ => .error .unassignedMajor

/-- The U-form majors (bit 31 = 1), by their number in [30:25] (R46 to R49). -/
def decodeU (major w : Nat) : Except DecodeError Instr :=
  match major with
  | 0 => decodeU00 w
  | 1 => accept (.addi (sregAt w 19) (sregAt w 13) (BitVec.ofNat 13 (field w 0 13)))
  | 2 => accept (.andiUniform (sregAt w 19) (sregAt w 13) (BitVec.ofNat 13 (field w 0 13)))
  | 3 => accept (.oriUniform (sregAt w 19) (sregAt w 13) (BitVec.ofNat 13 (field w 0 13)))
  | 4 => accept (.xoriUniform (sregAt w 19) (sregAt w 13) (BitVec.ofNat 13 (field w 0 13)))
  | 5 => if field w 6 7 = 0 then accept (.shliUniform (sregAt w 19) (sregAt w 13) (BitVec.ofNat 6 (field w 0 6)))
      else .error .reservedBits
  | 6 => if field w 6 7 = 0 then accept (.shriUniform (sregAt w 19) (sregAt w 13) (BitVec.ofNat 6 (field w 0 6)))
      else .error .reservedBits
  | 7 => if field w 6 7 = 0 then accept (.sariUniform (sregAt w 19) (sregAt w 13) (BitVec.ofNat 6 (field w 0 6)))
      else .error .reservedBits
  | 8 => accept (.slti (sregAt w 19) (sregAt w 13) (BitVec.ofNat 13 (field w 0 13)))
  | 9 => accept (.movw (sregAt w 19) (fin4At w 17) (BitVec.ofNat 16 (field w 1 16)) (flagAt w 0))
  | 10 => accept (.ldgs (sregAt w 19) (sregAt w 13) (USize.ofCode (field w 11 2)) (BitVec.ofNat 11 (field w 0 11)))
  | 11 => accept (.stgs (sregAt w 19) (sregAt w 13) (USize.ofCode (field w 11 2)) (BitVec.ofNat 11 (field w 0 11)))
  | 12 => accept (.ldls (sregAt w 19) (sregAt w 13) (USize.ofCode (field w 11 2)) (BitVec.ofNat 11 (field w 0 11)))
  | 13 => accept (.stls (sregAt w 19) (sregAt w 13) (USize.ofCode (field w 11 2)) (BitVec.ofNat 11 (field w 0 11)))
  | 14 => accept (.ldks (sregAt w 19) (sregAt w 13) (USize.ofCode (field w 11 2)) (BitVec.ofNat 11 (field w 0 11)))
  | 15 => if field w 0 6 = 0 then accept (.vget (sregAt w 19) (vregAt w 12) (fin32At w 7) (flagAt w 6))
      else .error .reservedBits
  | 16 => if field w 0 7 = 0 then accept (.vput (sregAt w 19) (vregAt w 12) (fin32At w 7))
      else .error .reservedBits
  | 17 => if field w 0 6 = 0 then accept (.ballot (sregAt w 19) (vregAt w 12) (fin32At w 7) (flagAt w 6))
      else .error .reservedBits
  | 18 => decodeU12 w
  | 19 => decodeU13 w
  | 20 => decodeU14 w
  | 21 => if field w 20 4 = 0 then accept (.b (flagAt w 24) (BitVec.ofNat 20 (field w 0 20)))
      else .error .reservedBits
  | 22 => match BsCond.ofCode? (field w 21 3) with | none => .error .badCondition | some c => accept (.bs (flagAt w 24) c (sregAt w 15) (BitVec.ofNat 15 (field w 0 15)))
  | 23 => accept (.bk (flagAt w 24) (BkMode.ofCode (field w 22 2)) (kregAt w 19) (BitVec.ofNat 19 (field w 0 19)))
  | 24 => if field w 20 4 = 0 then accept (.call (flagAt w 24) (BitVec.ofNat 20 (field w 0 20)))
      else .error .reservedBits
  | 25 => decodeU19 w
  | 26 => if field w 9 16 = 0 then accept (.phase (flagAt w 8) (BitVec.ofNat 8 (field w 0 8)))
      else .error .reservedBits
  | 27 => if field w 9 16 = 0 then accept (.cbar (flagAt w 8) (BitVec.ofNat 8 (field w 0 8)))
      else .error .reservedBits
  | 28 => if field w 3 22 = 0 then accept (.arrive (fin8At w 0))
      else .error .reservedBits
  | 29 => if field w 3 22 = 0 then accept (.waitb (fin8At w 0))
      else .error .reservedBits
  | 30 => if field w 11 2 = 3 ∧ field w 19 6 = 0 then accept (.spin (sregAt w 13) (BitVec.ofNat 11 (field w 0 11)))
      else .error .reservedBits
  | 31 => decodeU1F w
  | 32 => if field w 2 11 = 0 ∧ field w 19 6 = 0 then match SideMask.ofCode? (field w 0 2) with | none => .error .badMask | some m => accept (.fork (sregAt w 13) m)
      else .error .reservedBits
  | 33 => if field w 2 23 = 0 then match SideMask.ofCode? (field w 0 2) with | none => .error .badMask | some m => accept (.rend m)
      else .error .reservedBits
  | 34 => if field w 0 19 = 0 then accept (.elect (sregAt w 19))
      else .error .reservedBits
  | 35 => if field w 13 12 = 0 then accept (.trap (BitVec.ofNat 13 (field w 0 13)))
      else .error .reservedBits
  | 36 => if field w 0 25 = 0 then accept (.tret)
      else .error .reservedBits
  | 37 => if field w 13 12 = 0 then accept (.sysc (BitVec.ofNat 13 (field w 0 13)))
      else .error .reservedBits
  | 38 => if field w 12 7 = 0 then accept (.mfc (sregAt w 19) (BitVec.ofNat 12 (field w 0 12)))
      else .error .reservedBits
  | 39 => if field w 12 7 = 0 then accept (.mtc (sregAt w 19) (BitVec.ofNat 12 (field w 0 12)))
      else .error .reservedBits
  | 40 => if field w 0 25 = 0 then accept (.halt)
      else .error .reservedBits
  | 41 => if field w 0 25 = 0 then accept (.nop)
      else .error .reservedBits
  | 42 => if field w 0 19 = 0 then accept (.rnxt (sregAt w 19))
      else .error .reservedBits
  | 43 => if field w 0 13 = 0 ∧ field w 19 6 = 0 then accept (.rjmp (sregAt w 13))
      else .error .reservedBits
  | 44 => if field w 0 7 = 0 then accept (.rdraw (sregAt w 19) (sregAt w 13) (sregAt w 7))
      else .error .reservedBits
  | 45 => if field w 0 13 = 0 ∧ field w 19 6 = 0 then accept (.pgreq (sregAt w 13))
      else .error .reservedBits
  | 46 => if field w 0 13 = 0 ∧ field w 19 6 = 0 then accept (.launch (sregAt w 13))
      else .error .reservedBits
  | 47 => if field w 0 13 = 0 ∧ field w 19 6 = 0 then accept (.ntok (sregAt w 13))
      else .error .reservedBits
  | 48 => if field w 2 5 = 0 ∧ field w 19 6 = 0 then accept (.mcfg (sregAt w 13) (sregAt w 7) (fin4At w 0))
      else .error .reservedBits
  | 49 => accept (.mma (fin4At w 23) (vregAt w 16) (vregAt w 9) (sregAt w 3) (flagAt w 2) (flagAt w 1) (flagAt w 0))
  | 50 => accept (.mmax (fin4At w 23) (vregAt w 16) (vregAt w 9) (sregAt w 3) (flagAt w 2) (flagAt w 1) (flagAt w 0))
  | 51 => if field w 0 2 = 0 ∧ field w 3 20 = 0 then accept (.mmz (fin4At w 23) (flagAt w 2))
      else .error .reservedBits
  | 52 => if field w 0 2 = 0 ∧ field w 3 6 = 0 then accept (.mdrain (fin4At w 23) (vregAt w 16) (vregAt w 9) (flagAt w 2))
      else .error .reservedBits
  | 53 => if field w 2 11 = 0 ∧ field w 19 6 = 0 then accept (.msave (sregAt w 13) (fin4At w 0))
      else .error .reservedBits
  | 54 => if field w 2 11 = 0 ∧ field w 19 6 = 0 then accept (.mload (sregAt w 13) (fin4At w 0))
      else .error .reservedBits
  | 55 => if field w 0 2 = 0 ∧ field w 3 13 = 0 then accept (.msmx (fin4At w 23) (vregAt w 16) (flagAt w 2))
      else .error .reservedBits
  | 56 => if field w 2 17 = 0 then accept (.mlint (sregAt w 19) (fin4At w 0))
      else .error .reservedBits
  | 57 => if field w 0 13 = 0 ∧ field w 19 6 = 0 then accept (.mtbl (sregAt w 13))
      else .error .reservedBits
  | 58 => decodeU3A w
  | 59 => decodeU3B w
  | _ => .error .unassignedMajor

/-- The instruction of a 32-bit word (R38, R51). -/
def decodeWord (w : Nat) : Except DecodeError Instr :=
  if field w 31 1 = 0 then decodeL (field w 25 6) w else decodeU (field w 25 6) w

/-- The word that four bytes of memory hold, the first at the lowest address (R6, R38). -/
def wordOfBytes (b0 b1 b2 b3 : Byte) : Nat :=
  b0.toNat + b1.toNat * 2 ^ 8 + b2.toNat * 2 ^ 16 + b3.toNat * 2 ^ 24

/-- Decode the instruction at the head of a list of bytes, and give the bytes that follow it. -/
def decodeBytes : List Byte → Except DecodeError (Instr × List Byte)
  | b0 :: b1 :: b2 :: b3 :: rest =>
    match decodeWord (wordOfBytes b0 b1 b2 b3) with
    | .ok i => .ok (i, rest)
    | .error e => .error e
  | _ => .error .tooShort

/-- The bytes of a word as memory holds it (R6). -/
def bytesOfWord (w : Nat) : List Byte :=
  [BitVec.ofNat 8 w, BitVec.ofNat 8 (w / 2 ^ 8), BitVec.ofNat 8 (w / 2 ^ 16), BitVec.ofNat 8 (w / 2 ^ 24)]

/-- `n` in the field that starts at bit `lo`. -/
def put (n lo : Nat) : Nat := n * 2 ^ lo

/-- The word of an instruction (R40, R46, R47); an event has none. -/
def encode : Instr → Option Nat
  | .iadd d a b y z q => some (0x00000000 + put d.val 18 + put a.val 11 + put b.val 4 + put y.toNat 3 + put z.toNat 2 + put q.val 0)
  | .isub d a b y z q => some (0x02000000 + put d.val 18 + put a.val 11 + put b.val 4 + put y.toNat 3 + put z.toNat 2 + put q.val 0)
  | .imul d a b y z q => some (0x04000000 + put d.val 18 + put a.val 11 + put b.val 4 + put y.toNat 3 + put z.toNat 2 + put q.val 0)
  | .imulh d a b y z q => some (0x06000000 + put d.val 18 + put a.val 11 + put b.val 4 + put y.toNat 3 + put z.toNat 2 + put q.val 0)
  | .nmulhLane d a b y z q => some (0x08000000 + put d.val 18 + put a.val 11 + put b.val 4 + put y.toNat 3 + put z.toNat 2 + put q.val 0)
  | .imad d a b y z q => some (0x0A000000 + put d.val 18 + put a.val 11 + put b.val 4 + put y.toNat 3 + put z.toNat 2 + put q.val 0)
  | .imin d a b y z q => some (0x0C000000 + put d.val 18 + put a.val 11 + put b.val 4 + put y.toNat 3 + put z.toNat 2 + put q.val 0)
  | .imax d a b y z q => some (0x0E000000 + put d.val 18 + put a.val 11 + put b.val 4 + put y.toNat 3 + put z.toNat 2 + put q.val 0)
  | .nminLane d a b y z q => some (0x10000000 + put d.val 18 + put a.val 11 + put b.val 4 + put y.toNat 3 + put z.toNat 2 + put q.val 0)
  | .nmaxLane d a b y z q => some (0x12000000 + put d.val 18 + put a.val 11 + put b.val 4 + put y.toNat 3 + put z.toNat 2 + put q.val 0)
  | .andLane d a b y z q => some (0x14000000 + put d.val 18 + put a.val 11 + put b.val 4 + put y.toNat 3 + put z.toNat 2 + put q.val 0)
  | .orLane d a b y z q => some (0x16000000 + put d.val 18 + put a.val 11 + put b.val 4 + put y.toNat 3 + put z.toNat 2 + put q.val 0)
  | .xorLane d a b y z q => some (0x18000000 + put d.val 18 + put a.val 11 + put b.val 4 + put y.toNat 3 + put z.toNat 2 + put q.val 0)
  | .andnLane d a b y z q => some (0x1A000000 + put d.val 18 + put a.val 11 + put b.val 4 + put y.toNat 3 + put z.toNat 2 + put q.val 0)
  | .shlLane d a b y z q => some (0x1C000000 + put d.val 18 + put a.val 11 + put b.val 4 + put y.toNat 3 + put z.toNat 2 + put q.val 0)
  | .shrLane d a b y z q => some (0x1E000000 + put d.val 18 + put a.val 11 + put b.val 4 + put y.toNat 3 + put z.toNat 2 + put q.val 0)
  | .sarLane d a b y z q => some (0x20000000 + put d.val 18 + put a.val 11 + put b.val 4 + put y.toNat 3 + put z.toNat 2 + put q.val 0)
  | .hadd2 d a b y z q => some (0x22000000 + put d.val 18 + put a.val 11 + put b.val 4 + put y.toNat 3 + put z.toNat 2 + put q.val 0)
  | .hsub2 d a b y z q => some (0x24000000 + put d.val 18 + put a.val 11 + put b.val 4 + put y.toNat 3 + put z.toNat 2 + put q.val 0)
  | .hmin2 d a b y z q => some (0x26000000 + put d.val 18 + put a.val 11 + put b.val 4 + put y.toNat 3 + put z.toNat 2 + put q.val 0)
  | .hmax2 d a b y z q => some (0x28000000 + put d.val 18 + put a.val 11 + put b.val 4 + put y.toNat 3 + put z.toNat 2 + put q.val 0)
  | .hclt2 d a b y z q => some (0x2C000000 + put d.val 18 + put a.val 11 + put b.val 4 + put y.toNat 3 + put z.toNat 2 + put q.val 0)
  | .icmp p c a b y z q => some (0x30000000 + put p.val 22 + put c.code 18 + put a.val 11 + put b.val 4 + put y.toNat 3 + put z.toNat 2 + put q.val 0)
  | .ncmp p c a b y z q => some (0x32000000 + put p.val 22 + put c.code 18 + put a.val 11 + put b.val 4 + put y.toNat 3 + put z.toNat 2 + put q.val 0)
  | .fcmp p c a b y z q => some (0x34000000 + put p.val 22 + put c.code 18 + put a.val 11 + put b.val 4 + put y.toNat 3 + put z.toNat 2 + put q.val 0)
  | .sel d a b y z k => some (0x36000000 + put d.val 18 + put a.val 11 + put b.val 4 + put y.toNat 3 + put z.toNat 2 + put k.val 0)
  | .fadd d a b y z q => some (0x38000000 + put d.val 18 + put a.val 11 + put b.val 4 + put y.toNat 3 + put z.toNat 2 + put q.val 0)
  | .fsub d a b y z q => some (0x3A000000 + put d.val 18 + put a.val 11 + put b.val 4 + put y.toNat 3 + put z.toNat 2 + put q.val 0)
  | .fmul d a b y z q => some (0x3C000000 + put d.val 18 + put a.val 11 + put b.val 4 + put y.toNat 3 + put z.toNat 2 + put q.val 0)
  | .ffma d a b y z q => some (0x3E000000 + put d.val 18 + put a.val 11 + put b.val 4 + put y.toNat 3 + put z.toNat 2 + put q.val 0)
  | .fmin d a b y z q => some (0x40000000 + put d.val 18 + put a.val 11 + put b.val 4 + put y.toNat 3 + put z.toNat 2 + put q.val 0)
  | .fmax d a b y z q => some (0x42000000 + put d.val 18 + put a.val 11 + put b.val 4 + put y.toNat 3 + put z.toNat 2 + put q.val 0)
  | .hfma2 d a b y z q => some (0x44000000 + put d.val 18 + put a.val 11 + put b.val 4 + put y.toNat 3 + put z.toNat 2 + put q.val 0)
  | .bfma2 d a b y z q => some (0x46000000 + put d.val 18 + put a.val 11 + put b.val 4 + put y.toNat 3 + put z.toNat 2 + put q.val 0)
  | .shfl d a b y z q => some (0x48000000 + put d.val 18 + put a.val 11 + put b.val 4 + put y.toNat 3 + put z.toNat 2 + put q.val 0)
  | .shfliIndex d a k y q => some (0x4A000000 + put d.val 18 + put a.val 11 + put k.toNat 3 + put y.toNat 2 + put q.val 0)
  | .shfliUp d a k y q => some (0x4A000100 + put d.val 18 + put a.val 11 + put k.toNat 3 + put y.toNat 2 + put q.val 0)
  | .shfliDown d a k y q => some (0x4A000200 + put d.val 18 + put a.val 11 + put k.toNat 3 + put y.toNat 2 + put q.val 0)
  | .shfliXor d a k y q => some (0x4A000300 + put d.val 18 + put a.val 11 + put k.toNat 3 + put y.toNat 2 + put q.val 0)
  | .lscanAddI32 d a y q => some (0x4C000000 + put d.val 18 + put a.val 11 + put y.toNat 2 + put q.val 0)
  | .lscanAddF32 d a y q => some (0x4C000008 + put d.val 18 + put a.val 11 + put y.toNat 2 + put q.val 0)
  | .lscanMaxI32 d a y q => some (0x4C000010 + put d.val 18 + put a.val 11 + put y.toNat 2 + put q.val 0)
  | .lscanMinI32 d a y q => some (0x4C000018 + put d.val 18 + put a.val 11 + put y.toNat 2 + put q.val 0)
  | .iaddi d a i y q => some (0x4E000000 + put d.val 18 + put a.val 11 + put i.toNat 3 + put y.toNat 2 + put q.val 0)
  | .andiLane d a i y q => some (0x50000000 + put d.val 18 + put a.val 11 + put i.toNat 3 + put y.toNat 2 + put q.val 0)
  | .oriLane d a i y q => some (0x52000000 + put d.val 18 + put a.val 11 + put i.toNat 3 + put y.toNat 2 + put q.val 0)
  | .xoriLane d a i y q => some (0x54000000 + put d.val 18 + put a.val 11 + put i.toNat 3 + put y.toNat 2 + put q.val 0)
  | .shliLane d a n y q => some (0x56000000 + put d.val 18 + put a.val 11 + put n.toNat 3 + put y.toNat 2 + put q.val 0)
  | .shriLane d a n y q => some (0x58000000 + put d.val 18 + put a.val 11 + put n.toNat 3 + put y.toNat 2 + put q.val 0)
  | .sariLane d a n y q => some (0x5A000000 + put d.val 18 + put a.val 11 + put n.toNat 3 + put y.toNat 2 + put q.val 0)
  | .icmpi p c a i y q => some (0x5C000000 + put p.val 22 + put c.code 18 + put a.val 11 + put i.toNat 3 + put y.toNat 2 + put q.val 0)
  | .iadds d a s y z q => some (0x5E000000 + put d.val 18 + put a.val 11 + put s.val 5 + put y.toNat 4 + put z.toNat 3 + put q.val 0)
  | .imuls d a s y z q => some (0x60000000 + put d.val 18 + put a.val 11 + put s.val 5 + put y.toNat 4 + put z.toNat 3 + put q.val 0)
  | .ffmas d a s y z q => some (0x62000000 + put d.val 18 + put a.val 11 + put s.val 5 + put y.toNat 4 + put z.toNat 3 + put q.val 0)
  | .fmuls d a s y z q => some (0x64000000 + put d.val 18 + put a.val 11 + put s.val 5 + put y.toNat 4 + put z.toNat 3 + put q.val 0)
  | .bcast d s z q => some (0x66000000 + put d.val 18 + put s.val 5 + put z.toNat 3 + put q.val 0)
  | .ldg d a s w y q => some (0x68000000 + put d.val 18 + put a.val 11 + put s.val 5 + put w.code 3 + put y.toNat 2 + put q.val 0)
  | .stg d a s w y q => some (0x6A000000 + put d.val 18 + put a.val 11 + put s.val 5 + put w.code 3 + put y.toNat 2 + put q.val 0)
  | .ldl d a s w y q => some (0x6C000000 + put d.val 18 + put a.val 11 + put s.val 5 + put w.code 3 + put y.toNat 2 + put q.val 0)
  | .stl d a s w y q => some (0x6E000000 + put d.val 18 + put a.val 11 + put s.val 5 + put w.code 3 + put y.toNat 2 + put q.val 0)
  | .ldw d a s w y q => some (0x70000000 + put d.val 18 + put a.val 11 + put s.val 5 + put w.code 3 + put y.toNat 2 + put q.val 0)
  | .stw d a s w y q => some (0x72000000 + put d.val 18 + put a.val 11 + put s.val 5 + put w.code 3 + put y.toNat 2 + put q.val 0)
  | .ldk d a s w y q => some (0x74000000 + put d.val 18 + put a.val 11 + put s.val 5 + put w.code 3 + put y.toNat 2 + put q.val 0)
  | .ldgp d a s p q => some (0x76000000 + put d.val 18 + put a.val 11 + put s.val 5 + put p.val 2 + put q.val 0)
  | .ldlt d a s w y q => some (0x78000000 + put d.val 18 + put a.val 11 + put s.val 5 + put w.code 3 + put y.toNat 2 + put q.val 0)
  | .atomgAddI32 d a s q => some (0x2A000000 + put d.val 18 + put a.val 11 + put s.val 5 + put q.val 0)
  | .atomgAddF32 d a s q => some (0x2A000004 + put d.val 18 + put a.val 11 + put s.val 5 + put q.val 0)
  | .atomgMinI32 d a s q => some (0x2A000008 + put d.val 18 + put a.val 11 + put s.val 5 + put q.val 0)
  | .atomgMaxI32 d a s q => some (0x2A00000C + put d.val 18 + put a.val 11 + put s.val 5 + put q.val 0)
  | .atomgOr d a s q => some (0x2A000010 + put d.val 18 + put a.val 11 + put s.val 5 + put q.val 0)
  | .atomgXchg d a s q => some (0x2A000014 + put d.val 18 + put a.val 11 + put s.val 5 + put q.val 0)
  | .atomgCas d a s q => some (0x2A000018 + put d.val 18 + put a.val 11 + put s.val 5 + put q.val 0)
  | .atomgDaddF32 d a s q => some (0x2A00001C + put d.val 18 + put a.val 11 + put s.val 5 + put q.val 0)
  | .atomlAddI32 d a s q => some (0x2E000000 + put d.val 18 + put a.val 11 + put s.val 5 + put q.val 0)
  | .atomlAddF32 d a s q => some (0x2E000004 + put d.val 18 + put a.val 11 + put s.val 5 + put q.val 0)
  | .atomlMinI32 d a s q => some (0x2E000008 + put d.val 18 + put a.val 11 + put s.val 5 + put q.val 0)
  | .atomlMaxI32 d a s q => some (0x2E00000C + put d.val 18 + put a.val 11 + put s.val 5 + put q.val 0)
  | .atomlAnd d a s q => some (0x2E000010 + put d.val 18 + put a.val 11 + put s.val 5 + put q.val 0)
  | .atomlOr d a s q => some (0x2E000014 + put d.val 18 + put a.val 11 + put s.val 5 + put q.val 0)
  | .atomlXchg d a s q => some (0x2E000018 + put d.val 18 + put a.val 11 + put s.val 5 + put q.val 0)
  | .atomlCas d a s q => some (0x2E00001C + put d.val 18 + put a.val 11 + put s.val 5 + put q.val 0)
  | .atomwAddI32 d a s q => some (0x7A000000 + put d.val 18 + put a.val 11 + put s.val 5 + put q.val 0)
  | .atomwAddF32 d a s q => some (0x7A000004 + put d.val 18 + put a.val 11 + put s.val 5 + put q.val 0)
  | .atomwMinI32 d a s q => some (0x7A000008 + put d.val 18 + put a.val 11 + put s.val 5 + put q.val 0)
  | .atomwMaxI32 d a s q => some (0x7A00000C + put d.val 18 + put a.val 11 + put s.val 5 + put q.val 0)
  | .atomwAnd d a s q => some (0x7A000010 + put d.val 18 + put a.val 11 + put s.val 5 + put q.val 0)
  | .atomwOr d a s q => some (0x7A000014 + put d.val 18 + put a.val 11 + put s.val 5 + put q.val 0)
  | .atomwXchg d a s q => some (0x7A000018 + put d.val 18 + put a.val 11 + put s.val 5 + put q.val 0)
  | .atomwCas d a s q => some (0x7A00001C + put d.val 18 + put a.val 11 + put s.val 5 + put q.val 0)
  | .mov d a y q => some (0x7C000000 + put d.val 18 + put a.val 11 + put y.toNat 3 + put q.val 0)
  | .not d a y q => some (0x7C000010 + put d.val 18 + put a.val 11 + put y.toNat 3 + put q.val 0)
  | .neg d a y q => some (0x7C000020 + put d.val 18 + put a.val 11 + put y.toNat 3 + put q.val 0)
  | .abs d a y q => some (0x7C000030 + put d.val 18 + put a.val 11 + put y.toNat 3 + put q.val 0)
  | .clzLane d a y q => some (0x7C000040 + put d.val 18 + put a.val 11 + put y.toNat 3 + put q.val 0)
  | .popcLane d a y q => some (0x7C000050 + put d.val 18 + put a.val 11 + put y.toNat 3 + put q.val 0)
  | .brev d a y q => some (0x7C000060 + put d.val 18 + put a.val 11 + put y.toNat 3 + put q.val 0)
  | .sext8 d a y q => some (0x7C000070 + put d.val 18 + put a.val 11 + put y.toNat 3 + put q.val 0)
  | .sext16 d a y q => some (0x7C000080 + put d.val 18 + put a.val 11 + put y.toNat 3 + put q.val 0)
  | .fneg d a y q => some (0x7C000090 + put d.val 18 + put a.val 11 + put y.toNat 3 + put q.val 0)
  | .fabs d a y q => some (0x7C0000A0 + put d.val 18 + put a.val 11 + put y.toNat 3 + put q.val 0)
  | .frcp d a y q => some (0x7C0000B0 + put d.val 18 + put a.val 11 + put y.toNat 3 + put q.val 0)
  | .frsq d a y q => some (0x7C0000C0 + put d.val 18 + put a.val 11 + put y.toNat 3 + put q.val 0)
  | .fexp2 d a y q => some (0x7C0000D0 + put d.val 18 + put a.val 11 + put y.toNat 3 + put q.val 0)
  | .flog2 d a y q => some (0x7C0000E0 + put d.val 18 + put a.val 11 + put y.toNat 3 + put q.val 0)
  | .fsin d a y q => some (0x7C0000F0 + put d.val 18 + put a.val 11 + put y.toNat 3 + put q.val 0)
  | .fcos d a y q => some (0x7C000100 + put d.val 18 + put a.val 11 + put y.toNat 3 + put q.val 0)
  | .frnd d a y q => some (0x7C000110 + put d.val 18 + put a.val 11 + put y.toNat 3 + put q.val 0)
  | .cvtfi d a y q => some (0x7C000120 + put d.val 18 + put a.val 11 + put y.toNat 3 + put q.val 0)
  | .cvtfiz d a y q => some (0x7C000130 + put d.val 18 + put a.val 11 + put y.toNat 3 + put q.val 0)
  | .cvtif d a y q => some (0x7C000140 + put d.val 18 + put a.val 11 + put y.toNat 3 + put q.val 0)
  | .cvtnf d a y q => some (0x7C000150 + put d.val 18 + put a.val 11 + put y.toNat 3 + put q.val 0)
  | .pkh d a y q => some (0x7C000160 + put d.val 18 + put a.val 11 + put y.toNat 3 + put q.val 0)
  | .pkbf d a y q => some (0x7C000170 + put d.val 18 + put a.val 11 + put y.toNat 3 + put q.val 0)
  | .upkhl d a y q => some (0x7C000180 + put d.val 18 + put a.val 11 + put y.toNat 3 + put q.val 0)
  | .upkhh d a y q => some (0x7C000190 + put d.val 18 + put a.val 11 + put y.toNat 3 + put q.val 0)
  | .pk8e4 d a y q => some (0x7C0001A0 + put d.val 18 + put a.val 11 + put y.toNat 3 + put q.val 0)
  | .pk8e5 d a y q => some (0x7C0001B0 + put d.val 18 + put a.val 11 + put y.toNat 3 + put q.val 0)
  | .upk8e4 d a y q => some (0x7C0001C0 + put d.val 18 + put a.val 11 + put y.toNat 3 + put q.val 0)
  | .upk8e5 d a y q => some (0x7C0001D0 + put d.val 18 + put a.val 11 + put y.toNat 3 + put q.val 0)
  | .upkf4 d a y q => some (0x7C0001E0 + put d.val 18 + put a.val 11 + put y.toNat 3 + put q.val 0)
  | .laneid d q => some (0x7C0001F0 + put d.val 18 + put q.val 0)
  | .add d a b y z => some (0x80000000 + put d.val 19 + put a.val 13 + put b.val 7 + put y.toNat 6 + put z.toNat 5)
  | .sub d a b y z => some (0x80000001 + put d.val 19 + put a.val 13 + put b.val 7 + put y.toNat 6 + put z.toNat 5)
  | .mul d a b y z => some (0x80000002 + put d.val 19 + put a.val 13 + put b.val 7 + put y.toNat 6 + put z.toNat 5)
  | .mulh d a b y z => some (0x80000003 + put d.val 19 + put a.val 13 + put b.val 7 + put y.toNat 6 + put z.toNat 5)
  | .nmulhUniform d a b y z => some (0x80000004 + put d.val 19 + put a.val 13 + put b.val 7 + put y.toNat 6 + put z.toNat 5)
  | .andUniform d a b y z => some (0x80000005 + put d.val 19 + put a.val 13 + put b.val 7 + put y.toNat 6 + put z.toNat 5)
  | .orUniform d a b y z => some (0x80000006 + put d.val 19 + put a.val 13 + put b.val 7 + put y.toNat 6 + put z.toNat 5)
  | .xorUniform d a b y z => some (0x80000007 + put d.val 19 + put a.val 13 + put b.val 7 + put y.toNat 6 + put z.toNat 5)
  | .andnUniform d a b y z => some (0x80000008 + put d.val 19 + put a.val 13 + put b.val 7 + put y.toNat 6 + put z.toNat 5)
  | .shlUniform d a b y z => some (0x80000009 + put d.val 19 + put a.val 13 + put b.val 7 + put y.toNat 6 + put z.toNat 5)
  | .shrUniform d a b y z => some (0x8000000A + put d.val 19 + put a.val 13 + put b.val 7 + put y.toNat 6 + put z.toNat 5)
  | .sarUniform d a b y z => some (0x8000000B + put d.val 19 + put a.val 13 + put b.val 7 + put y.toNat 6 + put z.toNat 5)
  | .min d a b y z => some (0x8000000C + put d.val 19 + put a.val 13 + put b.val 7 + put y.toNat 6 + put z.toNat 5)
  | .max d a b y z => some (0x8000000D + put d.val 19 + put a.val 13 + put b.val 7 + put y.toNat 6 + put z.toNat 5)
  | .nminUniform d a b y z => some (0x8000000E + put d.val 19 + put a.val 13 + put b.val 7 + put y.toNat 6 + put z.toNat 5)
  | .nmaxUniform d a b y z => some (0x8000000F + put d.val 19 + put a.val 13 + put b.val 7 + put y.toNat 6 + put z.toNat 5)
  | .seq d a b y z => some (0x80000010 + put d.val 19 + put a.val 13 + put b.val 7 + put y.toNat 6 + put z.toNat 5)
  | .sne d a b y z => some (0x80000011 + put d.val 19 + put a.val 13 + put b.val 7 + put y.toNat 6 + put z.toNat 5)
  | .slt d a b y z => some (0x80000012 + put d.val 19 + put a.val 13 + put b.val 7 + put y.toNat 6 + put z.toNat 5)
  | .sltn d a b y z => some (0x80000013 + put d.val 19 + put a.val 13 + put b.val 7 + put y.toNat 6 + put z.toNat 5)
  | .sdiv d a b y z => some (0x80000014 + put d.val 19 + put a.val 13 + put b.val 7 + put y.toNat 6 + put z.toNat 5)
  | .ndiv d a b y z => some (0x80000015 + put d.val 19 + put a.val 13 + put b.val 7 + put y.toNat 6 + put z.toNat 5)
  | .srem d a b y z => some (0x80000016 + put d.val 19 + put a.val 13 + put b.val 7 + put y.toNat 6 + put z.toNat 5)
  | .nrem d a b y z => some (0x80000017 + put d.val 19 + put a.val 13 + put b.val 7 + put y.toNat 6 + put z.toNat 5)
  | .popcUniform d a y => some (0x80000018 + put d.val 19 + put a.val 13 + put y.toNat 6)
  | .clzUniform d a y => some (0x80000019 + put d.val 19 + put a.val 13 + put y.toNat 6)
  | .addi d a i => some (0x82000000 + put d.val 19 + put a.val 13 + put i.toNat 0)
  | .andiUniform d a i => some (0x84000000 + put d.val 19 + put a.val 13 + put i.toNat 0)
  | .oriUniform d a i => some (0x86000000 + put d.val 19 + put a.val 13 + put i.toNat 0)
  | .xoriUniform d a i => some (0x88000000 + put d.val 19 + put a.val 13 + put i.toNat 0)
  | .shliUniform d a n => some (0x8A000000 + put d.val 19 + put a.val 13 + put n.toNat 0)
  | .shriUniform d a n => some (0x8C000000 + put d.val 19 + put a.val 13 + put n.toNat 0)
  | .sariUniform d a n => some (0x8E000000 + put d.val 19 + put a.val 13 + put n.toNat 0)
  | .slti d a i => some (0x90000000 + put d.val 19 + put a.val 13 + put i.toNat 0)
  | .movw d q i k => some (0x92000000 + put d.val 19 + put q.val 17 + put i.toNat 1 + put k.toNat 0)
  | .ldgs d a w x => some (0x94000000 + put d.val 19 + put a.val 13 + put w.code 11 + put x.toNat 0)
  | .stgs d a w x => some (0x96000000 + put d.val 19 + put a.val 13 + put w.code 11 + put x.toNat 0)
  | .ldls d a w x => some (0x98000000 + put d.val 19 + put a.val 13 + put w.code 11 + put x.toNat 0)
  | .stls d a w x => some (0x9A000000 + put d.val 19 + put a.val 13 + put w.code 11 + put x.toNat 0)
  | .ldks d a w x => some (0x9C000000 + put d.val 19 + put a.val 13 + put w.code 11 + put x.toNat 0)
  | .vget d a l y => some (0x9E000000 + put d.val 19 + put a.val 12 + put l.val 7 + put y.toNat 6)
  | .vput d a l => some (0xA0000000 + put d.val 19 + put a.val 12 + put l.val 7)
  | .ballot d a l y => some (0xA2000000 + put d.val 19 + put a.val 12 + put l.val 7 + put y.toNat 6)
  | .redlAddI32 d a y => some (0xA4000000 + put d.val 19 + put a.val 12 + put y.toNat 6)
  | .redlAddF32 d a y => some (0xA4000080 + put d.val 19 + put a.val 12 + put y.toNat 6)
  | .redlMinI32 d a y => some (0xA4000100 + put d.val 19 + put a.val 12 + put y.toNat 6)
  | .redlMaxI32 d a y => some (0xA4000180 + put d.val 19 + put a.val 12 + put y.toNat 6)
  | .redlAnd d a y => some (0xA4000200 + put d.val 19 + put a.val 12 + put y.toNat 6)
  | .redlOr d a y => some (0xA4000280 + put d.val 19 + put a.val 12 + put y.toNat 6)
  | .kmovFromLane a p y => some (0xA6000000 + put a.val 12 + put p.val 8 + put y.toNat 6)
  | .kmovToLane a p => some (0xA6000800 + put a.val 12 + put p.val 8)
  | .kand d a b => some (0xA8000000 + put d.val 19 + put a.val 13 + put b.val 7)
  | .kor d a b => some (0xA8000001 + put d.val 19 + put a.val 13 + put b.val 7)
  | .kxor d a b => some (0xA8000002 + put d.val 19 + put a.val 13 + put b.val 7)
  | .kandn d a b => some (0xA8000003 + put d.val 19 + put a.val 13 + put b.val 7)
  | .knot d a => some (0xA8000004 + put d.val 19 + put a.val 13)
  | .kfroms d a => some (0xA8000005 + put d.val 19 + put a.val 13)
  | .ktos d a => some (0xA8000006 + put d.val 19 + put a.val 13)
  | .b u x => some (0xAA000000 + put u.toNat 24 + put x.toNat 0)
  | .bs u c a x => some (0xAC000000 + put u.toNat 24 + put c.code 21 + put a.val 15 + put x.toNat 0)
  | .bk u m k x => some (0xAE000000 + put u.toNat 24 + put m.code 22 + put k.val 19 + put x.toNat 0)
  | .call u x => some (0xB0000000 + put u.toNat 24 + put x.toNat 0)
  | .jr a y => some (0xB2000000 + put a.val 13 + put y.toNat 6)
  | .jrCall d a y => some (0xB2000001 + put d.val 19 + put a.val 13 + put y.toNat 6)
  | .jrReturn a y => some (0xB2000002 + put a.val 13 + put y.toNat 6)
  | .phase e c => some (0xB4000000 + put e.toNat 8 + put c.toNat 0)
  | .cbar e c => some (0xB6000000 + put e.toNat 8 + put c.toNat 0)
  | .arrive h => some (0xB8000000 + put h.val 0)
  | .waitb h => some (0xBA000000 + put h.val 0)
  | .spin a x => some (0xBC001800 + put a.val 13 + put x.toNat 0)
  | .fenceAcquire s => some (0xBE000000 + put s.code 2)
  | .fenceRelease s => some (0xBE000001 + put s.code 2)
  | .fenceFull s => some (0xBE000002 + put s.code 2)
  | .fork a m => some (0xC0000000 + put a.val 13 + put m.code 0)
  | .rend m => some (0xC2000000 + put m.code 0)
  | .elect d => some (0xC4000000 + put d.val 19)
  | .trap c => some (0xC6000000 + put c.toNat 0)
  | .tret => some (0xC8000000)
  | .sysc n => some (0xCA000000 + put n.toNat 0)
  | .mfc d x => some (0xCC000000 + put d.val 19 + put x.toNat 0)
  | .mtc d x => some (0xCE000000 + put d.val 19 + put x.toNat 0)
  | .halt => some (0xD0000000)
  | .nop => some (0xD2000000)
  | .rnxt d => some (0xD4000000 + put d.val 19)
  | .rjmp a => some (0xD6000000 + put a.val 13)
  | .rdraw d a b => some (0xD8000000 + put d.val 19 + put a.val 13 + put b.val 7)
  | .pgreq a => some (0xDA000000 + put a.val 13)
  | .launch a => some (0xDC000000 + put a.val 13)
  | .ntok a => some (0xDE000000 + put a.val 13)
  | .mcfg a b c => some (0xE0000000 + put a.val 13 + put b.val 7 + put c.val 0)
  | .mma c a b x p l f => some (0xE2000000 + put c.val 23 + put a.val 16 + put b.val 9 + put x.val 3 + put p.toNat 2 + put l.toNat 1 + put f.toNat 0)
  | .mmax c a b x p l f => some (0xE4000000 + put c.val 23 + put a.val 16 + put b.val 9 + put x.val 3 + put p.toNat 2 + put l.toNat 1 + put f.toNat 0)
  | .mmz c p => some (0xE6000000 + put c.val 23 + put p.toNat 2)
  | .mdrain c a b p => some (0xE8000000 + put c.val 23 + put a.val 16 + put b.val 9 + put p.toNat 2)
  | .msave a c => some (0xEA000000 + put a.val 13 + put c.val 0)
  | .mload a c => some (0xEC000000 + put a.val 13 + put c.val 0)
  | .msmx c a p => some (0xEE000000 + put c.val 23 + put a.val 16 + put p.toNat 2)
  | .mlint d c => some (0xF0000000 + put d.val 19 + put c.val 0)
  | .mtbl a => some (0xF2000000 + put a.val 13)
  | .copy d a => some (0xF4000000 + put d.val 19 + put a.val 13)
  | .copyw d a => some (0xF4000001 + put d.val 19 + put a.val 13)
  | .mcast d a => some (0xF4000002 + put d.val 19 + put a.val 13)
  | .gath d a b => some (0xF4000003 + put d.val 19 + put a.val 13 + put b.val 7)
  | .scat d a b => some (0xF4000004 + put d.val 19 + put a.val 13 + put b.val 7)
  | .publ d a => some (0xF4000005 + put d.val 19 + put a.val 13)
  | .qpkt d a b => some (0xF4000006 + put d.val 19 + put a.val 13 + put b.val 7)
  | .puts d a b => some (0xF4000007 + put d.val 19 + put a.val 13 + put b.val 7)
  | .getr d a => some (0xF4000008 + put d.val 19 + put a.val 13)
  | .coll d a => some (0xF4000009 + put d.val 19 + put a.val 13)
  | .lbset d a => some (0xF400000A + put d.val 19 + put a.val 13)
  | .lren d a b => some (0xF400000B + put d.val 19 + put a.val 13 + put b.val 7)
  | .uatomAdd d a b y z e => some (0xF6000000 + put d.val 19 + put a.val 13 + put b.val 7 + put y.toNat 6 + put z.toNat 5 + put e.code 3)
  | .uatomMin d a b y z e => some (0xF6000001 + put d.val 19 + put a.val 13 + put b.val 7 + put y.toNat 6 + put z.toNat 5 + put e.code 3)
  | .uatomMax d a b y z e => some (0xF6000002 + put d.val 19 + put a.val 13 + put b.val 7 + put y.toNat 6 + put z.toNat 5 + put e.code 3)
  | .uatomAnd d a b y z e => some (0xF6000003 + put d.val 19 + put a.val 13 + put b.val 7 + put y.toNat 6 + put z.toNat 5 + put e.code 3)
  | .uatomOr d a b y z e => some (0xF6000004 + put d.val 19 + put a.val 13 + put b.val 7 + put y.toNat 6 + put z.toNat 5 + put e.code 3)
  | .uatomXor d a b y z e => some (0xF6000005 + put d.val 19 + put a.val 13 + put b.val 7 + put y.toNat 6 + put z.toNat 5 + put e.code 3)
  | .uatomXchg d a b y z e => some (0xF6000006 + put d.val 19 + put a.val 13 + put b.val 7 + put y.toNat 6 + put z.toNat 5 + put e.code 3)
  | .uatomCas d a b y z e => some (0xF6000007 + put d.val 19 + put a.val 13 + put b.val 7 + put y.toNat 6 + put z.toNat 5 + put e.code 3)
  | .phaseBoundaryComplete _ => none
  | .cbarBoundaryComplete _ => none
  | .teamEnd _ => none
  | .barrierArrivalHeldCounted _ _ => none
  | .homeRenewal _ _ _ => none
  | .renewalReply _ _ => none
  | .homePublication _ _ => none
  | .publicationReply _ => none
  | .homeAtomic _ _ => none
  | .atomicReply _ => none
  | .uncachedAccessAtHome _ _ => none
  | .forcedVisibilityPoint _ => none
  | .daddUpdateArrival _ => none
  | .gridBoundary _ => none
  | .rebaseAdjustTimeout _ => none
  | .rebaseComplete => none
  | .linkWake _ => none
  | .linkWakeTimeout _ => none
  | .linkRetrainFailure _ => none
  | .dieSelfFence _ => none
  | .dieDeclaredDead _ => none
  | .dieRejoin _ => none
  | .hostWrite _ _ => none
  | .hostRead _ _ _ => none
  | .hostLinkFailure => none
  | .remoteResponse _ _ => none
  | .remoteTimeout _ => none
  | .remoteAccessIngress _ _ _ => none
  | .lsFillComplete _ _ => none
  | .lsStallTimeout _ _ => none
  | .pageResident _ _ _ => none
  | .readDuplicateCollapse _ _ => none
  | .engineCommandStart _ => none
  | .enginePublication _ => none
  | .engineCommandFault _ _ _ => none
  | .ticketComplete _ => none
  | .mcastLanding _ _ => none
  | .queueSlotServe _ _ => none
  | .putsSignal _ => none
  | .collectiveMessage _ _ _ _ => none
  | .collectivePartnerTimeout _ _ => none
  | .engineRemoteTimeout _ => none
  | .lateReply _ => none
  | .teamTrapHalt _ => none
  | .fpTrapCollectionClose _ _ => none
  | .misalignedEmulation _ _ => none
  | .handlerPlace _ _ => none
  | .watchdog _ => none
  | .teamPlace _ _ => none
  | .quantExpiry _ => none
  | .preemptSchedulerChoice _ _ => none
  | .preemptDrain _ _ => none
  | .preemptSave _ _ => none
  | .preemptFlush _ _ => none
  | .drainLimitExpiry _ => none
  | .carveOutChange _ => none
  | .carveOutTimeout _ => none
  | .coreRetire _ => none
  | .coreReturn _ => none
  | .cocoonOut _ => none
  | .cocoonIn _ => none
  | .graphSubmit _ => none
  | .launchRequest _ => none
  | .ntokRequest _ => none
  | .nodeDispatch _ _ _ => none
  | .teamSteal _ _ => none
  | .nodeCommit _ => none
  | .nodeFail _ => none
  | .graphEnd _ => none
  | .fabricStationDown _ => none
  | .deviceUnreachable _ => none
  | .gateDie _ => none
  | .ungateDie _ => none
  | .dieReset _ => none
  | .bar0RegisterWrite _ _ => none
  | .d3hotEntry => none
  | .d0Return => none
  | .auxiliaryPowerOnly => none
  | .moduleReset _ _ => none
  | .powerLimitSet _ => none
  | .pldmBaseDiscovery => none
  | .pldmMonitoring _ => none
  | .pldmFirmwareUpdate _ _ => none
  | .getMeasurements => none
  | .rmaEntryRequest _ => none
  | .debugLevelRequest _ _ => none
  | .debugAccess _ => none
  | .bridgeLinkSleep _ => none
  | .bridgeLinkUp _ => none
  | .bridgeLinkDown _ => none
  | .fabricStationUp _ _ => none
  | .hostLinkRetrained => none
  | .hdmDecoderCommit _ _ => none
  | .backInvalidateResponse _ _ => none
  | .cxlCacheResponse _ _ => none
  | .pageRequestClosed _ _ => none
  | .spdmSecuredSession => none

/-- The instruction that the decoder reads from a word laid out as memory holds it. -/
def decodeTableWord (nbits w : Nat) : Option Instr :=
  if nbits = 32 then
    match decodeBytes (bytesOfWord w) with
    | .ok (i, _) => some i
    | .error _ => none
  else none

end Sys2Proof
end

