-- ==== Sys2Proof/Machine/System.lean ====
section
/-!
DEFINITION. The meanings of the system instructions: TRAP, SYSC and TRET (R139 to R142, R336), control registers (R54,
R55, R143, R340), RDRAW (R147), PGREQ (R148), LAUNCH and NTOK (R149).
-/

namespace Sys2Proof.Machine

open Sys2Proof

/-! ### TRAP and SYSC -/

/-- TRAP: a software trap at its own address; a code below 0x0100 is illegal (R139, R140). -/
def execTrap (c : BitVec 13) (s : State) : Out :=
  if c.toNat < 0x100 then .next (s.raise trapIllegal 0)
  else .next (s.trapAgent s.cur.1 s.cur.2 c.toNat kindTrap 0 0)

/-- SYSC: the team halts past it with its service number (R142). In a team that is halting already it stops where it stands, and
calls again when it is issued again (R332). -/
def execSysc (n : BitVec 13) (s : State) : Out :=
  .next ((if s.team.trap.isSome then s else s.advance).trapAgent s.cur.1 s.cur.2 0 kindSysc 0 n.toNat)

/-! ### TRET (R336) -/

/-- The trap record's address in a handler team, 0 elsewhere (cr.trec, R340). -/
def State.trec (s : State) (t : Nat) : Nat := if (s.teamOf t).handles.isSome then (s.teamOf t).trecVA else 0

/-- A byte as a load of an agent reads it: the team's own, that of a readable copy, else the home's (R75, R226). -/
def State.loadedByte (s : State) (t a va : Nat) : Byte :=
  match s.cachedByte t a va with
  | some b => b
  | none => match s.walk (s.l1Of t) va with
    | none => 0
    | some l => (s.seenLine (s.tagOf t (lineOf va)) (lineOf va) (lineOf (l.phys va))).getD (va % 128) 0

/-- A quad as a load of an agent reads it. -/
def State.loadedQuad (s : State) (t a va : Nat) : Nat := natLE ((addrRange va 8).map (s.loadedByte t a))

/-- Reserved bits of cr.fpcr and cr.fpsr are zero (R55). -/
def fpcrOk (v : Nat) : Bool := decide (v < 256)
def fpsrOk (v : Nat) : Bool := decide (v < 32)

/-- The edits of one group in a trap record: lane PCs, mask, cr.fpsr, cr.fpcr (R333). -/
structure GroupEdit where
  pcs  : List Nat
  mask : Nat
  fpsr : Nat
  fpcr : Nat

/-- Read the edits of group `g` through `rd`, a reader of quads at offsets of the record. -/
def readGroupEdit (rd : Nat → Nat) (g : Nat) : GroupEdit :=
  let b := 0x40 + 0x120 * g
  { pcs := (List.range 32).map (fun l => rd (b + 8 * l)), mask := rd (b + 0x100) % 2 ^ 32, fpsr := rd (b + 0x108)
    fpcr := rd (b + 0x110) }

/-- What R336 asks of a group's edits. -/
def GroupEdit.ok (e : GroupEdit) : Bool :=
  fpcrOk e.fpcr && fpsrOk e.fpsr
    && (List.range 32).all (fun l => !bitOf e.mask l || (decide (e.pcs.getD l 0 % 4 = 0) && decide (e.pcs.getD l 0 < 2 ^ 52)))

/-- What R336 asks of a side sequencer's spc and sst. -/
def sideEditOk (spc sst : Nat) (started : Bool) : Bool :=
  decide (sst ≤ 2) && !(sst == 1 && !started) && !(sst == 1 && (spc % 4 != 0 || decide (0x4000 ≤ spc)))

/-- s0 to s62 from the record. -/
def readUniforms (rd : Nat → Nat) : Vector DWord 64 :=
  vecOf 64 (fun i => if i < 63 then BitVec.ofNat 64 (rd (0x1240 + 8 * i)) else 0)

/-- The edits leave the lanes of a group where they are. -/
def GroupEdit.stays (e : GroupEdit) (g : Group) : Bool :=
  e.mask == g.active.toNat && (allLanes.filter g.isActive).all (fun l => e.pcs.getD l 0 == (g.lanePc l).toNat)

/-- Install the edits of one group. A group that waits for a REMOTE access, or that stays at the instruction that it waits in,
waits on; one that they move off an MSAVE does not complete it (R215, R261, R336). -/
def Group.edit (g : Group) (e : GroupEdit) : Group :=
  { g with pcs := lanesOf (fun l => BitVec.ofNat 52 (e.pcs.getD l 0)), active := BitVec.ofNat 32 e.mask
           fpsr := BitVec.ofNat 64 e.fpsr, fpcr := BitVec.ofNat 64 e.fpcr, saving := g.saving && e.stays g
           status := if e.mask = 0 then .ended else match g.status with
             | .remote bad => .remote bad
             | .ended => .run
             | w => if e.stays g then w else .run }

/-- Install the edits of a side sequencer. -/
def Group.editSide (g : Group) (spc sst : Nat) : Group :=
  { g with pcs := fillv 32 (BitVec.ofNat 52 spc), active := 1, seqSt := sst
           status := if sst = 1 then .run else .ended }

/-- An access that is refused later finds its group as the edits left it, where they changed its registers: `g0` is the group before them
(R336; DESIGN CHOICE, log entry 75). -/
def Group.keepEdits (g g0 : Group) : Group :=
  if g.regs = g0.regs then g else { g with outs := g.outs.map (fun o => { o with regs := g.regs }) }

/-- The checks and the installation of a trap record's edits into the trapped team `u`, which has left its boundary if they move a
group (R317, R336): none where TRET raises 0x01. -/
def State.installEdits (s : State) (u : Nat) (rd : Nat → Nat) : Option State :=
  let x := s.teamOf u
  let es := (List.range x.ngrp).map (fun g => (g, readGroupEdit rd g))
  let side (a : Nat) : Nat × Nat := (rd (0x1440 + 0x20 * (a - 16)), rd (0x1440 + 0x20 * (a - 16) + 8) % 256)
  let has (a : Nat) : Bool := (if a = 16 then x.kernel.fore else x.kernel.hind) != 0xFFFFFFFF
  let sideOk (a : Nat) : Bool := sideEditOk (side a).1 (side a).2 ((s.agent u a).seqSt != 0)
  if !es.all (fun p => p.2.ok) || !sideOk 16 || !sideOk 17 then none
  else
    let s1 := es.foldl (fun s p =>
      let g := s.agent u p.1
      if p.2.mask = 0 && g.status != .ended then
        { s.setAgent u p.1 ((g.edit p.2).releaseAll s.fresh) with fresh := s.fresh + releaseDraw }
      else s.setAgent u p.1 (g.edit p.2)) s
    let s2 := ([16, 17].filter has).foldl (fun s a => s.setAgent u a ((s.agent u a).editSide (side a).1 (side a).2)) s1
    let src := (x.trap.map (·.agent)).getD 0
    let g := s2.agent u src
    let s3 := s2.setAgent u src { g with s := readUniforms rd }
    let s4 := x.agents.foldl (fun z a => z.setAgent u a ((z.agent u a).keepEdits (s.agent u a))) s3
    let stays := es.all (fun p => p.2.stays (s.agent u p.1))
    some (s4.setTeamOf u { s4.teamOf u with atB := x.atB && stays })

/-- TRET: privileged; in a handler team it installs the edits of the trap record and makes the trapped team runnable, whose record
then shows a team saved between boundaries (R141, R324, R336). -/
def execTret (s : State) : Out :=
  if !s.isSup then .next (s.raise trapPrivilege 0)
  else
    let t := s.cur.1
    let s1 := s.drain
    let x := s1.team
    match x.handles with
    | none => .next (s1.raise trapIllegal 0)
    | some u =>
      if x.resumed || x.trecVA = 0 || (s1.teamOf u).status != .trapped then .next (s1.raise trapIllegal 0)
      else
        match s1.installEdits u (fun o => s1.loadedQuad t s.cur.2 (s1.trec t + o)) with
        | none => .next (s1.raise trapIllegal 0)
        | some s2 =>
          let y := s2.teamOf u
          let s3 := s2.setTeamOf u { y with status := .saved, trap := none }
          let s4 := s3.setTeamOf t { s3.teamOf t with resumed := true }
          .next (s4.writeLate u).advance

/-! ### Control registers (R54, R55, R143, R340) -/

/-- The value of an unprivileged control register; none where the index is unassigned (R54). -/
def State.crRead (s : State) (x : Nat) : Option DWord :=
  let t := s.team
  let g := s.gridOf t.grid
  let n (v : Nat) : Option DWord := some (BitVec.ofNat 64 v)
  match x with
  | 0x000 => n (s.core.ct % 2 ^ 32)
  | 0x001 => n s.dev.tbgen
  | 0x002 => some (if s.isSide then 0 else s.grp.fpcr)
  | 0x003 => some (if s.isSide then 0 else s.grp.fpsr)
  | 0x004 => n t.lbase
  | 0x005 => n t.rank
  | 0x006 => n s.cur.2
  | 0x007 => n t.ngrp
  | 0x008 => n (t.py * t.w + t.px + t.px * 2 ^ 8 + t.py * 2 ^ 12)
  | 0x009 => n (t.w + t.h * 16)
  | 0x00A => n (t.core % 144 + dieOf t.core * 256)
  | 0x00B => n (s.dev.dom * 1024 + s.dev.mem)
  | 0x00C => n g.node
  | 0x00D => n g.attempt
  | 0x00E => n t.param
  | 0x00F => n t.lswin
  | _ => none

/-- A core's bit in cr.cmask (R340). -/
def State.inService (s : State) (c : Nat) : Bool := (vget 0 s.dev.cmask (c / 64)).getLsbD (c % 64)

/-- The value of a privileged control register (R340). -/
def State.privRead (s : State) (x : Nat) : Option DWord :=
  let n (v : Nat) : Option DWord := some (BitVec.ofNat 64 v)
  match x with
  | 0x020 => some s.dev.ctxtab
  | 0x021 => n (s.core.l1 + if s.core.l1next.isEmpty then 0 else 2 ^ 63)
  | 0x022 => some (vget 0 s.dev.cmask 0)
  | 0x023 => some (vget 0 s.dev.cmask 1)
  | 0x024 => some (vget 0 s.dev.cmask 2)
  | 0x025 => some (vget 0 s.dev.cmask 3)
  | 0x026 => some (vget 0 s.dev.cmask 4)
  | 0x027 => some s.dev.wdog
  | 0x028 => some s.dev.dlim
  | 0x029 => some s.dev.quant
  | 0x02A => n (s.trec s.cur.1)
  | 0x02B => some 0
  | 0x02C =>
    let out (p : Nat) : Bool := (s.dieAt 0).cocoon == some p || (s.dieAt 1).cocoon == some p
    let moving (p : Nat) : Bool := s.dev.moves.any (fun m => m.1 == p)
    some ((mergeBits (List.range 32) (fun i => if i < 8 then out i else decide (i < 16) && moving (i - 8)) 0).setWidth 64)
  | _ => none

/-- MFC (R54, R143, R340). -/
def execMfc (d : SReg) (x : BitVec 12) (s : State) : Out :=
  let i := x.toNat
  if 0x20 ≤ i && (s.isSide || !s.isSup) then .next (s.raise trapPrivilege 0)
  else match (if i < 0x20 then s.crRead i else s.privRead i) with
  | none => .next (s.raise trapIllegal 0)
  | some v => .next (s.setGrp (s.grp.setS d v)).advance

/-- Put events of the device on the agenda. -/
def State.plan (s : State) (l : List Auto) : State := { s with agenda := s.agenda ++ l.map Turn.auto }

/-- The events that a change of cr.cmask word `j` starts: a retirement for each bit cleared, a return for each set. -/
def cmaskEvents (j : Nat) (old new : DWord) : List Auto :=
  (List.range 64).filterMap (fun i =>
    if old.getLsbD i && !new.getLsbD i then some (.coreRetire (64 * j + i))
    else if !old.getLsbD i && new.getLsbD i then some (.coreReturn (64 * j + i)) else none)

/-- A write of cr.cmask word `j`. -/
def State.writeCmask (s : State) (j : Nat) (v : DWord) : State :=
  let old := vget 0 s.dev.cmask j
  ({ s with dev := { s.dev with cmask := vset s.dev.cmask j v } }).plan (cmaskEvents j old v)

/-- The effect of a write to a privileged control register; none for 0x01, an error code otherwise (R340). -/
def State.privWrite (s : State) (x : Nat) (v : DWord) : Except Nat State :=
  let n := v.toNat
  match x with
  | 0x020 =>
    if n % 2 ^ 16 ≠ 0 || decide (2 ^ 52 ≤ n) then .error trapIllegal
    else .ok { s with dev := { s.dev with ctxtab := v } }
  | 0x021 =>
    if 3 ≤ n then .error trapIllegal
    else
      let c := s.core
      .ok ((s.setCore { c with l1next := c.l1next ++ [n] }).plan [.carveOutChange s.team.core])
  | 0x022 => .ok (s.writeCmask 0 v)
  | 0x023 => .ok (s.writeCmask 1 v)
  | 0x024 => .ok (s.writeCmask 2 v)
  | 0x025 => .ok (s.writeCmask 3 v)
  | 0x026 => if 2 ^ 32 ≤ n then .error trapIllegal else .ok (s.writeCmask 4 v)
  | 0x027 => .ok { s with dev := { s.dev with wdog := v } }
  | 0x028 => .ok { s with dev := { s.dev with dlim := v } }
  | 0x029 => .ok { s with dev := { s.dev with quant := v } }
  | 0x02B =>
    let asid := bitsOf n 31 16
    let node := bitsOf n 63 32
    if bitsOf n 15 2 ≠ 0 then .error trapIllegal
    else if !s.team.ctx.sup && decide (asid ≠ s.team.asid) then .error trapPrivilege
    else .ok (s.plan [match n % 4 with
      | 0 => .preemptSchedulerChoice asid node
      | 1 => .preemptDrain asid node
      | 2 => .preemptSave asid node
      | _ => .preemptFlush asid node])
  | 0x02C =>
    if 16 ≤ n then .error trapIllegal
    else .ok { s with dev := { s.dev with moves := s.dev.moves ++ [(n % 8, decide (8 ≤ n))] } }
  | _ => .error trapIllegal

/-- MTC (R54, R55, R143, R340). -/
def execMtc (d : SReg) (x : BitVec 12) (s : State) : Out :=
  let i := x.toNat
  let g := s.grp
  let v := g.getS d
  if i = 2 then
    if fpcrOk v.toNat then .next (s.setGrp { g with fpcr := v }).advance else .next (s.raise trapIllegal 0)
  else if i = 3 then
    if fpsrOk v.toNat then .next (s.setGrp { g with fpsr := v }).advance else .next (s.raise trapIllegal 0)
  else if i < 0x20 then .next (s.raise trapIllegal 0)
  else if !s.isSup then .next (s.raise trapPrivilege 0)
  else match s.privWrite i v with
  | .ok s1 => .next s1.advance
  | .error c => .next (s.raise c 0)

/-! ### Generators, pages and graph nodes (R147 to R149) -/

/-- The stream seed of a handle, if it is granted (R147, R320). It is read where its page stands, mapped or not and absent or not, with no
memory trap but 0x09 and no wait but for the host: the spec names none (DESIGN CHOICE, log entry 85). -/
def State.seedOf (s : State) (h : Nat) : Option (BitVec 128) :=
  let c := s.team.ctx
  if c.nseed ≤ h then none
  else
    let v := natLE (s.readVaN c.l1pa (c.seeds + 16 * h) 16)
    if v = 0 then none else some (BitVec.ofNat 128 v)

/-- RDRAW (R147); a seed that cannot be read is 0x09 (R392; DEDUCED, log entry 90). -/
def execRdraw (d a b : SReg) (s : State) : Out :=
  let g := s.grp
  let h := (g.getS a).toNat
  let va := s.team.ctx.seeds + 16 * h
  if decide (h < s.team.ctx.nseed) && s.badVa s.team.ctx.l1pa va 16 then .next (s.raise trapPoison va)
  else match s.seedOf h with
  | none => .next (s.raise trapPrivilege 0)
  | some seed =>
    let r := genStep (gfJump seed (g.getS b).toNat)
    .next (s.setGrp (g.setS d ((genOut r).setWidth 64))).advance

/-- PGREQ: a page that is not resident is asked of the page service (R148). -/
def execPgreq (a : SReg) (s : State) : Out :=
  let va := (s.grp.getS a).toNat
  let x := s.team
  match s.walk (s.l1Of s.cur.1) va with
  | none => .next (s.raise (s.noLeaf (s.l1Of s.cur.1) va) va)
  | some l =>
    let ask := (x.asid, l.page va)
    if l.rs || s.net.pageRq.contains ask then .next s.advance
    else .next ({ s with net := { s.net with pageRq := s.net.pageRq ++ [ask] } }).advance

/-- The form of LAUNCH and NTOK: the checks, a release, and a posted request to the graph engine (R149). -/
def State.graphRequest (s : State) (launch : Bool) (a : SReg) : State :=
  let va := (s.grp.getS a).toNat
  let post (s0 : State) : State :=
    let s := s0.adjust s0.team.core
    let x := s.team
    let s1 := s.setTeam { x with used := { x.used with launch := true } }
    let gi := (s1.gridOf x.grid).gi
    ({ s1 with
      net := { s1.net with graphRq := s1.net.graphRq ++ [(launch, x.asid, va, gi)] }
      graphs := modifyAt s1.graphs gi (fun gr => { gr with sent := gr.sent + 1 }) }).advance
  match s.grp.status with
  | .fence _ => s.point true .device post
  | _ =>
    if va % 128 ≠ 0 then s.raise trapMisaligned va
    else match s.chkGlobal s.cur.1 va .store with
    | .trap c f => s.raise c f
    | .absent p => if s.attrAt s.cur.1 va = .remote then s.raise trapProtection va else s.awaitPages s.cur.1 [p]
    | _ => if s.attrAt s.cur.1 va = .remote then s.raise trapProtection va else s.point true .device post

/-- LAUNCH (R149). -/
def execLaunch (a : SReg) (s : State) : Out := .next (s.graphRequest true a)
/-- NTOK (R149). -/
def execNtok (a : SReg) (s : State) : Out := .next (s.graphRequest false a)

end Sys2Proof.Machine
end

