-- ==== Sys2Proof/Machine/Links.lean ====
section
/-!
DEFINITION. The bridge links and the compute dies as the control die handles them: sleeping, waking and retraining
links (R248, R250), fencing, death and rejoining of a die (R251 to R253, R389).
-/

namespace Sys2Proof.Machine

open Sys2Proof

def State.setLink (s : State) (l : Fin 3) (x : Link) : State :=
  { s with dev := { s.dev with links := vset s.dev.links l.val x } }

def State.setDie (s : State) (d : Nat) (x : Die) : State :=
  { s with dev := { s.dev with dies := vset s.dev.dies d x } }

/-- The dies whose invalidations a request at its home waits for: those that hold copies of the HOSTED line that it writes
(R250, R255). -/
def State.reqHolders (s : State) (r : Req) : List (Nat × Nat) :=
  let wr := match r.kind with
    | .renew _ => false
    | .uload _ _ => false
    | _ => true
  match (if wr then s.atHome r true else .refused 0) with
  | .here l pa => if l.attr = .hosted then (s.holderDies pa (lineOf r.va) (some (r.core, r.asid))).map (fun d => (homeOf pa, d)) else []
  | _ => []

/-- Where the next instruction of group `a` of team `t` lies: it is fetched from its line's home (R271). -/
def State.fetchLeaf (s : State) (t a : Nat) : Option (Leaf × Nat) :=
  if 16 ≤ a then none
  else
    let pc := (s.agent t a).pc.toNat
    (s.walk (s.l1Of t) pc).map (fun l => (l, l.physFor (dieOf (s.teamOf t).core) pc))

/-- The ways of a group's fetch: from its core's die to the home of its line (R250, R271). -/
def State.fetchTrips (s : State) (t a : Nat) : List (Nat × Nat) :=
  match s.fetchLeaf t a with
  | some (l, pa) => if l.attr = .remote || !l.rs || s.homeGone (lineOf pa) then [] else [(dieOf (s.teamOf t).core, homeOf pa)]
  | none => []

/-- The links that a fetch takes are up. -/
def State.fetchReaches (s : State) (t a : Nat) : Bool := (s.fetchTrips t a).all (fun j => s.pathOk j.1 j.2)

/-- What the host holds exclusively of a group's next line of code, and of the tables that map it (R257, R271, R277). -/
def State.fetchGranules (s : State) (t a : Nat) : List Nat :=
  match s.fetchLeaf t a with
  | none => []
  | some (l, pa) => distinct (s.tableHeld (s.l1Of t) (s.agent t a).pc.toNat ++ (if l.attr = .hosted && l.rs then s.hostGranules pa 4 [2] else []))

/-- A snoop for one of some granules is held by a link (R250, R258). -/
def State.snoopHeld (s : State) (gs : List Nat) : Bool := s.net.snoops.any (fun p => gs.contains p.1 && !s.pathCtl (homeOf p.1))

/-- The groups of the resident teams that are about to fetch. -/
def State.fetching (s : State) : List (Nat × Nat) :=
  (s.teamKeys.filter (fun t => (s.teamOf t).status == .placed)).flatMap (fun t =>
    ((s.teamOf t).agents.filter (fun a => (s.agent t a).status == .run)).map (fun a => (t, a)))

/-- The pairs of dies that the messages in flight go between: fetches, requests, replies, invalidations, what engines are about to read
and publish, and snoops, which leave the module through the control die (R250, R257, R258). -/
def State.journeys (s : State) : List (Nat × Nat) :=
  s.net.reqs.flatMap (fun r => (dieOf r.core, s.reqSlice r / 16) :: s.reqHolders r)
    ++ s.net.reps.map (fun r => (r.slice / 16, dieOf r.core))
    ++ s.net.cmds.flatMap (fun c => s.cmdTrips c (s.cmdVas c))
    ++ s.net.snoops.map (fun p => (2, homeOf p.1))
    ++ s.fetching.flatMap (fun p => s.fetchTrips p.1 p.2)

/-- A request is held by a link: on its own way, or on that of an invalidation or a snoop that it waits for (R250, R258). -/
def State.reqHeld (s : State) (r : Req) : Bool :=
  let wr := match r.kind with
    | .renew _ => false
    | .uload _ _ => false
    | _ => true
  let gs := match s.atHome r wr with
    | .table gs => gs
    | .here l pa => if l.attr = Attr.hosted then s.hostGranules pa 128 [1, 2] else []
    | _ => []
  !s.reqPath r || (s.reqHolders r).any (fun j => s.dieLive j.2 && !s.pathOk j.1 j.2)
    || s.snoopHeld gs

/-- A message is held for link `l`: its route takes the link (R250). -/
def State.heldFor (s : State) (l : Nat) : Bool := s.journeys.any (fun j => (s.route j.1 j.2).contains l)

/-- LINK_WAKE: a message bound over a sleeping link is held, and the link starts to wake (R250). -/
def execLinkWake (l : Fin 3) (s : State) : Out :=
  if s.linkAt l.val = .asleep && s.heldFor l.val then .next (s.setLink l .waking) else .next s

/-- LINK_WAKE_TIMEOUT: a link that has not woken in 10 µs retrains (R250). -/
def execLinkWakeTimeout (l : Fin 3) (s : State) : Out :=
  if s.linkAt l.val = .waking then .next (s.setLink l .retraining) else .next s

/-- BRIDGE_LINK_SLEEP: a link whose ends are idle goes to sleep (R250). -/
def execBridgeLinkSleep (l : Fin 3) (s : State) : Out :=
  if s.linkAt l.val = .up && s.net.reqs.isEmpty && s.net.reps.isEmpty && s.net.snoops.isEmpty then .next (s.setLink l .asleep) else .next s

/-- BRIDGE_LINK_UP: a waking or retraining link comes up (R250). -/
def execBridgeLinkUp (l : Fin 3) (s : State) : Out :=
  if s.linkAt l.val = .waking || s.linkAt l.val = .retraining then .next (s.setLink l .up) else .next s

/-- BRIDGE_LINK_DOWN: a link fails and retrains; traffic takes the other path meanwhile (R248). -/
def execBridgeLinkDown (l : Fin 3) (s : State) : Out :=
  if s.linkAt l.val = .up then .next (s.setLink l .retraining) else .next s

/-- LINK_RETRAIN_FAILURE: the link is lost; the die beyond a link of the control die is declared dead (R250). -/
def execLinkRetrainFailure (l : Fin 3) (s : State) : Out :=
  if s.linkAt l.val ≠ .retraining then .next s
  else
    let s1 := s.setLink l .down
    .next (match l.val with
      | 1 => s1.plan [.dieDeclaredDead 0]
      | 2 => s1.plan [.dieDeclaredDead 1]
      | _ => s1)

/-- A die has lost both its paths to the control die (R251). -/
def State.cutOff (s : State) (d : Nat) : Bool :=
  s.linkAt (1 + d) == .down && (s.linkAt 0 == .down || s.linkAt (2 - d) == .down)

/-- A die fences itself: its cores halt and its island refuses every request (R251). -/
def State.fence (s : State) (d : Nat) : State := s.setDie d { s.dieAt d with fenced := true }

/-- DIE_SELF_FENCE (R251). -/
def execDieSelfFence (d : Fin 2) (s : State) : Out := if s.cutOff d.val then .next (s.fence d.val) else .next s

/-- A copy's line is homed on a die. -/
def Copy.homedOn (c : Copy) (d : Nat) : Bool := !isHostPa c.leaf.pa && decide (homeDie c.line = d)

/-- A grid fails by node abort, unless it is failing already (R252, R343). -/
def State.abortGrid (s : State) (g rank : Nat) : State :=
  match Tab.find? s.grids g with
  | none => s
  | some gr => match gr.failing with
    | some _ => s
    | none => s.setGridOf g { gr with failing := some (2, trapAbort, 0, 0, rank) }

/-- What becomes of a reply of a die that has died: the requester gets 0x09 for it, as for an access made now (R252, R253). -/
def RepKind.lost (k : RepKind) : RepKind :=
  match k with
  | .renewed _ _ _ _ _ _ => .failed trapPoison false
  | .published _ _ _ _ => .failed trapPoison true
  | .atomic _ _ _ _ old lane => .failedOp trapPoison old.length lane true
  | .uncached data _ lane st => .failedOp trapPoison data.length lane st
  | .failed c p => .failed c p
  | .failedOp c k lane old => .failedOp c k lane old

/-- Requests in flight to the slices of a dead die are refused, and so are those whose replies were on their way from there; the
messages of its own cores are dropped (R2, R252, R253). -/
def State.refuseTo (s : State) (d : Nat) : State :=
  let dead (r : Req) : Bool := s.reqSlice r / 16 == d
  let own (r : Req) : Bool := dieOf r.core == d
  let fails := (s.net.reqs.filter (fun r => dead r && !own r)).map (fun r =>
    ({ id := r.id, core := r.core, team := r.team, agent := r.agent, asid := r.asid, va := r.va
       kind := r.kind.refusal trapPoison, slice := s.reqSlice r, gone := false } : Rep))
  { s with net := { s.net with
      reqs := s.net.reqs.filter (fun r => !dead r && !own r)
      reps := ((s.net.reps.filter (fun r => dieOf r.core != d)).map (fun r =>
        if r.slice / 16 = d then { r with kind := r.kind.lost } else r)) ++ fails } }

/-- A team whose die has died is gone with what its core held of it: it issues nothing more, and its node, which fails, releases
its record (R2, R252). -/
def State.loseTeam (s : State) (t : Nat) : State :=
  let x := s.teamOf t
  let s1 := s.setTeamOf t { x with
    status := .ended, unpub := [], pubs := [], ovf := [], ls := [], lsBad := [], kept := [], array := none, restart := none, forced := false
    begun := none, trap := none, hbHeld := [], hbq := [], request := none }
  x.agents.foldl (fun s a => s.setAgent t a { s.agent t a with
    status := .ended, seqSt := 0, outs := [], stores := [], tickets := [], hold := [], xfer := [], saving := false }) s1

/-- A line of an attempt's shadow is homed on die `d` (R307, R341). -/
def State.shadowOn (s : State) (l1pa d va : Nat) : Bool :=
  (s.walk l1pa va).any (fun l => l.attr != .remote && isDevicePa l.pa && decide (homeDie (l.phys va) = d))

/-- The entry of the export table at `base` that an exported address names cannot be read (R371, R392; DEDUCED, log entry 90). -/
def State.exportLost (s : State) (base xaddr : Nat) : Bool :=
  let a := base + 16 * bitsOf xaddr 44 36
  s.homeGone a || s.poisonedIn a 16

/-- The ASID and the address that an exported address names in the export table at `base` (R371). -/
def State.exportVa (s : State) (base xaddr : Nat) : Nat × Nat :=
  let e := s.mem.readLE (base + 16 * bitsOf xaddr 44 36) 16
  (bitsOf e 31 16, (bitsOf e 127 64 + 0x10000 * bitsOf xaddr 35 16 + xaddr % 0x10000) % 2 ^ 64)

/-- The shadow bytes that an access of a peer brings: runs at exported addresses (R366, R376). -/
def Kept.parts (k : Kept) : List (Nat × List Byte) :=
  match k.acc with
  | .publish ps => ps
  | .copy ps => ps
  | _ => []

/-- A peer's shadow bytes lie in part on die `d`. -/
def State.keptOn (s : State) (d : Nat) (k : Kept) : Bool :=
  k.parts.any (fun p => (List.range p.2.length).any (fun i =>
    let a := s.exportVa k.base (p.1 + i)
    s.shadowOn (s.asidL1 a.1) d a.2))

/-- Shadow lines stand beside their homes: those of a dead die are lost, and so are its cores' engines. A command that has lost bytes
ends with 0x01, an attempt whose node has lost declared bytes fails, and what a peer has sent of them is answered as poisoned when it
is to be merged (R2, R307, R341, R366; DEDUCED, log entry 48). `v` is the state before, in which tables homed on the die still tell where
lines lie. -/
def State.loseShadows (s v : State) (d : Nat) : State :=
  let lost (c : Cmd) : Option Nat :=
    if c.stage = .complete && c.status ≠ 0x0B then none
    else (c.shadow.find? (fun x => x.1 == 0 && v.shadowOn (v.cmdL1 c) d x.2.1)).map (fun x => lineOf x.2.1)
  let s0 := { s with net := { s.net with
    shadows := s.net.shadows.filter (fun k => !v.keptOn d k)
    cmds := s.net.cmds.filter (fun c => !(c.onCore && decide (dieOf c.core = d))) } }
  let s1 := s0.net.cmds.foldl (fun z c => match lost c with
    | some va => z.endAny c 0x01 va
    | none => z) s0
  (Tab.keys s1.grids).foldl (fun s g =>
    let gr := s.gridOf g
    let keep := gr.shadow.filter (fun x => !v.shadowOn gr.ctx.l1pa d x.1)
    if keep.length = gr.shadow.length then s else (s.setGridOf g { gr with shadow := keep }).abortGrid g 0xFFFFFFFF) s1

/-- What a die's reset takes from the control die's view of it: its lines' poison, its MTBs' translations, and the snoops for its
granules (R2, R253). -/
def State.forgetDie (s : State) (d : Nat) : State :=
  { s with
    memPoison := s.memPoison.filter (fun p => !(isDevicePa p.1 && homeDie p.1 == d))
    net := { s.net with snoops := s.net.snoops.filter (fun p => homeOf p.1 != d) }
    dev := { s.dev with mtb := s.dev.mtb.filter (fun e => e.slice / 16 != d) } }

/-- The held dadd updates of lines homed on die `d`, in its slices or written as runs, are lost, and their nodes fail (R252); `v` is the
state before. -/
def State.loseUpdates (s v : State) (d : Nat) : State :=
  let gone (g : Nat) (u : Dadd) : Bool := v.shadowOn (v.gridOf g).ctx.l1pa d u.line
  let inSlice := s.lines.flatMap (fun p => if isDevicePa p.1 && homeDie p.1 == d then p.2.held else [])
  let s1 := inSlice.foldl (fun s u => s.abortGrid u.grid (u.i / 512)) s
  let s2 := (Tab.keys s1.grids).foldl (fun s g =>
    let gr := s.gridOf g
    match gr.held.find? (gone g) with
    | none => s
    | some u => (s.setGridOf g { gr with held := gr.held.filter (fun u => !gone g u) }).abortGrid g (u.i / 512)) s1
  { s2 with lines := s2.lines.filter (fun p => !(isDevicePa p.1 && homeDie p.1 == d)) }

/-- The control die declares die `d` dead (R252). -/
def State.declareDead (s : State) (d : Nat) : State :=
  let s1 := s.setDie d { s.dieAt d with alive := false, fenced := true, stale := true }
  let victims := s1.teamKeys.filter (fun t =>
    ((s1.teamOf t).status == .placed || (s1.teamOf t).status == .cocooned) && dieOf (s1.teamOf t).core == d)
  let s2 := victims.foldl (fun s t => (s.abortGrid (s.teamOf t).grid (s.teamOf t).rank).loseTeam t) s1
  let v := s.setDie d { s.dieAt d with alive := true, fenced := false }
  let s3 := s2.loseUpdates v d
  let s4 : State := { s3 with
    cores := s3.cores.map (fun (p : Nat × Core) => (p.1, { p.2 with copies := p.2.copies.filter (fun c => !c.homedOn d) }))
    teams := s3.teams.map (fun (p : Nat × Team) => (p.1, { p.2 with kept := p.2.kept.filter (fun c => !c.homedOn d) })) }
  ((s4.loseShadows v d).forgetDie d).refuseTo d

/-- DIE_DECLARED_DEAD (R252): of a die that a failed retrain cut off, or that has fenced itself. -/
def execDieDeclaredDead (d : Fin 2) (s : State) : Out :=
  if (s.dieAt d.val).alive && (s.linkAt (1 + d.val) == .down || (s.dieAt d.val).fenced) then .next (s.declareDead d.val)
  else .next s

/-- A reset die rejoins with a new incarnation: M = 0 in its slices, CT = 0 and nothing else on its cores, cocooned ones included
(the run queues stand on the control die, R2), and no directory entry; every line homed there reads as poisoned until it is
written whole. A die of incarnation 65,535 stays fenced (R253). -/
def State.rejoin (s : State) (d : Nat) : State :=
  let x := s.dieAt d
  if 65535 ≤ x.inc then s
  else
    let s1 := (s.forgetDie d).setDie d { x with alive := true, fenced := false, inc := x.inc + 1, stale := true, cocoon := none }
    { s1 with
      dev := { s1.dev with
        memo := lanesOf (fun i => if i / 16 = d then 0 else vget 0 s1.dev.memo i)
        gran := s1.dev.gran.filter (fun p => homeDie p.1 != d) }
      cores := (s1.cores.filter (fun p => !(decide (512 + 144 * d ≤ p.1) && decide (p.1 < 656 + 144 * d)))).map (fun (p : Nat × Core) =>
        if dieOf p.1 = d then (p.1, { Core.empty with gen := s.genBit, queue := p.2.queue, round := p.2.round }) else
          (p.1, { p.2 with copies := p.2.copies.filter (fun c => !(c.homedOn d && c.inc == x.inc)) })) }

/-- DIE_REJOIN (R253). -/
def execDieRejoin (d : Fin 2) (s : State) : Out :=
  if (s.dieAt d.val).alive then .next s else .next (s.rejoin d.val)

/-- A register of BAR0 takes a write: the device has its firmware and is in D0, the host link works, and, after a failure of it, the host
has committed its decoder again (R387, R393, R398). -/
def State.barOpen (s : State) : Bool := s.dev.rdy && s.dev.power && !s.dev.d3 && s.dev.hostUp && !s.dev.hostShut

/-- DIE_RESET: a write of DIERST, which the device takes with its firmware up and in D0: the die is fenced, declared dead, and rejoins
(R389, R393, R398). -/
def execDieReset (d : Fin 2) (s : State) : Out :=
  if s.barOpen then .next (((s.fence d.val).declareDead d.val).rejoin d.val) else .next s

end Sys2Proof.Machine
end

