-- ==== Sys2Proof/Machine/Remote.lean ====
section
/-!
DEFINITION. The events of the fabric: responses to this device's requests (R259 to R261, R302, R376), accesses of peers
through the export table (R371, R254), stations and unreachable devices (R369, R375, R390).
-/

namespace Sys2Proof.Machine

open Sys2Proof

/-! ### Responses (R259, R261) -/

/-- Take request `n` of the fabric off the list. -/
def State.dropRemote (s : State) (n : Nat) : State :=
  { s with net := { s.net with remote := s.net.remote.eraseIdx n } }

/-- Requests of an agent that its group stands waiting for. -/
def State.remoteWaits (s : State) (t a : Nat) : Bool :=
  s.net.remote.any (fun r => r.team == t && r.agent == a && (match r.kind with
    | .load _ l => decide (l < 32)
    | .atomic _ _ _ _ _ => true
    | _ => false))

/-- A group whose responses have all arrived traps, once its team is placed, if a lane was refused: no register is written (R52,
R261). -/
def State.remoteEnd (s : State) (t a : Nat) : State :=
  let g := s.agent t a
  match g.status with
  | .remote bad =>
    if s.remoteWaits t a || (s.teamOf t).status ≠ .placed then s
    else match lowestBad bad with
    | none => s
    | some (_, code, va) => match g.outs.find? (fun o => o.remote) with
      | none => s
      | some o => s.trapAccess t a o code va
  | _ => s

/-- The `k` bytes at `va` of an agent's REMOTE access are refused: the lowest lane that reads them traps, at the address of its
access (R52, R261). -/
def State.remoteBad (s : State) (t a lane k : Nat) (old : Bool) (code va : Nat) : State :=
  let g := s.agent t a
  match g.status with
  | .remote bad =>
    let hit (sl : Slot) : Bool := sl.val.isNone && decide (va ≤ sl.va) && decide (sl.va < va + k)
    let at_ := match g.outs.find? (fun o => o.remote && o.wants va k lane old) with
      | some o => if old then (lane, va) else match o.slots.find? hit with
        | some sl => (sl.lane, sl.va - sl.idx)
        | none => (lane, va)
      | none => (lane, va)
    (s.setAgent t a { g with status := .remote (bad ++ [(at_.1, code, at_.2)]) }).remoteEnd t a
  | .block _ => if (s.teamOf t).status = .placed then s.trapAgent t a code kindFault va 0 else s.setAgent t a { g with status := .run }
  | _ => s

/-- Trap code of an answer (R371, R392); none where the access was performed. -/
def badAnswer (x : RemoteAnswer) : Option Nat :=
  match x with
  | .data _ => none
  | .done => none
  | .noTranslation => some trapNoMap
  | .protection => some trapProtection
  | .poisoned => some trapPoison
  | .refusedAt prot _ => some (if prot then trapProtection else trapNoMap)
  | .stale => none

/-- The engine status of an answer's code (R294). -/
def statusOf (code : Nat) : Nat := if code = trapNoMap then 0x02 else if code = trapProtection then 0x03 else 0x01

/-- The bytes of a REMOTE load or atomic arrive for a lane, as a late reply if the team is away (R331). -/
def State.remoteData (s : State) (r : RemoteReq) (lane : Nat) (old : Bool) (bs : List Byte) : State :=
  let s1 := s.fillFirst r.team r.agent r.va lane old bs
  if (s.teamOf r.team).status = .placed then s1 else s.recordLate s1 r.team

/-- A view point of a team for a REMOTE atomic's reply; no CT changes (R259). -/
def State.remoteView (s : State) (t : Nat) : State :=
  let x := s.teamOf t
  if x.status = .placed then s.viewPoint t else s.setTeamOf t { x with kept := [] }

/-- The issuer's address of the line that a shadow byte refused by device `dev` lies in: the one whose exported address the answer
names (R371). -/
def State.faultVa (s : State) (c : Cmd) (dev : Nat) (ans : RemoteAnswer) (va : Nat) : Nat :=
  match ans with
  | .refusedAt _ xa => match c.shadow.find? (fun x => x.1 == 0 && (match s.walk (s.cmdL1 c) x.2.1 with
      | some l => l.attr == .remote && l.dev == dev && lineOf (l.phys x.2.1) == lineOf xa
      | none => false)) with
    | some x => lineOf x.2.1
    | none => va
  | _ => va

/-- A part of an engine command has been answered; `f` is what follows when it was the last. -/
def State.partDone (s : State) (cmd id : Nat) (bad : Option Nat) (va : Nat) (upd : Cmd → Cmd) (f : State → Cmd → State) : State :=
  match s.cmdAt cmd with
  | none => s
  | some c =>
    if !c.await.contains id then s
    else match bad with
    | some code => s.endCmd c (statusOf code) va
    | none =>
      let c1 := upd { c with await := c.await.erase id }
      if c1.await.isEmpty then f s c1 else s.setCmd c1

/-- A REMOTE store has failed with trap code `c`: its agent traps at its next fence of system scope. Nobody waits for a store of the
graph engine, or of a team that was stopped: agent 18 (R134, R261). -/
def State.storeLost (s : State) (r : RemoteReq) (c : Nat) : State :=
  if 18 ≤ r.agent then s
  else
    let x := s.teamOf r.team
    s.setTeamOf r.team { x with remTrap := Tab.set x.remTrap r.agent (Tab.get (c, r.va) x.remTrap r.agent) }

/-- What the answer to request `n` of the fabric does. -/
def State.takeAnswer (s : State) (n : Nat) (ans : RemoteAnswer) : State :=
  match s.net.remote[n]? with
  | none => s
  | some r =>
    let s1 := s.dropRemote n
    let bs (k : Nat) : List Byte := match ans with
      | .data b => padBytes k b
      | _ => padBytes k []
    match r.kind, badAnswer ans with
    | .load k lane, none =>
      if lane < 32 then (s1.remoteData r lane false (bs k)).remoteEnd r.team r.agent
      else
        let g := s1.agent r.team r.agent
        match g.status with
        | .block got => s1.setAgent r.team r.agent { g with status := .block (bytesAt r.va (bs k) ++ got) }
        | _ => s1
    | .load k lane, some c => s1.remoteBad r.team r.agent lane k false c r.va
    | .atomic _ k _ _ lane, none => ((s1.remoteView r.team).remoteData r lane true (bs k)).remoteEnd r.team r.agent
    | .atomic _ k _ _ lane, some c => s1.remoteBad r.team r.agent lane k true c r.va
    | .store _, none => s1
    | .store _, some c => s1.storeLost r c
    | .shadow cmd _, b => match s1.cmdAt cmd with
      | some d => s1.partDone cmd r.id b (s1.faultVa d r.dev ans r.va) id (fun s c => s.setCmd c)
      | none => s1
    | .merge cmd, b => match s1.cmdAt cmd with
      | some d => s1.partDone cmd r.id b (s1.faultVa d r.dev ans r.va) id (fun s c => s.setCmd c)
      | none => s1
    | .discard _, _ => s1
    | .signal cmd, b => s1.partDone cmd r.id b (lineOf r.va) id (fun s c => s.cmdDone c)
    | .signalBarrier cmd _ _ _, some _ => match s1.cmdAt cmd with
      | some c => s1.setCmd { c.finish 0x08 0 c.count with await := [] }
      | none => s1
    | .signalBarrier cmd _ _ _, none => s1.partDone cmd r.id none r.va id (fun s c => s.cmdDone c)
    | .fetch cmd k, b =>
      s1.partDone cmd r.id b r.va (fun c => { c with fetched := bytesAt r.va (bs k) ++ c.fetched }) (fun s c => s.setCmd c)

/-- The control die holds the answers to a cocooned team's own accesses (R339). -/
def State.holdsAnswer (s : State) (r : RemoteReq) : Bool :=
  s.cocooned r.team && decide (r.agent < 18) && (match r.kind with
    | .load _ _ => true
    | .store _ => true
    | .atomic _ _ _ _ _ => true
    | _ => false)

/-- REMOTE_RESPONSE: the answer to request `n`, over a station that is up; one that carries a superseded incarnation is dropped, and
one for a cocooned team is held (R259, R261, R302, R339, R366, R369, R371, R375, R376). -/
def execRemoteResponse (n : Nat) (ans : RemoteAnswer) (s : State) : Out :=
  match s.net.remote[n]? with
  | none => .next s
  | some r =>
    if !s.fabricUp || ans = .stale || r.ans.isSome then .next s
    else if s.holdsAnswer r then
      .next { s with net := { s.net with remote := modifyAt s.net.remote n (fun r => { r with ans := some ans }) } }
    else .next (s.takeAnswer n ans)

/-- The answers that were held for a team are delivered (R339). -/
def State.releaseAnswers (s : State) (t : Nat) : State :=
  (s.net.remote.filter (fun r => r.team == t && r.ans.isSome)).foldl (fun s r =>
    match s.net.remote.findIdx? (fun q => q.id == r.id), r.ans with
    | some n, some a => s.takeAnswer n a
    | _, _ => s) s

/-- What becomes of request `n` when no answer comes within 1 ms (R261). -/
def State.remoteExpire (s : State) (n : Nat) : State :=
  match s.net.remote[n]? with
  | none => s
  | some r =>
    let s1 := s.dropRemote n
    if r.ans.isSome then s
    else match r.kind with
    | .load k lane => s1.remoteBad r.team r.agent lane k false trapPoison r.va
    | .atomic _ k _ _ lane => s1.remoteBad r.team r.agent lane k true trapPoison r.va
    | .store _ => s1.storeLost r trapPoison
    | .discard _ => s1
    | .shadow cmd _ => if (s.cmdAt cmd).isNone then s1 else s
    | .merge cmd => if (s.cmdAt cmd).isNone then s1 else s
    | _ => s

/-- REMOTE_TIMEOUT (R261); an engine's requests end under ENGINE_REMOTE_TIMEOUT, and in D3hot none does (R393). -/
def execRemoteTimeout (n : Nat) (s : State) : Out := if s.awake then .next (s.remoteExpire n) else .next s

/-! ### Accesses of peers (R371, R376) -/

/-- The export table's base and its enable bit (R388). -/
def State.exportBase (s : State) : Nat := bitsOf s.dev.expbase.toNat 51 13 * 2 ^ 13
def State.exportOn (s : State) : Bool := s.dev.expbase.getLsbD 0

/-- How an access of a peer stands at its destination. -/
inductive Ingress where
  | refused (ans : RemoteAnswer)
  /-- it waits for a page (R281) or a collapse (R280) -/
  | waits (s : State)
  /-- it waits for the host (R257) -/
  | host (s : State)
  /-- performed at this address, in this context's tables -/
  | ok (l1pa va pa : Nat)

/-- The access of `n` bytes at exported address `xaddr`, under the export table at `base`, enabled by `on`: as they stood when it
arrived; an entry, a context or a table that cannot be read is answered as poisoned (R371, R388, R392; DEDUCED, log entry 90). `wr`
writes, `at_` is an atomic or a signal. -/
def State.ingressAt (s : State) (base : Nat) (on : Bool) (xaddr n : Nat) (wr at_ : Bool) : Ingress :=
  let x := bitsOf xaddr 44 36
  let q := bitsOf xaddr 35 16
  let e := s.mem.readLE (base + 16 * x) 16
  if on && s.exportLost base xaddr then .refused .poisoned
  else if !on || !bitOf e 0 || bitsOf e 15 3 ≠ 0 || bitsOf e 43 32 ≠ 0 || bitsOf e 63 44 ≤ q then .refused .noTranslation
  else
    let asid := (s.exportVa base xaddr).1
    let va := (s.exportVa base xaddr).2
    let l1 := s.asidL1 asid
    if s.contextLost asid then .refused .poisoned
    else match s.walk l1 va with
    | none => .refused (if s.walkLost l1 va then .poisoned else .noTranslation)
    | some l =>
      if (wr && !at_ && !bitOf e 1) || (at_ && !bitOf e 2) || ((wr || at_) && !l.w) || l.s || l.attr = .remote then
        .refused .protection
      else if !l.rs then .waits (s.askPage asid (l.page va) false)
      else if (wr || at_) && l.rd then .waits (s.askPage asid (l.page va) true)
      else
        let pa := l.phys va
        if s.homeGone (lineOf pa) || ((at_ || !wr) && s.poisonedIn pa n) then .refused .poisoned
        else if !(s.tableHeld l1 va).isEmpty then .host (s.snoop (s.tableHeld l1 va) false)
        else match s.hostFirst l pa n (wr || at_) with
        | some s1 => .host s1
        | none => .ok l1 va pa

/-- Where the shadow bytes of a peer land: the answer to the first that is refused, a wait, or their physical addresses (R366, R371,
R376). -/
def State.landParts (s : State) (k : Kept) : Except (State × Option RemoteAnswer) (List (Nat × Byte)) :=
  let at_ := k.parts.map (fun p => (s.ingressAt k.base k.on p.1 p.2.length true false, p))
  match at_.findSome? (fun p => match p.1 with
    | .refused .poisoned => some RemoteAnswer.poisoned
    | .refused a => some (RemoteAnswer.refusedAt (a == .protection) p.2.1)
    | _ => none) with
  | some a => .error (s, some a)
  | none => match at_.findSome? (fun p => match p.1 with
    | .waits s1 => some s1
    | .host s1 => some s1
    | _ => none) with
    | some s1 => .error (s1, none)
    | none => .ok (at_.flatMap (fun p => match p.1 with
      | .ok _ _ pa => bytesAt pa p.2.2
      | _ => []))

/-- Shadow bytes of a peer are held beside their homes (R307, R366, R376). -/
def State.serveHold (s : State) (k : Kept) : State × Option RemoteAnswer :=
  match s.landParts k with
  | .error r => r
  | .ok _ => ({ s with net := { s.net with shadows := s.net.shadows ++ [k] } }, some .done)

/-- The bytes that a peer sent under the tag `of` are merged at J, all with one W; the poisoned answer stands for bytes that a dead
die has lost (R254, R307, R366, R376; DEDUCED, log entry 86). -/
def State.serveMerge (s : State) (src of_ : Nat) : State × Option RemoteAnswer :=
  match s.net.shadows.find? (fun k => k.src == src && k.tag == of_) with
  | none => (s, some .poisoned)
  | some k => match s.landParts k with
    | .error r => r
    | .ok bs =>
      let s1 := (s.publishPa bs).1
      ({ s1 with net := { s1.net with shadows := s1.net.shadows.filter (fun j => !(j.src == src && j.tag == of_)) } }, some .done)

/-- The bytes that a peer sent under the tag `of` are discarded, held or not yet held (R366, R376). -/
def State.serveDiscard (s : State) (src of_ : Nat) : State :=
  let other (k : Kept) : Bool := !(k.src == src && k.tag == of_)
  { s with net := { s.net with shadows := s.net.shadows.filter other, ingress := s.net.ingress.filter other } }

/-- Serve an access of a peer: the answer, or none while it waits. -/
def State.serveIngress (s : State) (k : Kept) : State × Option RemoteAnswer :=
  match k.acc with
  | .load xa n => match s.ingressAt k.base k.on xa n false false with
    | .refused a => (s, some a)
    | .waits s1 => (s1, none)
    | .host s1 => (s1, none)
    | .ok _ _ pa => (s, some (.data (s.mem.readN pa n)))
  | .store xa bs => match s.ingressAt k.base k.on xa bs.length true false with
    | .refused a => (s, some a)
    | .waits s1 => (s1, none)
    | .host s1 => (s1, none)
    | .ok _ _ pa => ((s.publishPa (bytesAt pa bs)).1, some .done)
  | .atomic op xa n b c => match s.ingressAt k.base k.on xa n false true with
    | .refused a => (s, some a)
    | .waits s1 => (s1, none)
    | .host s1 => (s1, none)
    | .ok l1 va pa =>
      let r := s.atomicAt l1 none va pa n op b.toNat c.toNat s.dev.j none
      ((State.raiseJ (r.1, r.2.2)).1, some (.data (bytesLE n r.2.1)))
  | .fetch xa n => match s.ingressAt k.base k.on xa n false false with
    | .refused a => (s, some a)
    | .waits s1 => (s1, none)
    | .host s1 => (s1, none)
    | .ok _ _ pa => (s, some (.data (s.mem.readN pa n)))
  | .publish _ => s.serveHold k
  | .copy _ => s.serveHold k
  | .merge _ of_ => s.serveMerge k.src of_
  | .discard _ of_ => (s.serveDiscard k.src of_, some .done)
  | .signalWord xa => match s.ingressAt k.base k.on xa 8 false true with
    | .refused a => (s, some a)
    | .waits s1 => (s1, none)
    | .host s1 => (s1, none)
    | .ok l1 va _ => (s.signalWord l1 va, some .done)
  | .signalBarrier asid node rank h =>
    match s.signalTeam asid node rank with
    | none => (s, some .noTranslation)
    | some t =>
      let x := s.teamOf t
      if x.status = .placed && (x.arrive h).isNone then (s, none)
      else ((s.signalBarrier asid node rank h none).1, some .done)

/-- Traffic class of an access of a peer (R372); collective traffic, class 3, comes as COLLECTIVE_MESSAGE. -/
def accClass (a : RemoteAccess) : Nat :=
  match a with
  | .load _ _ => 1
  | .store _ _ => 1
  | .atomic _ _ _ _ _ => 1
  | .copy _ => 1
  | .fetch _ _ => 2
  | .publish _ => 0
  | .merge q _ => if q then 1 else 0
  | .discard q _ => if q then 1 else 0
  | .signalWord _ => 0
  | .signalBarrier _ _ _ _ => 0

/-- An earlier access of the same peer and class still waits (R373). A discard waits for none: what it names is to have no effect. -/
def ingressBehind (q : List Kept) (k : Kept) : Bool :=
  match k.acc with
  | .discard _ _ => false
  | a => q.any (fun p => p.src == k.src && accClass p.acc == accClass a)

/-- The device answers a peer. -/
def State.answer (s : State) (src tag : Nat) (a : RemoteAnswer) : State :=
  { s with dev := { s.dev with out := s.dev.out ++ [.remoteReply src tag a] } }

/-- An access of a peer as it arrives: the export table's register as it stands governs it (R388). -/
def State.arriving (s : State) (src tag : Nat) (acc : RemoteAccess) : Kept :=
  { src := src, tag := tag, acc := acc, base := s.exportBase, on := s.exportOn }

/-- REMOTE_ACCESS_INGRESS: an access of peer `src` arrives; it is answered at once or kept until it can be (R371). -/
def execRemoteAccessIngress (src tag : Nat) (acc : RemoteAccess) (s : State) : Out :=
  if !s.fabricUp then .next s
  else
    let k := s.arriving src tag acc
    let keep (s : State) : State := { s with net := { s.net with ingress := s.net.ingress ++ [k] } }
    if ingressBehind s.net.ingress k then .next (keep s)
    else match s.serveIngress k with
    | (s1, some a) => .next (s1.answer src tag a)
    | (s1, none) => .next (keep s1)

/-- A kept access is tried again. -/
def State.retryIngress (s : State) (n : Nat) : State :=
  match s.net.ingress[n]? with
  | none => s
  | some k =>
    if !s.fabricUp || ingressBehind (s.net.ingress.take n) k then s
    else match s.serveIngress k with
    | (s1, some a) => ({ s1 with net := { s1.net with ingress := s1.net.ingress.eraseIdx n } }).answer k.src k.tag a
    | (s1, none) => s1

/-- The exported addresses that an access of a peer names. -/
def State.keptAt (s : State) (k : Kept) : List Nat :=
  match k.acc with
  | .load xa _ => [xa]
  | .store xa _ => [xa]
  | .atomic _ xa _ _ _ => [xa]
  | .publish ps => ps.map (·.1)
  | .copy ps => ps.map (·.1)
  | .merge _ of_ => match s.net.shadows.find? (fun j => j.src == k.src && j.tag == of_) with
    | some j => j.parts.map (·.1)
    | none => []
  | .discard _ _ => []
  | .fetch xa _ => [xa]
  | .signalWord xa => [xa]
  | .signalBarrier _ _ _ _ => []

/-- How a kept access stands that names memory: in each of its parts. -/
def State.keptStands (s : State) (k : Kept) : List Ingress :=
  let at_ (xa n : Nat) (wr a : Bool) : Ingress := s.ingressAt k.base k.on xa n wr a
  let parts (j : Kept) : List Ingress := j.parts.map (fun p => at_ p.1 p.2.length true false)
  match k.acc with
  | .load xa n => [at_ xa n false false]
  | .store xa bs => [at_ xa bs.length true false]
  | .atomic _ xa n _ _ => [at_ xa n false true]
  | .publish _ => parts k
  | .copy _ => parts k
  | .merge _ of_ => (s.net.shadows.filter (fun j => j.src == k.src && j.tag == of_)).flatMap parts
  | .discard _ _ => []
  | .fetch xa n => [at_ xa n false false]
  | .signalWord xa => [at_ xa 8 false true]
  | .signalBarrier _ _ _ _ => []

/-- Kept accesses that wait for the host are answered as poisoned, if the fabric takes an answer: the host link has failed (R369, R387). -/
def State.failIngress (s : State) : State :=
  let hit (k : Kept) : Bool := (s.keptStands k).any (fun x => match x with
    | .host _ => true
    | _ => false)
  let s1 := { s with net := { s.net with ingress := s.net.ingress.filter (fun k => !hit k) } }
  if !s.fabricUp then s1
  else (s.net.ingress.filter hit).foldl (fun s k => s.answer k.src k.tag .poisoned) s1

/-- The page service closed a request without residency: kept accesses to that page are answered "no translation", if the fabric
takes an answer (R369, R371). -/
def State.closeIngress (s : State) (asid page : Nat) : State :=
  let hits (k : Kept) (xa : Nat) : Bool :=
    let a := s.exportVa k.base xa
    decide (a.1 = asid) && (match s.walk (s.asidL1 asid) a.2 with
      | some l => !l.rs && l.page a.2 == page
      | none => false)
  let gone (k : Kept) : Bool := (s.keptAt k).any (hits k)
  let ans (k : Kept) : RemoteAnswer :=
    match k.acc with
    | .publish _ | .copy _ | .merge _ _ => .refusedAt false (((s.keptAt k).find? (hits k)).getD 0)
    | _ => .noTranslation
  let s1 := { s with net := { s.net with ingress := s.net.ingress.filter (fun k => !gone k) } }
  if !s.fabricUp then s
  else (s.net.ingress.filter gone).foldl (fun s k => s.answer k.src k.tag (ans k)) s1

/-! ### Stations and devices (R369, R375, R390) -/

def State.stationUp (s : State) (i : Nat) : Bool := vget false s.dev.stations i

/-- FABRIC_STATION_UP: the first station up fixes the member number; one with another number is kept down (R390). -/
def execFabricStationUp (st : Fin 8) (acc : BitVec 10) (s : State) : Out :=
  if s.stationUp st.val || !s.dev.rdy || !s.dev.power then .next s
  else if (List.range 8).any s.stationUp && decide (s.dev.mem ≠ acc.toNat) then
    .next { s with dev := { s.dev with out := s.dev.out ++ [.linkFault st.val] } }
  else .next { s with dev := { s.dev with stations := vset s.dev.stations st.val true, mem := acc.toNat } }

/-- FABRIC_STATION_DOWN: its traffic moves to the others (R369). -/
def execFabricStationDown (st : Fin 8) (s : State) : Out :=
  .next { s with dev := { s.dev with stations := vset s.dev.stations st.val false } }

/-- A request to a device that an agent made and that has had no answer, for it to expire. -/
def State.remoteTo (s : State) (dev : Nat) : Option Nat :=
  s.net.remote.findIdx? (fun r => r.dev == dev && r.ans.isNone && (match r.kind with
    | .load _ _ => true
    | .store _ => true
    | .atomic _ _ _ _ _ => true
    | _ => false))

/-- Expire each of the first `k` requests of agents to a device. -/
def State.expireTo (s : State) (dev : Nat) : Nat → State
  | 0 => s
  | k + 1 => match s.remoteTo dev with
    | none => s
    | some n => (s.remoteExpire n).expireTo dev k

/-- DEVICE_UNREACHABLE: accesses to the device end under R261, engine commands with 0x07, collectives under R384; shadow lines that
it has sent are discarded; in D3hot what waits goes on waiting (R375, R376, R393). An answer that is held for a cocooned team has come
(R339). -/
def execDeviceUnreachable (dev : Nat) (s : State) : Out :=
  if !s.awake then .next s
  else
  let far := s.net.remote.filter (fun r => r.dev == dev)
  let s1 := s.expireTo dev s.net.remote.length
  let s2 := s1.net.cmds.foldl (fun s c =>
    if c.kind = 7 then
      if c.stage = .shadow && c.await = [1] && (collAwaits c s.devNum dev || (collOwes c s.devNum dev && (!(s.collUnsent c).isEmpty || !collTaken c)))
      then s.collFail c 0x07 0 else s
    else match far.find? (fun r => c.await.contains r.id) with
      | some r => if c.stage = .complete || c.kind = 2 then s else s.endCmd c 0x07 r.va
      | none => s) s1
  .next { s2 with net := { s2.net with
    remote := s2.net.remote.filter (fun r => r.dev != dev || r.ans.isSome)
    shadows := s2.net.shadows.filter (fun k => k.src != dev) } }

end Sys2Proof.Machine
end

