-- ==== Sys2Proof/Machine/HostLink.lean ====
section
/-!
DEFINITION. The events of the CXL host link: reads and writes of the host (R254, R257), its answers to snoops and to
requests for its memory (R257, R258), the HDM decoder (R386), and the failure and retraining of the link (R387).
-/

namespace Sys2Proof.Machine

open Sys2Proof

/-- Host traffic over CXL.mem is served: the device is up, in D0, and the link works (R387, R393, R398). -/
def State.hostServed (s : State) : Bool := s.dev.rdy && s.dev.power && !s.dev.d3 && s.dev.hostUp

/-- A range of device memory lies in the host window (R386). -/
def State.hostRange (s : State) (pa n : Nat) : Bool := s.inHostWindow pa && s.inHostWindow (pa + (n - 1)) && decide (0 < n)

/-- HOST_WRITE: bytes of the host are merged at their homes on arrival at J, and core copies go (R254, R257). A write to
the host's own memory takes the lines that the device holds of it. -/
def execHostWrite (pa : Nat) (data : List Byte) (s : State) : Out :=
  if isHostPa pa then
    let lines := distinct ((addrRange pa data.length).map lineOf)
    let s1 := lines.foldl (fun s l => (s.wakeHolders l l none).invalidate l l none)
      { s with mem := s.mem.writeN pa data, dev := { s.dev with hostLines := s.dev.hostLines.filter (fun l => !lines.contains l) } }
    .next s1
  else if !s.hostServed || !s.hostRange pa data.length then .next s
  else .next (s.publishPa (bytesAt pa data)).1

/-- HOST_READ: bytes merged at the home; the granules are then host-held, exclusively when the host asks to own them,
which takes the core copies and the translations of the MTBs (R256, R257, R277). A poisoned line is answered with poison (R392). -/
def execHostRead (pa len : Nat) (own : Bool) (s : State) : Out :=
  if !s.hostServed || !s.hostRange pa len then .next s
  else
    let lines := distinct ((addrRange pa len).map lineOf)
    let gs := distinct ((addrRange pa len).map (fun a => a / 64 * 64))
    let bad := (addrRange pa len).any (fun a => s.homeGone a || s.poisonedIn a 1)
    let s0 := s.wakeHomes 2 lines
    let s1 := if own then lines.foldl (fun s l => ((s.wakeHolders l l none).invalidate l l none).dropMtb l) s0 else s0
    .next { s1 with dev := { s1.dev with
      gran := gs.foldl (fun t g => Tab.set t g (if own then 2 else 1)) s1.dev.gran
      out := s1.dev.out ++ [.hostData pa (s1.mem.readN pa len) bad] } }

/-- BACK_INVALIDATE_RESPONSE: modified data of the granule merge at the home, and the host keeps it shared after
BISnpData, not at all after BISnpInv (R257). Snoop and answer pass between the control die and the island of the granule's home,
and are held while a link there sleeps or wakes, and in D3hot (R250, R258, R393). -/
def execBackInvalidateResponse (gran : Nat) (data : Option (List Byte)) (s : State) : Out :=
  match s.net.snoops.find? (fun p => p.1 == gran) with
  | none => .next s
  | some p =>
    if !s.hostServed || !s.pathCtl (homeOf gran) then .next s
    else
    let s1 := match data with
      | none => s
      | some bs => (s.publishPa (bytesAt gran (bs.take 64))).1
    .next { s1 with
      net := { s1.net with snoops := s1.net.snoops.filter (fun q => q.1 != gran) }
      dev := { s1.dev with gran := if p.2 then Tab.del s1.dev.gran gran else Tab.set s1.dev.gran gran 1 } }

/-- CXL_CACHE_RESPONSE: a line of host memory that a core's request waits for, in D0 (R257, R393). -/
def execCxlCacheResponse (pl : Nat) (data : List Byte) (s : State) : Out :=
  if !s.net.hostRq.contains pl || !s.hostServed then .next s
  else .next { s with
    mem := s.mem.writeN pl (padBytes 128 data)
    net := { s.net with hostRq := s.net.hostRq.filter (fun q => q != pl) }
    dev := { s.dev with hostLines := pl :: s.dev.hostLines } }

/-- HDM_DECODER_COMMIT: the host window, in multiples of 256 MiB of device memory (R386). -/
def execHdmDecoderCommit (base size : Nat) (s : State) : Out :=
  let u := 0x10000000
  if !s.hostServed || base % u ≠ 0 || size % u ≠ 0 || size = 0 || 0xC000000000 < base + size then .next s
  else .next { s with dev := { s.dev with hdm := some (base, size), hostShut := false } }

/-- A request that waits for the host, for a granule of a line or of a table (R257, R277). -/
def State.waitsHost (s : State) (r : Req) : Bool :=
  let wr := match r.kind with
    | .renew _ => false
    | .uload _ _ => false
    | _ => true
  match s.atHome r wr with
  | .table _ => true
  | .here l pa => match r.kind with
    | .renew _ => (s.hostFirst l pa 128 false).isSome
    | .publish bs => bs.any (fun b => (s.hostFirst l (pa + b.1) 1 true).isSome)
    | .atomic _ k _ _ _ => (s.hostFirst l (l.phys r.va) k true).isSome
    | _ => false
  | _ => false

/-- Requests that wait for the host end with 0x09 (R387). -/
def State.failHostWaits (s : State) : State :=
  let gone := s.net.reqs.filter s.waitsHost
  let s1 := { s with net := { s.net with reqs := s.net.reqs.filter (fun r => !s.waitsHost r) } }
  gone.foldl (fun s r => s.reply r (r.kind.refusal trapPoison)) s1

/-- The line for which an engine command waits for the host (R311). -/
def State.hostFault (s : State) (c : Cmd) : Nat :=
  if c.fn = 6 then c.a
  else match c.shadow.find? (fun x => !(s.shadowGranules c [x]).isEmpty) with
    | some x => lineOf x.2.1
    | none => 0

/-- Engine commands that wait for a granule of the host end with status 0x01 (R387). -/
def State.failHostCmds (s : State) : State :=
  let hit (c : Cmd) : Bool :=
    (c.stage == .shadow && !(s.shadowGranules c c.shadow).isEmpty) || (c.fn == 6 && c.stage != .complete && !(s.headerHeld (s.cmdL1 c) c.a).isEmpty)
      || (c.stage == .queued && c.fn != 6 && !(s.sourceHeld c).isEmpty)
  (s.net.cmds.filter hit).foldl (fun z c => z.endAny c 0x01 (s.hostFault c)) s

/-- Deterministic claims of commands that have ended go. -/
def State.dropClaims (s : State) : State :=
  { s with grids := s.grids.map (fun (p : Nat × Grid) => (p.1, { p.2 with
      claims := p.2.claims.filter (fun k => match s.cmdAt k.cmd with
        | some c => c.stage != .complete
        | none => false) })) }

/-- No core keeps a copy of a line of host memory: every access to it now ends with 0x09 (R387). -/
def State.dropHostCopies (s : State) : State :=
  let keep (k : Copy) : Bool := !isHostPa k.leaf.pa
  { s with
    cores := s.cores.map (fun (p : Nat × Core) => (p.1, { p.2 with copies := p.2.copies.filter keep }))
    teams := s.teams.map (fun (p : Nat × Team) => (p.1, { p.2 with kept := p.2.kept.filter keep })) }

/-- HOST_LINK_FAILURE: a snoop that has reached the host, or a request to it, has had no answer for 2 ms. Host-held granules are poisoned at
their homes, what waits for the host ends, accesses of peers included, and the host's decoder must be committed again (R387). In D3hot,
where the host is not to answer, nothing of it is waited for (R393). -/
def execHostLinkFailure (s : State) : Out :=
  if !s.awake || (!s.net.snoops.any (fun p => s.pathCtl (homeOf p.1)) && s.net.hostRq.isEmpty) then .next s
  else
  let gs := (s.dev.gran.filter (fun p => p.2 != 0)).map (·.1)
  let s1 := s.failIngress.failHostWaits.failHostCmds.dropClaims
  let s2 := gs.foldl (fun s0 g =>
    let s := s0.evictHome (lineOf g) none
    let h := s.hline (lineOf g)
    s.setHline (lineOf g) { h with poison := h.poison.lose (decide (64 ≤ g % 128)) }) s1
  .next { s2.dropHostCopies with
    net := { s2.net with
      snoops := [], hostRq := []
      reps := s2.net.reps.map (fun r => if r.slice = 32 then { r with kind := r.kind.lost } else r) }
    dev := { s2.dev with hostUp := false, hostShut := true, hdm := none, gran := [], hostLines := [] } }

/-- HOST_LINK_RETRAINED: on a device that has power and its firmware (R387, R393, R398). -/
def execHostLinkRetrained (s : State) : Out :=
  if s.dev.power && s.dev.rdy then .next { s with dev := { s.dev with hostUp := true } } else .next s

end Sys2Proof.Machine
end

