-- ==== Sys2Proof/Machine/Fetch.lean ====
section
/-!
DEFINITION. Fetching an agent's next instruction (R57, R271, R278, R281), the side sequencers' programs (R35, R53, R136),
and the instructions before which a floating-point collection window closes (R334).
-/

namespace Sys2Proof.Machine

open Sys2Proof

/-- What an agent finds at its PC. -/
inductive Fetched where
  | instr (i : Instr)
  /-- a word that is not an instruction, or one that a side sequencer does not run: trap 0x01 (R50) -/
  | illegal
  /-- the fetch itself traps (R278) or names an absent page (R281) -/
  | stops (c : Chk)
  deriving DecidableEq, Repr

/-- The word that four bytes decode to. -/
def decodeFetched (bs : List Byte) : Fetched :=
  match decodeBytes bs with
  | .ok (i, _) => .instr i
  | .error _ => .illegal

/-- The instructions that side sequencers run: those of R53's majors, with uni = 0 in B, BS and CALL; execMfc refuses an index of
0x020 or above with 0x02 (R53). -/
def sideLegal (i : Instr) : Bool :=
  match i with
  | .add _ _ _ _ _ => true
  | .sub _ _ _ _ _ => true
  | .mul _ _ _ _ _ => true
  | .mulh _ _ _ _ _ => true
  | .nmulhUniform _ _ _ _ _ => true
  | .andUniform _ _ _ _ _ => true
  | .orUniform _ _ _ _ _ => true
  | .xorUniform _ _ _ _ _ => true
  | .andnUniform _ _ _ _ _ => true
  | .shlUniform _ _ _ _ _ => true
  | .shrUniform _ _ _ _ _ => true
  | .sarUniform _ _ _ _ _ => true
  | .min _ _ _ _ _ => true
  | .max _ _ _ _ _ => true
  | .nminUniform _ _ _ _ _ => true
  | .nmaxUniform _ _ _ _ _ => true
  | .seq _ _ _ _ _ => true
  | .sne _ _ _ _ _ => true
  | .slt _ _ _ _ _ => true
  | .sltn _ _ _ _ _ => true
  | .sdiv _ _ _ _ _ => true
  | .ndiv _ _ _ _ _ => true
  | .srem _ _ _ _ _ => true
  | .nrem _ _ _ _ _ => true
  | .popcUniform _ _ _ => true
  | .clzUniform _ _ _ => true
  | .addi _ _ _ => true
  | .andiUniform _ _ _ => true
  | .oriUniform _ _ _ => true
  | .xoriUniform _ _ _ => true
  | .shliUniform _ _ _ => true
  | .shriUniform _ _ _ => true
  | .sariUniform _ _ _ => true
  | .slti _ _ _ => true
  | .movw _ _ _ _ => true
  | .ldls _ _ _ _ => true
  | .stls _ _ _ _ => true
  | .b uni _ => !uni
  | .bs uni _ _ _ => !uni
  | .call uni _ => !uni
  | .jr _ _ => true
  | .jrCall _ _ _ => true
  | .jrReturn _ _ => true
  | .copy _ _ => true
  | .copyw _ _ => true
  | .mcast _ _ => true
  | .gath _ _ _ => true
  | .scat _ _ _ => true
  | .publ _ _ => true
  | .qpkt _ _ _ => true
  | .puts _ _ _ => true
  | .getr _ _ => true
  | .coll _ _ => true
  | .lbset _ _ => true
  | .lren _ _ _ => true
  | .arrive _ => true
  | .waitb _ => true
  | .spin _ _ => true
  | .fenceAcquire _ => true
  | .fenceRelease _ => true
  | .fenceFull _ => true
  | .mfc _ _ => true
  | .nop => true
  | .halt => true
  | _ => false

/-- The four bytes at a group's PC, from the line as its team sees it at the home. -/
def State.codeBytes (s : State) (t pc : Nat) : List Byte :=
  match s.walk (s.l1Of t) pc with
  | none => []
  | some l =>
    let pa := l.physFor (dieOf (s.teamOf t).core) pc
    match s.tagOf t (lineOf pc) with
    | none => s.mem.readN pa 4
    | some g => ((s.seenLine (some g) (lineOf pc) (lineOf pa)).drop (pc % 128)).take 4

/-- The four bytes at a side sequencer's PC, an offset in its instruction store (R35, R136). -/
def State.sideBytes (s : State) (t a pc : Nat) : List Byte :=
  let x := s.teamOf t
  s.readVaN x.ctx.l1pa (Config.sideBase x.kernel.desc + (if a = 16 then x.kernel.fore else x.kernel.hind) + pc) 4

/-- The next instruction of agent `a` of team `t`. A side sequencer that runs off its 16 KiB store traps 0x04. -/
def State.fetch (s : State) (t a : Nat) : Fetched :=
  let pc := (s.agent t a).pc.toNat
  if a < 16 then
    match s.chkGlobal t pc .fetch with
    | .ok => decodeFetched (s.codeBytes t pc)
    | c => .stops c
  else if 0x4000 ≤ pc then .stops (.trap trapNoMap pc)
  else match decodeFetched (s.sideBytes t a pc) with
    | .instr i => if sideLegal i then .instr i else .illegal
    | r => r

/-! ### Tables that the checks of an access read (R277) -/

/-- The global bytes that an instruction of the current agent names, those of its operand blocks included. -/
def State.globalAccs (s : State) (i : Instr) : List LaneAcc :=
  let g := s.grp
  let one (va n : Nat) : List LaneAcc := [{ lane := 0, va := va, n := n }]
  let block (a : SReg) : List LaneAcc := one (g.getS a).toNat 64
  match i with
  | .ldg _ a b w _ q | .stg _ a b w _ q => g.accesses a b q (lsizeBytes w)
  | .ldgp _ a b _ q => g.accesses a b q 4
  | .ldk _ a b w _ q => (g.accesses a b q (lsizeBytes w)).map (fun x => { x with va := s.team.param + x.va })
  | .atomgAddI32 _ a b q | .atomgAddF32 _ a b q | .atomgMinI32 _ a b q | .atomgMaxI32 _ a b q
  | .atomgOr _ a b q | .atomgXchg _ a b q | .atomgCas _ a b q | .atomgDaddF32 _ a b q => g.accesses a b q 4
  | .ldgs _ a w x | .stgs _ a w x => one (g.uniAddr a w x) (usizeBytes w)
  | .ldks _ a w x => one (s.team.param + g.uniAddr a w x) (usizeBytes w)
  | .uatomAdd _ a _ _ _ _ | .uatomMin _ a _ _ _ _ | .uatomMax _ a _ _ _ _ | .uatomAnd _ a _ _ _ _ | .uatomOr _ a _ _ _ _
  | .uatomXor _ a _ _ _ _ | .uatomXchg _ a _ _ _ _ | .uatomCas _ a _ _ _ _ => one (g.getS a).toNat 8
  | .spin a x => one (g.uniAddr a .b64 x) 8
  | .copy _ a | .mcast _ a | .gath _ a _ | .scat _ a _ | .qpkt _ a _ | .getr _ a | .coll _ a => block a
  | .puts _ a b => block a ++ one (g.getS b).toNat 16
  | .pgreq a => one (g.getS a).toNat 1
  | .rdraw _ a _ => if s.team.ctx.nseed ≤ (g.getS a).toNat then [] else one (s.team.ctx.seeds + 16 * (g.getS a).toNat) 16
  | _ => []

/-- What the host holds exclusively of the tables that an instruction's checks walk, where its core has no copy of the line, and of the
seed that an RDRAW reads: asked for before it issues (R257, R277). -/
def State.accessGranules (s : State) (i : Instr) : List Nat :=
  let l1 := s.l1Of s.cur.1
  let vas := distinct ((s.globalAccs i).flatMap (fun x => [lineOf x.va, lineOf (x.va + (x.n - 1))]))
  distinct (vas.flatMap (fun va => if (s.readable s.cur.1 va).isSome then [] else s.tableHeld l1 va) ++ (match i with
    | .rdraw _ _ _ => (s.globalAccs i).flatMap (fun x => match s.walk l1 x.va with
      | some l => if l.attr = .hosted then s.hostGranules (l.phys x.va) 16 [2] else []
      | none => [])
    | _ => []))

/-- The next instruction of an agent and what the host is to give up for its checks. -/
def State.nextGranules (s : State) (t a : Nat) : List Nat :=
  match s.fetch t a with
  | .instr i => ({ s with cur := (t, a) } : State).accessGranules i
  | _ => []

/-- The instructions before which a floating-point window closes (R334). -/
def closesWindow (i : Instr) : Bool :=
  match i with
  | .b _ _ => true
  | .bs _ _ _ _ => true
  | .bk _ _ _ _ => true
  | .call _ _ => true
  | .jr _ _ => true
  | .jrCall _ _ _ => true
  | .jrReturn _ _ => true
  | .phase _ _ => true
  | .cbar _ _ => true
  | .halt => true
  | _ => false

/-- The window of a group closes now, before its next instruction issues (R334). -/
def State.windowCloses (s : State) (t a : Nat) : Bool :=
  match (s.agent t a).fpw with
  | none => false
  | some w => decide (64 ≤ w.since) || (match s.fetch t a with
    | .instr i => closesWindow i
    | _ => false)

end Sys2Proof.Machine
end

