-- ==== Sys2Proof/Machine/Traps.lean ====
section
/-!
DEFINITION. The events of a team's life on its core: the emulation of misaligned accesses (R73), the filling of local
store (R266), page service (R280, R281), trap halts (R332 to R334, R337), the watchdog (R338), and the end of a team (R138).
-/

namespace Sys2Proof.Machine

open Sys2Proof

/-! ### Emulation of misaligned accesses (R73) -/

/-- The bytes of an access, one by one. -/
def LaneAcc.bytes (x : LaneAcc) : List LaneAcc := (addrRange x.va x.n).map (fun a => { lane := x.lane, va := a, n := 1 })

/-- An emulated load: each byte is a 1-byte access, and the result is assembled from them. -/
def State.emuLoad (s : State) (sp : Space) (d : OutDest) (xs : List LaneAcc) (g0 : Group) : State :=
  match sp with
  | .window => s.loadWindow .window d xs g0
  | .cluster =>
    let ws := distinct ((xs.flatMap LaneAcc.bytes).map (fun b => (s.windowOf .cluster b.va).1))
    let s1 := ws.foldl State.drainWindow s
    let slots := xs.flatMap (fun x => (List.range x.n).map (fun i =>
      let w := s.windowOf .cluster (x.va + i)
      ({ lane := x.lane, idx := i, va := x.va + i
         val := some ((storeByte (.window w.1) s1.grp.stores w.2).getD ((s1.teamOf w.1).ls.read w.2)), since := 0 } : Slot)))
    (s1.readWindows ((xs.flatMap LaneAcc.bytes).map (fun b => let w := s.windowOf .cluster b.va; (w.1, w.2, 1)))).await d slots false g0
  | _ =>
    let ys := if sp = .param then xs.map (fun x => { x with va := s.team.param + x.va }) else xs
    let slots := ys.flatMap (fun x => (List.range x.n).flatMap (fun i =>
      (s.slotsFor s.cur.1 s.cur.2 { lane := x.lane, va := x.va + i, n := 1 }).map (fun sl => { sl with idx := i })))
    s.loadSlots d (ys.flatMap LaneAcc.bytes) slots g0

/-- An emulated access that traps, or stops, at the first byte that fails, lane by lane (R73). -/
def State.emulate (s : State) (sp : Space) (acc : Acc) (xs : List LaneAcc) (perform : State → State) : State :=
  match verdict ((xs.flatMap LaneAcc.bytes).map (fun b => s.chk sp s.cur.1 b.va 1 acc)) with
  | .ok =>
    if acc = .load && s.loadHeld sp (xs.flatMap LaneAcc.bytes) then s
    else ((perform (s.setGrp { s.grp with status := .run })).moveOn.countIssue s.cur.1 s.cur.2 s.team.trap.isSome s.grp).issued
      s.cur.1 s.cur.2
  | .held u => (if acc = .load then s else s.usedWindow s.cur.1).stop (.held u) false
  | v => s.stop v false

/-- An emulated store, byte by byte in ascending address. -/
def State.emuStore (s : State) (sp : Space) (lane va : Nat) (bs : List Byte) : State :=
  (List.range bs.length).foldl (fun s i => s.storeOne sp lane (va + i) [bs.getD i 0]) s

/-- Emulate the misaligned access at which the current agent stands. -/
def State.emulateInstr (s : State) (i : Instr) : State :=
  let g := s.grp
  let lload (sp : Space) (d a : VReg) (b : SReg) (w : LSize) (y : Bool) (q : Fin 4) : State :=
    let xs := g.accesses a b q (lsizeBytes w)
    s.emulate sp .load xs (fun s => (s.lastV y a).emuLoad sp (.lane d (w == .x4)) xs g)
  let lstore (sp : Space) (d a : VReg) (b : SReg) (w : LSize) (y : Bool) (q : Fin 4) : State :=
    let xs := g.accesses a b q (lsizeBytes w)
    s.emulate sp .store xs (fun s => (xs.foldl (fun s x => s.emuStore sp x.lane x.va (g.storeData d w x.lane)) (s.lastV y a)).awaitTaken
      (s.takenSlots sp (xs.flatMap LaneAcc.bytes)) g)
  let uload (sp : Space) (d a : SReg) (w : USize) (x : BitVec 11) : State :=
    let xs : List LaneAcc := [{ lane := 0, va := g.uniAddr a w x, n := usizeBytes w }]
    s.emulate sp .load xs (fun s => s.emuLoad sp (.uni d) xs g)
  let ustore (sp : Space) (d a : SReg) (w : USize) (x : BitVec 11) : State :=
    let va := g.uniAddr a w x
    let xs : List LaneAcc := [{ lane := 0, va := va, n := usizeBytes w }]
    s.emulate sp .store xs (fun s => (s.emuStore sp 0 va (bytesLE (usizeBytes w) (g.getS d).toNat)).awaitTaken
      (s.takenSlots sp (xs.flatMap LaneAcc.bytes)) g)
  match i with
  | .ldg d a b w y q => lload .global d a b w y q
  | .ldl d a b w y q => lload .window d a b w y q
  | .ldw d a b w y q => lload .cluster d a b w y q
  | .ldk d a b w y q => lload .param d a b w y q
  | .stg d a b w y q => lstore .global d a b w y q
  | .stl d a b w y q => lstore .window d a b w y q
  | .stw d a b w y q => lstore .cluster d a b w y q
  | .ldgs d a w x => uload .global d a w x
  | .ldls d a w x => uload .window d a w x
  | .ldks d a w x => uload .param d a w x
  | .stgs d a w x => ustore .global d a w x
  | .stls d a w x => ustore .window d a w x
  | _ => s

/-- MISALIGNED_EMULATION (R73). -/
def execMisalignedEmulation (t g : Nat) (s : State) : Out :=
  if (s.agent t g).status ≠ .emul || !s.onCore t then .next s
  else if !(s.nextGranules t g).isEmpty then .next (s.snoop (s.nextGranules t g) false)
  else match s.fetch t g with
  | .instr i => .next ({ s with cur := (t, g) }.emulateInstr i)
  | _ => .next (s.setAgent t g { s.agent t g with status := .run })

/-! ### Local store (R266) -/

/-- Pages that agent `a` of team `t` stalls for. -/
def State.stalledFor (s : State) (t a : Nat) : List (Nat × Nat) :=
  match (s.agent t a).status with
  | .stall ps => ps
  | _ => []

/-- LS_FILL_COMPLETE: every page that the stalled instruction names is filled, and held until it has replayed, also while others are
still to be filled (R265, R266). -/
def execLsFillComplete (t g : Nat) (s : State) : Out :=
  let ps := s.stalledFor t g
  if ps.isEmpty || !s.onCore t || ps.any (fun p => (s.teamOf p.1).status != .placed) then .next s
  else
    let s1 := s.fillPages ps
    let now := ps.filter (fun p => s1.pageIn p.1 p.2)
    .next (s1.setAgent t g { s1.agent t g with status := if now = ps then .run else .stall ps, hold := now })

/-- LS_STALL_TIMEOUT: after 4 µs the team leaves, with the count of pages it still awaits; at a boundary that it has completed it
leaves there (R266, R317). -/
def execLsStallTimeout (t g : Nat) (s : State) : Out :=
  let ps := s.stalledFor t g
  let x := s.teamOf t
  if ps.isEmpty || !s.onCore t || x.trap.isSome then .next s
  else
    let n := (ps.filter (fun p => !s.pageIn p.1 p.2)).length
    let s1 := (s.setAgent t g { s.agent t g with hold := ps }).leaveNow t
    .next ((s1.setTeamOf t { s1.teamOf t with missing := n, refill := ps }).preemptSiblings t)

/-! ### The page service (R280, R281) -/

/-- A page that a team awaits has come, or will not: its count falls (R281). -/
def Team.pageCame (x : Team) (page : Nat) (closed : Bool) : Team :=
  if x.awaits.contains page then
    { x with awaits := x.awaits.erase page, missing := x.missing - 1, closed := if closed then page :: x.closed else x.closed }
  else x

/-- Tell every team of a context about a page. -/
def State.pageCame (s : State) (asid page : Nat) (closed : Bool) : State :=
  { s with teams := s.teams.map (fun (p : Nat × Team) => if p.2.asid = asid then (p.1, p.2.pageCame page closed) else p) }

/-- The entries that map the page of a leaf: one, or the 32 of a 2 MiB group; (address, index in the group). -/
def Leaf.entries (l : Leaf) : List (Nat × Nat) :=
  if l.size = 0x200000 then (List.range 32).map (fun i => (l.at_ / 256 * 256 + 8 * i, i)) else [(l.at_, 0)]

/-- The granules that the host holds of a leaf's entries: they are taken from it before the entries are rewritten (R257, R277). -/
def State.leafHeld (s : State) (l : Leaf) : List Nat := distinct (l.entries.flatMap (fun e => s.hostGranules e.1 8 [1, 2]))

/-- Rewrite the entries of a leaf, as the page service and the control die do, at J (R254, R280). -/
def State.rewriteLeaf (s : State) (l : Leaf) (f : Nat → Nat → Nat) : State :=
  (s.publishPa (l.entries.flatMap (fun e => quadBytes e.1 (f (s.quadAt e.1) e.2)))).1

/-- A leaf entry with RS set and, if one is given, a new frame; `i` is its place in a 2 MiB group (R275). -/
def residentEntry (l : Leaf) (pa : Option Nat) (e i : Nat) : Nat :=
  let e1 := if bitOf e 9 then e else e + 2 ^ 9
  match pa with
  | none => e1
  | some p =>
    let p := p + 0x10000 * i
    if l.size = 0x1000 then e1 % 2 ^ 12 + p / 2 ^ 12 * 2 ^ 12 else e1 % 2 ^ 16 + p / 2 ^ 16 * 2 ^ 16

/-- A page has come for every team that awaits it, and its request is done (R281). -/
def State.pageDone (s : State) (asid page : Nat) : State :=
  let s1 := s.pageCame asid page false
  { s1 with net := { s1.net with
      pageRq := s1.net.pageRq.filter (fun p => p != (asid, page))
      gclosed := s1.net.gclosed.filter (fun p => (p.2.1, p.2.2.1) != (asid, page)) } }

/-- The level-1 tables of an ASID: those that its running grids use until they end, and the one that its descriptor names now (R319). -/
def State.roots (s : State) (asid : Nat) : List Nat :=
  distinct ((s.grids.filter (fun p => p.2.ctx.asid == asid)).map (fun p => p.2.ctx.l1pa) ++ [s.asidL1 asid])

/-- The leaf of a page: under the first table of its ASID in which the page is as `p` says, else under the last that maps it. -/
def State.rootLeaf (s : State) (asid va : Nat) (p : Leaf → Bool) : Option Leaf :=
  let ls := (s.roots asid).filterMap (fun r => s.walk r va)
  match ls.find? p with
  | some l => some l
  | none => ls.getLast?

/-- PAGE_RESIDENT: the page service makes a page resident, in a frame it names or in that of the leaf, or finds it made so by a
write to the table, under the tables that the grids of the ASID run with (R281, R319). -/
def execPageResident (asid va : Nat) (pa : Option Nat) (s : State) : Out :=
  match s.rootLeaf asid va (fun l => !l.rs) with
  | none => .next s
  | some l =>
    let ok := match pa with
      | none => true
      | some p => l.attr != .remote && decide (p % l.size = 0) && (isDevicePa p || (isHostPa p && l.attr == .hosted)) && decide (p < 2 ^ 52)
    if l.rs then .next (s.pageDone asid (l.page va))
    else if !ok then .next s
    else match s.leafHeld l with
    | g :: gs => .next (s.snoop (g :: gs) true)
    | [] => .next ((s.rewriteLeaf l (residentEntry l pa)).pageDone asid (l.page va))

/-- PAGE_REQUEST_CLOSED: a request is closed without residency; what waits for the page then meets 0x04, status 0x02, or
"no translation" (R281, R311, R371). -/
def execPageRequestClosed (asid va : Nat) (s : State) : Out :=
  if !s.net.pageRq.contains (asid, va) then .next s
  else
    let away (r : Req) : Bool := decide (r.asid = asid) && (match s.walk (s.l1Of r.team) r.va with
      | some l => !l.rs && l.page r.va == va
      | none => false)
    let gone := s.net.reqs.filter away
    let s1 := (s.pageCame asid va true).closeIngress asid va
    let s2 := { s1 with net := { s1.net with
      pageRq := s1.net.pageRq.filter (fun p => p != (asid, va))
      gclosed := s1.net.gclosed.map (fun p => if (p.2.1, p.2.2.1) = (asid, va) then (p.1, p.2.1, p.2.2.1, true) else p)
      reqs := s1.net.reqs.filter (fun r => !away r)
      cmds := s1.net.cmds.map (fun c =>
        if c.asid = asid && c.asked.contains va then { c with closed := va :: c.closed, asked := c.asked.erase va } else c) } }
    .next (gone.foldl (fun s r => s.reply r (r.kind.refusal trapNoMap)) s2)

/-- The lines of a read-duplicated page as offsets. -/
def Leaf.lineOffsets (l : Leaf) : List Nat := (List.range (l.size / 128)).map (128 * ·)

/-- After a collapse the line at offset `o` keeps the largest rts that either replica granted (R279, R280). -/
def State.joinReplica (s : State) (base size o : Nat) : State :=
  let p0 := base + o
  let p1 := base + size + Nat.xor o 0x800
  let a := s.hline p0
  let b := s.hline p1
  if b.rts ≤ a.rts then s else s.setHline p0 { a with rts := b.rts }

/-- READ_DUPLICATE_COLLAPSE: RD is cleared, the frame at pa alone holds the page, and the writers replay (R280). -/
def execReadDuplicateCollapse (asid va : Nat) (s : State) : Out :=
  let gs := match s.rootLeaf asid va (·.rd) with
    | some l => if l.rd then s.leafHeld l else []
    | none => []
  if !s.net.collapse.contains (asid, va) then .next s
  else if !gs.isEmpty then .next (s.snoop gs true)
  else
    let s1 := match s.rootLeaf asid va (·.rd) with
      | none => s
      | some l =>
        if !l.rd then s
        else
          let base := l.phys va / l.size * l.size
          let s1 := s.rewriteLeaf l (fun e _ => if bitOf e 8 then e - 2 ^ 8 else e)
          let s2 := l.lineOffsets.foldl (fun (s : State) o => s.joinReplica base l.size o) s1
          let fix (k : Copy) : Copy := if k.asid = asid && l.page k.line == va then { k with leaf := { k.leaf with rd := false } } else k
          { s2 with cores := s2.cores.map (fun (p : Nat × Core) => (p.1, { p.2 with copies := p.2.copies.map fix }))
                    teams := s2.teams.map (fun (p : Nat × Team) => (p.1, { p.2 with kept := p.2.kept.map fix })) }
    let s2 := s1.pageCame asid va false
    .next { s2 with net := { s2.net with collapse := s2.net.collapse.filter (fun p => p != (asid, va)) } }

/-! ### Traps (R332 to R337) -/

/-- A node's grid is to fail: its fault record's cause, code, address, PC and rank (R343, R360). -/
def State.failNode (s : State) (g cause code fva pc rank : Nat) : State :=
  match Tab.find? s.grids g with
  | none => s
  | some gr => match gr.failing with
    | some _ => s
    | none => s.setGridOf g { gr with failing := some (cause, code, fva, pc, rank) }

/-- The reporting agent's PC: that of a group, 0 of a side sequencer (R360). -/
def State.reportPc (s : State) (t : Nat) (r : TrapInfo) : Nat := if r.agent < 16 then (s.agent t r.agent).pc.toNat else 0

/-- The node of a trapped team that gets no handler fails with its trap, a SYSC with its service number (R335). -/
def State.failTrapped (s : State) (t : Nat) (r : TrapInfo) : State :=
  let x := s.teamOf t
  if r.kind = kindSysc then s.failNode x.grid 3 r.svc r.fva (s.reportPc t r) x.rank
  else s.failNode x.grid 0 r.code r.fva (s.reportPc t r) x.rank

/-- The node of the team that handler team `t` answers fails with the code that was recorded, whether or not the handler has
resumed the team (R337). -/
def State.failHandled (s : State) (t : Nat) : State :=
  let x := s.teamOf t
  match x.orig with
  | none => s
  | some (r, pc) => s.failNode x.grid 0 r.code r.fva pc x.rank

/-- A team that has trapped halts: its trap record (R333) is written at the header's troff and it is saved, with state 4 (R332, R333). -/
def State.trapHalt (s : State) (t : Nat) (r : TrapInfo) : State :=
  let bs := s.trapRecord t r
  let s1 := s.saveTeam t .trapped
  let x := s1.teamOf t
  if x.recVA = 0 then s1
  else
    let p := s1.publishJ x.ctx.l1pa none (bytesAt (x.recVA + recTrap) bs)
    p.1.setTeamOf t { p.1.teamOf t with trecVA := x.recVA + recTrap, trapW := p.2, closed := [] }

/-- TEAM_TRAP_HALT: the halt of R332, and what follows it: a handler is to be placed, or the node fails. -/
def execTeamTrapHalt (t : Nat) (s : State) : Out :=
  let x := s.teamOf t
  match x.trap with
  | none => .next s
  | some r =>
    if !s.onCore t then .next s
    else
      let s1 := s.trapHalt t r
      match x.handles with
      | some _ => .next ((s1.failHandled t).setTeamOf t { s1.teamOf t with status := .ended, recVA := 0 })
      | none =>
        if r.code = trapAbort && r.kind = kindFault then
          .next (s1.failNode x.grid 2 trapAbort 0 0 x.rank)
        else if (s1.gridOf x.grid).hkernel.isNone then .next (s1.failTrapped t r)
        else .next s1

/-- FP_TRAP_COLLECTION_CLOSE: the group reports trap 0x07 (R334). -/
def execFpTrapCollectionClose (t g : Nat) (s : State) : Out :=
  let x := s.teamOf t
  if !s.windowCloses t g || !s.onCore t || x.trap.isSome then .next s
  else .next (s.trapAgent t g trapFloat kindFp 0 0)

/-- A team that is away, and is not the one named: what is directed at it is held (R327). -/
def State.awayFrom (s : State) (t u : Nat) : Bool := u != t && (s.teamOf u).status != .placed && (s.teamOf u).status != .ended

/-- An engine command waits in a hold: of a link, on its way or on that of a snoop that it waits for, or for a team that is away (R250,
R258, R327). -/
def State.cmdHeld (s : State) (c : Cmd) : Bool :=
  !s.cmdReaches c (s.cmdVas c)
    || s.snoopHeld (if c.stage = .queued || c.stage = .waiting then s.sourceHeld c else if c.stage = .shadow then s.shadowGranules c c.shadow else [])
    || ((c.stage == .queued || c.stage == .waiting) && !s.windowsAtHand c)
    || (c.kind == 2 && c.stage == .shadow && c.await.any (fun p => (s.member c.team p).any (s.awayFrom c.team)))

/-- An agent waits in a hold: its fetch, a snoop for it or for the tables that its checks walk, or a store of it to the window of a team
that is away (R250, R327). -/
def State.agentHeld (s : State) (t a : Nat) : Bool :=
  let g := s.agent t a
  (g.status == .run && (!s.fetchReaches t a || s.snoopHeld (s.fetchGranules t a ++ s.nextGranules t a)))
    || g.stores.any (fun p => match p.target with
      | .window u => s.awayFrom t u
      | .global => false)

/-- The team waits in a hold of R250: of an agent, a request, of an invalidation or snoop that the request waits for, of a reply, or of an
engine command; or on an access, a CBAR arrival among them, held for a team that is away: that time does not count (R327, R338). -/
def State.inHold (s : State) (t : Nat) : Bool :=
  s.net.reqs.any (fun r => r.team == t && s.reqHeld r)
    || s.net.reps.any (fun r => r.team == t && !s.pathOk (r.slice / 16) (dieOf r.core))
    || s.net.cmds.any (fun c => !c.queued && c.team == t && s.cmdHeld c)
    || s.net.held.any (fun p => p.1 == t)
    || (s.teamOf t).agents.any (s.agentHeld t)
    || ((s.teamOf t).begun == some true && (s.clusterOf t).any (fun u =>
      (s.teamOf u).status != .placed && (s.teamOf u).status != .ended))

/-- WATCHDOG: no group of the team has issued for cr.wdog µs (R338). The record names the lowest group that has not ended as the
reporter: the rule names none (DESIGN CHOICE, log entry 85). -/
def execWatchdog (t : Nat) (s : State) : Out :=
  let x := s.teamOf t
  if s.dev.wdog = 0 || !s.onCore t || x.trap.isSome || s.inHold t then .next s
  else
    let r : TrapInfo := { code := trapWatchdog, kind := kindWatchdog, agent := (s.liveGroups t).headD 0, fva := 0, svc := 0 }
    .next (s.setTeamOf t { x with trap := some r })

/-! ### The end of a team (R138) -/

/-- Nothing of the team is left to run. -/
def State.mayEnd (s : State) (t : Nat) : Bool :=
  let x := s.teamOf t
  s.onCore t && x.trap.isNone && (s.liveGroups t).isEmpty && !s.sideRuns t && !x.forced
    && !s.net.cmds.any (fun c => !c.queued && c.team == t && c.stage != .deferred)

/-- Every home access of the team has been acknowledged, and its dadd updates accepted (R222). -/
def State.allQuiet (s : State) (t : Nat) : Bool := (s.teamOf t).agents.all (s.homeQuiet t) && s.daddQuiet t

/-- The team is gone: its pages, tiles, sequencers, barrier counts and record are free (R130, R137, R194). -/
def State.endTeam (s : State) (t : Nat) : State :=
  let s1 := (s.viewPoint t).countBoundary t true
  let x := s1.teamOf t
  let c := s1.coreOf x.core
  let s2 := s1.setCoreOf x.core { c with
    ltt := c.ltt.filter (fun e => e.team != t)
    holder := if c.holder = some t then none else c.holder }
  let s3 := [16, 17].foldl (fun s a => s.setAgent t a { s.agent t a with seqSt := 0, status := .ended }) s2
  s3.setTeamOf t { x with
    status := .ended, ls := [], lsBad := [], kept := [], array := none, restart := none, hb := fillv 8 0, hbHeld := [], hbq := []
    recVA := 0, ct := (s1.coreOf x.core).ct, request := none }

/-- TEAM_END: a visibility point, then the end (R138, R337). -/
def execTeamEnd (t : Nat) (s : State) : Out :=
  let x := s.teamOf t
  if !s.mayEnd t then .next s
  else if (s.gridOf x.grid).aborting && x.handles.isNone then .next (s.trapAgent t 0 trapAbort kindFault 0 0)
  else
    let s1 := x.agents.foldl (fun s a => s.drainIf t a (fun _ => true)) s
    let y := s1.teamOf t
    if x.agents.any (fun a => !(s1.agent t a).stores.isEmpty) then .next s1
    else match y.pubTrap with
    | some (c, a) => .next ((s1.setTeamOf t { y with pubTrap := none }).trapAgent t 0 c kindFault a 0)
    | none => match s1.closedUnpub t, s1.absentUnpub t with
      | some a, _ => .next (s1.trapAgent t 0 trapNoMap kindFault a 0)
      | none, p :: ps => .next (s1.awaitPages t (p :: ps))
      | none, [] =>
        if !y.unpub.isEmpty then .next (s1.publishAll t 0)
        else if !y.pubs.isEmpty || !s1.allQuiet t then .next s1
        else match x.handles with
          | some _ => .next (if x.resumed then s1.endTeam t else (s1.endTeam t).failHandled t)
          | none => .next (s1.endTeam t)

end Sys2Proof.Machine
end

