-- ==== Sys2Proof/Machine/Place.lean ====
section
/-!
DEFINITION. Placing teams on cores (R320 to R323, R144, R151, R191, R237, R269), handler teams (R335), requests for
pre-emption (R322, R326 to R330), stealing (R356), carve-out changes (R270), and cores leaving and entering service (R340).
-/

namespace Sys2Proof.Machine

open Sys2Proof

/-! ### Cores and rectangles (R4, R191, R340) -/

/-- The die is to be gated, or is gated (R388, R394). -/
def State.gateAsked (s : State) (d : Nat) : Bool := s.dev.gate.getLsbD d || (s.dieAt d).gated

/-- Teams may be placed on a core: it is in service and its die's mesh runs. -/
def State.coreOpen (s : State) (c : Nat) : Bool :=
  decide (c < 288) && s.inService c && s.dieLive (dieOf c) && !s.gateAsked (dieOf c) && s.dev.rdy && !s.dev.d3

def coreCol (c : Nat) : Nat := c % 144 % 12
def coreRow (c : Nat) : Nat := c % 144 / 12

/-- The cores of a rectangle of w × h cores from its first core on. -/
def rectCores (o w h : Nat) : List Nat := (List.range h).flatMap (fun y => (List.range w).map (fun x => o + 12 * y + x))

/-- A rectangle lies within one die, an even width begins at an even column, and all its cores are open (R191, R354). -/
def State.rectOk (s : State) (o w h : Nat) : Bool :=
  decide (o < 288) && decide (coreCol o + w ≤ 12) && decide (coreRow o + h ≤ 12) && (w % 2 != 0 || coreCol o % 2 == 0)
    && (rectCores o w h).all s.coreOpen

/-- The first rectangle of that shape, if there is one. -/
def State.chooseRect (s : State) (w h : Nat) : Option Nat := (List.range 288).find? (fun o => s.rectOk o w h)

/-- Teams resident on a core. -/
def State.residents (s : State) (c : Nat) : List Nat :=
  s.teamKeys.filter (fun t => (s.teamOf t).core == c && (s.teamOf t).status == .placed)

/-- The core has free slots for a team, and room for its context (R63, R321). -/
def State.fits (s : State) (t c : Nat) : Bool :=
  let x := s.teamOf t
  let r := s.residents c
  decide ((r.map (fun u => (s.teamOf u).ngrp)).sum + x.ngrp ≤ 16)
    && decide ((distinct (x.asid :: r.map (fun u => (s.teamOf u).asid))).length ≤ 4)


/-! ### The reserved memory (R320) -/

/-- Blocks of a context's reserved memory that are in use: (first address, bytes). -/
def State.reserved (s : State) (asid : Nat) : List (Nat × Nat) :=
  (s.grids.filter (fun p => p.2.ctx.asid == asid)).map (fun p => (p.2.spill, 0x200000))
    ++ (s.teams.filter (fun p => p.2.asid == asid && p.2.recVA != 0)).map (fun p => (p.2.recVA, recSize p.2.lswin))

/-- The lowest free block of `n` bytes of a context's reserved memory. -/
def State.allocate (s : State) (c : Context) (n : Nat) : Option Nat :=
  let used := s.reserved c.asid
  (c.rbase :: used.map (fun b => (b.1 + b.2 + 4095) / 4096 * 4096)).find? (fun a =>
    decide (c.rbase ≤ a) && decide (a + n ≤ c.rbase + c.rsize)
      && used.all (fun b => decide (a + n ≤ b.1) || decide (b.1 + b.2 ≤ a)))

/-! ### Placement (R57, R130, R144, R237, R323) -/

/-- A core that has not been used holds nothing and counts as adjusted. -/
def State.coreUp (s : State) (c : Nat) : State :=
  match Tab.find? s.cores c with
  | some _ => s
  | none => s.setCoreOf c { Core.empty with gen := s.genBit }

/-- A group at launch: every lane active at the entry, s0 as given, sp the window size (R57, R144, R323). A descriptor's entry of 2^52 or
more, or no multiple of 4, which R35 and R349 do not refuse, is taken modulo 2^52 and keeps its low bits (DESIGN CHOICE, log entry 85). -/
def launchGroup (entry s0 window : Nat) (gen : BitVec 128) : Group :=
  { Group.empty with
    pcs := fillv 32 (BitVec.ofNat 52 entry), active := BitVec.allOnes 32, gen := gen, status := .run
    s := vset (vset (fillv 64 0) 0 (BitVec.ofNat 64 s0)) 61 (BitVec.ofNat 64 window) }

/-- The zero map of a new team: a bit for every page of its window (R264). -/
def zeroMap (lswin : Nat) : List Byte :=
  (List.range 256).map (fun i => BitVec.ofNat 8 ((List.range 8).foldl (fun a j =>
    a + if 8 * i + j < lswin / 2 then 2 ^ j else 0) 0))

/-- The time that a team that is placed takes over: for a handler that of its trap record's publication, else the largest commit time
of the predecessors of its node (R335, R342). -/
def State.placeTime (s : State) (t : Nat) : Nat :=
  let x := s.teamOf t
  match x.handles with
  | some u => (s.teamOf u).trapW
  | none =>
    let g := s.gridOf x.grid
    match (s.graphs[g.gi]?).bind (fun gr => gr.nodes[g.node]?) with
    | some n => Nat.max g.predW n.predW
    | none => g.predW

/-- Install a late reply in its register (R331). -/
def State.installLate (s : State) (t : Nat) (l : LateReply) : State :=
  let g := s.agent t l.grp
  s.setAgent t l.grp (match l.kind with
    | 0 => let r : VReg := ⟨l.reg % 128, Nat.mod_lt _ (by decide)⟩
      g.setV r (mergeLanes [l.lane] (fun _ => l.value.setWidth 32) (g.getV r))
    | _ => g.setS ⟨l.reg % 64, Nat.mod_lt _ (by decide)⟩ l.value)

/-- The page list of a team's record, as memory holds it, is not one that a restore accepts. Entries that stand as the save wrote
them are, whatever the split has become since (DEDUCED, log entry 62; R263). A record that cannot be read is not restored from either
(DEDUCED, log entry 90; R253, R392). -/
def State.badPages (s : State) (t c : Nat) : Bool :=
  let x := s.teamOf t
  if x.recVA = 0 then false
  else if s.badVa x.ctx.l1pa x.recVA (recPages + 8 * x.plist.length) then true
  else if x.plist.isEmpty then false
  else
    let now := (List.range x.plist.length).map (fun i => s.quadVa x.ctx.l1pa (x.recVA + recPages + 8 * i))
    now != x.plist && !now.all (listedOk (s.coreOf c).l1)

/-- The window pages that a placed team gets before it issues: those that it stalled for, where the teams whose they are stand on their
cores, and, while frames are free, those that its page list names (R263, R266). -/
def State.refillPages (s : State) (t : Nat) (listed : List Nat) : State :=
  let mine := (s.teamOf t).refill.filter (fun p => (s.teamOf p.1).status == .placed)
  let s1 := s.fillPages mine
  let s2 := s1.setTeamOf t { s1.teamOf t with refill := ((s1.teamOf t).refill).filter (fun p => !mine.contains p) }
  listed.foldl (fun s e => if ((s.coreOf (s.teamOf t).core).freeFrame).isSome then s.fillPage mine t (bitsOf e 10 0) else s) s2

/-- Once its whole cluster is placed a team gets the pages of the others' windows that it stalled for; one of a window that is away stalls
it again (R266, R327). -/
def State.refillRest (s : State) (t : Nat) : State :=
  if (s.teamOf t).status ≠ .placed then s
  else
    let s1 := s.refillPages t []
    s1.setTeamOf t { s1.teamOf t with refill := [] }

/-- The core that is to give the frame of a page that team `t`, placed on core `c`, stalled for. -/
def State.refillCore (s : State) (t c : Nat) (p : Nat × Nat) : Nat := if p.1 = t then c else (s.teamOf p.1).core

/-- Every core can give the frames that team `t` waits for there, of the number that it was missing as it left (R266). -/
def State.refillFits (s : State) (t c : Nat) : Bool :=
  let x := s.teamOf t
  let away := x.refill.filter (fun p => !s.pageIn p.1 p.2)
  (distinct (away.map (s.refillCore t c))).all (fun d =>
    decide (Nat.min x.missing (away.filter (fun p => s.refillCore t c p == d)).length ≤ s.frameStock d))

/-- The round of a core after a placement of context `a` of share `wt`: one that has used its share and is placed all the same has begun
the next round (R321). -/
def Core.roundAfter (c : Core) (a wt : Nat) : Tab Nat :=
  match c.round with
  | (cur, n) :: _ => if cur = a && decide (n < wt) then [(a, n + 1)] else [(a, 1)]
  | [] => [(a, 1)]

/-- A new team's record, groups and zero map; `rec` is its context record. -/
def State.launchTeam (s : State) (t rec : Nat) : State :=
  let x := s.teamOf t
  let gr := s.gridOf x.grid
  let s0 := match x.handles with
    | some u => (s.teamOf u).trecVA
    | none => x.param
  let s1 := s.setTeamOf t { x with recVA := rec }
  let s2 := (List.range x.ngrp).foldl (fun s g => s.setAgent t g
    (launchGroup x.kernel.entry s0 (x.lswin * 1024) (gfJump gr.seed (x.rank * 2 ^ 64 + g * 2 ^ 59)))) s1
  s2.publishFrom (dieOf x.core) x.ctx.l1pa (bytesAt (s2.teamOf t).bkva (zeroMap x.lswin)) (s2.ctSent x.core)

/-- The pages of a team that engine shadows kept in frames of the core that it leaves for another go to their backing copies (R268,
R269). -/
def State.leaveFrames (s : State) (t : Nat) : State :=
  let c := (s.teamOf t).core
  ((s.coreOf c).ltt.filter (fun e => e.team == t && !e.shd)).foldl (fun s e => s.evict c e) s

/-- Team `t`, which has its record, becomes resident on core `c`: CT, stable copies and tiles come with it, late replies
are installed, the pages that it stalled for are filled, and an access that was refused meanwhile traps (R52, R237, R217, R266,
R269, R331). -/
def State.settleTeam (s : State) (t c : Nat) : State :=
  let s0 := if (s.teamOf t).core = c then s else s.leaveFrames t
  let x := s0.teamOf t
  let s1 := s0.coreUp c
  let k := s1.coreOf c
  let w := s0.placeTime t
  let s2 := s1.setCoreOf c { k with
    copies := x.kept.map (fun j => { j with latest := false, stable := [t] }) ++ k.copies
    queue := k.queue.filter (fun u => u != t)
    round := k.roundAfter x.asid x.ctx.wt
    holder := if x.array.isSome then some t else k.holder
    tiles := match x.array with
      | some a => a.1
      | none => k.tiles
    table := match x.array with
      | some a => a.2
      | none => k.table }
  let s3 := (x.late.foldl (fun s l => s.installLate t l) s2).setTeamOf t { x with
    core := c, status := .placed, missing := 0, awaits := [], kept := [], array := none, late := [], plist := [], request := none
    placedAt := s2.net.nextId }
  let s4 := { s3 with net := { s3.net with nextId := s3.net.nextId + 1 } }.raiseCt c (s3.timeFor c (Nat.max w x.ct))
  let s5 := (s4.refillPages t x.plist).writeRecord t false false
  x.agents.foldl (fun s a => (s.trapBad t a).remoteEnd t a) s5

/-- Place a team: a new one needs a record first (R320, R321). Where the restore fails, the team is not placed, and its node fails
by node abort (DESIGN CHOICE, log entry 62; R263). -/
def State.placeTeam (s : State) (t c : Nat) : State :=
  let x := s.teamOf t
  if x.status = .queued then
    match s.allocate x.ctx (recSize x.lswin) with
    | none => s
    | some rec => (s.settleTeam t c).launchTeam t rec |>.writeRecord t false false
  else if s.badPages t c then s.failNode x.grid 2 trapAbort 0 0 x.rank
  else s.settleTeam t c

/-- The core that keeps team `t` at its place in the rectangle of a sibling at core `cu`; none where there is none. -/
def placeBy (x u : Team) (cu : Nat) : Option Nat :=
  let a := cu + 12 * x.py + x.px
  let b := 12 * u.py + u.px
  if b ≤ a then some (a - b) else none

/-- The siblings of a team that fix where it goes: resident ones and queued ones (R327). -/
def State.anchors (s : State) (t : Nat) : List Nat :=
  (s.clusterOf t).filter (fun u => u != t && ((s.teamOf u).status == .placed || (s.teamOf u).status == .queued))

/-- A team may go to core `c` as far as migration and its cluster's rectangle are concerned: another core than its own only from a
boundary, for a larger cluster a CBAR, and with no frame pinned, or off a core that is open no longer (R151, R269, R327, R340). It waits
for members that are cocooned, with which the cluster is whole (R327, R339). -/
def State.whereOk (s : State) (t c : Nat) : Bool :=
  let x := s.teamOf t
  if x.status = .queued then decide (c = x.core)
  else if (s.clusterOf t).any (fun u => (s.teamOf u).status == .cocooned) then false
  else
    let cl := (s.clusterOf t).filter (fun u => (s.teamOf u).status != .ended)
    match s.anchors t with
    | u :: _ => placeBy x (s.teamOf u) (s.teamOf u).core == some c
    | [] =>
      let pinned := cl.any (fun u => s.net.cmds.any (fun d => d.holds && d.shadow.any (fun y => y.1 == u + 1)))
      let standing := cl.all (fun u => (s.teamOf u).status == .atBoundary && (x.w * x.h == 1 || (s.teamOf u).bcbar))
      let moves := standing || cl.any (fun u => !s.coreOpen (s.teamOf u).core)
      if c = x.core then true
      else moves && !pinned && decide (12 * x.py + x.px ≤ c) && s.rectOk (c - (12 * x.py + x.px)) x.w x.h

/-- The core's sequencers and array are free for what the team brings back (R137, R194). -/
def State.unitsFree (s : State) (t c : Nat) : Bool :=
  let x := s.teamOf t
  (x.array.isNone || (s.coreOf c).holder.isNone)
    && [16, 17].all (fun a => (s.agent t a).seqSt == 0 || !(s.residents c).any (fun u => (s.agent u a).seqSt != 0))

/-- A team waits for slots, core `c` can take it, and frames can be given for the pages that it stalled for; a queued one is the first
of its context in its core's queue (R266, R270, R281, R321, R355). -/
def State.coreTakes (s : State) (t c : Nat) : Bool :=
  let x := s.teamOf t
  (x.status == .queued || x.status == .saved || x.status == .atBoundary) && x.trap.isNone && x.awaits.isEmpty
    && s.coreOpen c && (s.coreOf c).l1next.isEmpty && s.fits t c && s.unitsFree t c
    && s.refillFits t c
    && (x.status != .queued || x.handles.isSome || (s.coreOf c).queue.find? (fun u => (s.teamOf u).asid == x.asid) == some t)

/-- The teams that are placed with team `t`: a cluster that has been switched out comes back whole, but for members that a trap has
halted (R327). -/
def State.placedWith (s : State) (t : Nat) : List Nat :=
  let x := s.teamOf t
  if x.status = .queued || x.w * x.h = 1 || !(s.anchors t).isEmpty then [t]
  else (s.clusterOf t).filter (fun u => (s.teamOf u).status == .saved || (s.teamOf u).status == .atBoundary)

/-- The core that team `u` goes to when team `t` of its cluster goes to `c`. -/
def State.coreBy (s : State) (t u c : Nat) : Nat := (placeBy (s.teamOf u) (s.teamOf t) c).getD 288

/-- The cluster of a team may be placed with team `t` on core `c`, turns aside. -/
def State.placeable (s : State) (t c : Nat) : Bool :=
  s.whereOk t c && (s.placedWith t).all (fun u => s.coreTakes u (s.coreBy t u c))

/-- A team waits for the placement of its handler (R335). -/
def State.wantsHandler (s : State) (t : Nat) : Bool :=
  let x := s.teamOf t
  match x.trap with
  | none => false
  | some r => x.status == .trapped && x.handles.isNone && !(r.code == trapAbort && r.kind == kindFault)
      && (s.gridOf x.grid).hkernel.isSome && (s.gridOf x.grid).failing.isNone
      && !s.teamKeys.any (fun u => (s.teamOf u).handles == some t && (s.teamOf u).status != .ended && !(s.teamOf u).resumed)

/-! ### Rounds (R321) -/

/-- The teams that wait for slots on core `c`: those that may be placed there, which is where they belong. -/
def State.waitersAt (s : State) (c : Nat) : List Nat :=
  s.teamKeys.filter (fun t => (s.teamOf t).core == c && s.placeable t c)

/-- The share of a context among the teams that wait at a core. -/
def State.shareAt (s : State) (c asid : Nat) : Nat :=
  match (s.waitersAt c).find? (fun t => (s.teamOf t).asid == asid) with
  | some t => (s.teamOf t).ctx.wt
  | none => 0

/-- It is context `a`'s turn, of share `wt`, in the round of core `c`, which stands at the context and the count it holds. -/
def State.roundTurn (s : State) (c a wt : Nat) : Bool :=
  let w := distinct (a :: (s.waitersAt c).map (fun t => (s.teamOf t).asid))
  let least (p : Nat → Bool) : Bool := w.all (fun b => !p b || decide (a ≤ b))
  match (s.coreOf c).round with
  | [] => least (fun _ => true)
  | (cur, n) :: _ =>
    let share := if a = cur then wt else s.shareAt c cur
    let past := !w.contains cur || decide (share ≤ n)
    if a = cur && decide (n < share) then true
    else if cur < a then past && least (fun b => decide (cur < b))
    else past && w.all (fun b => decide (b ≤ cur)) && least (fun _ => true)

/-- A team waits for slots, may be placed on core `c`, and it is its context's turn there (R270, R281, R321). -/
def State.mayPlace (s : State) (t c : Nat) : Bool :=
  s.placeable t c && (s.placedWith t).all (fun u => s.roundTurn (s.coreBy t u c) (s.teamOf u).asid (s.teamOf u).ctx.wt)

/-- A team is runnable, but its core is open no longer while siblings run: its whole cluster is saved and placed again (R327). -/
def State.stranded (s : State) (t : Nat) : Bool :=
  let x := s.teamOf t
  (x.status == .saved || x.status == .atBoundary) && x.trap.isNone && !s.coreOpen x.core
    && (s.clusterOf t).any (fun u => u != t && (s.teamOf u).status == .placed)

/-- TEAM_PLACE (R321, R327). -/
def execTeamPlace (t core : Nat) (s : State) : Out :=
  if s.stranded t then .next (s.preempt t 2)
  else if s.mayPlace t core then
    let us := s.placedWith t
    .next (us.foldl State.refillRest (us.foldl (fun z u => z.placeTeam u (s.coreBy t u core)) s))
  else .next s

/-! ### Handlers (R335) -/

/-- A handler team for trapped team `t`, which answers its report. Its dadd updates carry the trapped team's rank and a phase of their
own, and no boundary of the grid waits for it (DESIGN CHOICE, log entry 23; R222). -/
def State.handlerTeam (s : State) (t : Nat) (k : Kernel) (c key : Nat) : Team :=
  let x := s.teamOf t
  { Team.empty with
    grid := x.grid, asid := x.asid, rank := x.rank, core := c, cluster := key, w := 1, h := 1, ngrp := k.groups
    lswin := k.lswin, param := x.param, node := x.node, attempt := x.attempt, sup := true, kernel := k, ctx := x.ctx
    status := .queued, handles := some t, trecVA := x.trecVA
    orig := x.trap.map (fun r => (r, s.reportPc t r)) }

/-- HANDLER_PLACE: one handler team is placed for a team that a trap has halted, in its context's turn (R321, R335). -/
def execHandlerPlace (t core : Nat) (s : State) : Out :=
  let x := s.teamOf t
  match (s.gridOf x.grid).hkernel with
  | none => .next s
  | some k =>
    if !s.wantsHandler t || !s.coreOpen core || !(s.coreOf core).l1next.isEmpty then .next s
    else
      let key := s.nextKey
      let s1 : State := { s.setTeamOf key (s.handlerTeam t k core key) with nextKey := key + 1 }
      if s1.fits key core && s.roundTurn core x.asid x.ctx.wt && (s1.allocate x.ctx (recSize k.lswin)).isSome then
        .next (s1.placeTeam key core)
      else .next s

/-! ### Requests for pre-emption (R322, R326 to R330) -/

/-- The teams of the running grids of a node index in an ASID (R340). -/
def State.namedTeams (s : State) (asid node : Nat) : List Nat :=
  s.teamKeys.filter (fun t =>
    let x := s.teamOf t
    x.asid == asid && x.node == node && x.status == .placed && x.handles.isNone)

/-- A request for every team of a node. -/
def State.preemptNode (s : State) (asid node mode : Nat) : State :=
  (s.namedTeams asid node).foldl (fun s t => s.preemptOne t mode) s

/-- PREEMPT_SCHEDULER_CHOICE (R330). -/
def execPreemptSchedulerChoice (asid node : Nat) (s : State) : Out := .next (s.preemptNode asid node 0)
/-- PREEMPT_DRAIN (R328). -/
def execPreemptDrain (asid node : Nat) (s : State) : Out := .next (s.preemptNode asid node 1)
/-- PREEMPT_SAVE (R328). -/
def execPreemptSave (asid node : Nat) (s : State) : Out := .next (s.preemptNode asid node 2)
/-- PREEMPT_FLUSH (R328). -/
def execPreemptFlush (asid node : Nat) (s : State) : Out := .next (s.preemptNode asid node 3)

/-- DRAIN_LIMIT_EXPIRY: a drain that takes more than cr.dlim µs becomes a save, at its boundary where the team stands at one (R317,
R328). -/
def execDrainLimitExpiry (t : Nat) (s : State) : Out :=
  let x := s.teamOf t
  if x.request ≠ some 1 || s.boundaryBegun t || !s.onCore t || x.trap.isSome then .next s
  else .next (s.leaveNow t)

/-- The resident team of another context that was placed longest ago. -/
def State.oldestForeign (s : State) (c asid : Nat) : Option Nat :=
  ((s.residents c).filter (fun u => (s.teamOf u).asid != asid)).foldl (fun r u => match r with
    | none => some u
    | some v => if (s.teamOf u).placedAt < (s.teamOf v).placedAt then some u else some v) none

/-- QUANT_EXPIRY: a team has waited cr.quant µs for slots (R322). -/
def execQuantExpiry (t : Nat) (s : State) : Out :=
  let x := s.teamOf t
  if x.status ≠ .queued || !(s.coreOf x.core).queue.contains t then .next s
  else match s.oldestForeign x.core x.asid with
  | none => .next s
  | some u => .next (s.preempt u 0)

/-! ### Stealing (R356) -/

/-- Two cores are neighbours in the mesh of one die. -/
def neighbours (a b : Nat) : Bool :=
  decide (dieOf a = dieOf b) &&
    ((coreRow a == coreRow b && (coreCol a == coreCol b + 1 || coreCol b == coreCol a + 1))
      || (coreCol a == coreCol b && (coreRow a == coreRow b + 1 || coreRow b == coreRow a + 1)))

/-- A queued team that may be stolen. -/
def State.stealable (s : State) (t : Nat) : Bool :=
  let x := s.teamOf t
  x.w * x.h == 1 && !(s.gridOf x.grid).det

/-- TEAM_STEAL: half of the stealable teams nearest the tail of the victim's queue, in order (R356). -/
def execTeamSteal (thief victim : Nat) (s : State) : Out :=
  let q := (s.coreOf victim).queue
  let m := q.filter s.stealable
  if !s.coreOpen thief || !neighbours thief victim || !(s.coreOf thief).queue.isEmpty || !(s.residents thief).isEmpty
    || m.isEmpty then .next s
  else
    let take := m.drop (m.length / 2)
    let s1 := s.coreUp thief
    let s2 := s1.setCoreOf victim { s1.coreOf victim with queue := q.filter (fun t => !take.contains t) }
    let s3 := s2.setCoreOf thief { s2.coreOf thief with queue := take }
    .next (take.foldl (fun s t => s.setTeamOf t { s.teamOf t with core := thief }) s3)

/-! ### The carve-out (R270) -/

/-- The entries of core `c` whose frames become L1 under size code `n`. -/
def State.changing (s : State) (c n : Nat) : List Ltt := (s.coreOf c).ltt.filter (fun e => decide (e.frame < l1Frames n))

/-- The split of core `c` changes: the pages whose frames become L1 are paged out, every copy is dropped, and the teams that are held
may go on (R270). -/
def State.applySplit (s : State) (c n : Nat) : State :=
  let s1 := (s.changing c n).foldl (fun s e => s.evict c e) s
  let k := s1.coreOf c
  s1.setCoreOf c { k with l1 := n, l1next := k.l1next.drop 1, copies := [] }

/-- CARVE_OUT_CHANGE: each resident team is held at its next boundary; once all are, and no frame that changes sides is pinned by an engine
or by a write that is on its way to it, the split changes (R268, R270). -/
def execCarveOutChange (c : Nat) (s : State) : Out :=
  match (s.coreOf c).l1next with
  | [] => .next s
  | n :: _ =>
    let s1 := s.sweepShadows c
    if !s.dieLive (dieOf c) then .next s
    else if (s1.residents c).all (fun t => (s1.teamOf t).atB) && (s1.changing c n).all (fun e => !s1.pinned e.team e.vpage && !s1.targeted e.team e.vpage) then
      .next (s1.applySplit c n)
    else .next s

/-- CARVE_OUT_TIMEOUT: teams that have not reached a boundary after 100 µs are saved (R270, R327). -/
def execCarveOutTimeout (c : Nat) (s : State) : Out :=
  if (s.coreOf c).l1next.isEmpty then .next s
  else .next (((s.residents c).filter (fun t => !(s.teamOf t).atB)).foldl (fun s t => s.preempt t 2) s)

/-! ### Cores leaving service (R340, R394) -/

/-- The queued teams of a cluster go to a rectangle of open cores, if there is one. -/
def State.requeueCluster (s : State) (cl : List Nat) (w h : Nat) : State :=
  match s.chooseRect w h with
  | none => s
  | some o =>
    (cl.filter (fun t => (s.teamOf t).status == .queued)).foldl (fun s t =>
      let x := s.teamOf t
      let c := o + 12 * x.py + x.px
      let k := s.coreOf x.core
      let s1 := (s.setCoreOf x.core { k with queue := k.queue.filter (fun u => u != t) }).coreUp c
      let k1 := s1.coreOf c
      (s1.setCoreOf c { k1 with queue := k1.queue ++ [t] }).setTeamOf t { x with core := c }) s

/-- Teams queued on cores that are not open move with their clusters, which leave their cores whole (R327, R340). -/
def State.moveQueued (s : State) : State :=
  let lost := s.teamKeys.filter (fun t => (s.teamOf t).status == .queued && (s.teamOf t).handles.isNone && !s.coreOpen (s.teamOf t).core)
  lost.foldl (fun s t =>
    let x := s.teamOf t
    if s.coreOpen x.core then s
    else
      let cl := s.clusterOf t
      (cl.foldl (fun s u => s.preemptOne u 2) s).requeueCluster cl x.w x.h) s

/-- CORE_RETIRE: the core's teams are saved and go elsewhere (R340). -/
def execCoreRetire (c : Nat) (s : State) : Out :=
  if s.inService c then .next s
  else .next (((s.residents c).foldl (fun s t => s.preempt t 2) s).moveQueued)

/-- CORE_RETURN: the core takes teams again (R340). -/
def execCoreReturn (c : Nat) (s : State) : Out :=
  if s.inService c && decide (c < 288) then .next (s.coreUp c) else .next s

end Sys2Proof.Machine
end

