-- ==== Sys2Proof/Machine/Power.lean ====
section
/-!
DEFINITION. Cocooning (R339), gated dies and power states (R249, R393, R394), BAR0 (R388 to R390), module reset (R398),
the side-band port, attestation, firmware and debug (R395 to R401).
-/

namespace Sys2Proof.Machine

open Sys2Proof

/-! ### Cocooning (R339) -/

/-- The 36 cores of a partition. -/
def partCores (p : Nat) : List Nat := (List.range 36).map (fun i => 144 * (p / 4) + 36 * (p % 4) + i)

/-- Where a cocooned core's state is kept: under this key, out of the way of the cores themselves. -/
def cocoonKey (c : Nat) : Nat := 512 + c

/-- The first out move that is waiting for the die of a partition: outs are carried out in order, and an in passes one that waits for
it (R339). -/
def State.nextOut (s : State) (p : Nat) : Option (Nat × Bool) := s.dev.moves.find? (fun m => m.1 / 4 == p / 4 && !m.2)

/-- An in move of a partition has been asked for, and no earlier out of the same partition is to come first. -/
def State.inAsked (s : State) (p : Nat) : Bool :=
  s.dev.moves.contains (p, true) && ((s.dieAt (p / 4)).cocoon == some p || s.dev.moves.find? (fun m => m.1 == p) == some (p, true))

/-- A move is over. -/
def State.dropMove (s : State) (m : Nat × Bool) : State :=
  { s with dev := { s.dev with moves := s.dev.moves.erase m } }

/-- The lines that a team's cocooning adds to its view overflow area: unpublished ones and stable copies (R339). -/
def State.cocoonLines (s : State) (t : Nat) : List Nat :=
  let x := s.teamOf t
  (distinct (x.unpubLines ++ ((s.coreOf x.core).copies.filter (fun k => k.stable.contains t)).map (·.line))).filter
    (fun l => !x.ovf.contains l)

/-- A team halts where it stands, and its lines go to its view overflow area; its tiles go to its record (R217, R339). -/
def State.cocoonTeam (s : State) (t : Nat) : State :=
  let x := s.teamOf t
  let c := s.coreOf x.core
  let mine := c.copies.filter (fun k => k.stable.contains t)
  let x1 := { x with
    status := .cocooned, kept := mine, ovf := x.ovf ++ s.cocoonLines t
    array := if c.holder = some t then some (c.tiles, c.table) else x.array }
  let s1 := (s.setTeamOf t x1).setCoreOf x.core { c with holder := if c.holder = some t then none else c.holder }
  s1.writeRecord t false false

/-- A core's frames, table and CT go to the cocoon region, and the core is free. -/
def State.cocoonCore (s : State) (c : Nat) : State :=
  let k := s.coreOf c
  (s.setCoreOf (cocoonKey c) { k with copies := [], queue := [] }).setCoreOf c { k with copies := [], ltt := [], holder := none }

/-- COCOON_OUT: a team whose view overflow area would fill takes a forced point first; siblings of its cluster outside the partition
are saved (R230, R327, R339). The cores adjust before their state goes out (R246). -/
def execCocoonOut (p : Fin 8) (s : State) : Out :=
  let d := s.dieAt (p.val / 4)
  let m := (p.val, false)
  if s.nextOut p.val ≠ some m then .next s
  else if d.gated || !d.alive || d.fenced then .next (s.dropMove m)
  else if d.cocoon.isSome then .next s
  else
    let s := (partCores p.val).foldl State.adjust s
    let ts := (partCores p.val).flatMap s.residents
    let full := ts.filter (fun t => decide (4096 < (s.teamOf t).ovf.length + (s.cocoonLines t).length))
    if ts.any (fun t => (s.teamOf t).trap.isSome || (s.teamOf t).forced) then .next s
    else if !full.isEmpty then .next (full.foldl (fun s t => s.setTeamOf t { s.teamOf t with forced := true }) s)
    else
      let out := (distinct (ts.flatMap s.clusterOf)).filter (fun u => !ts.contains u)
      let s1 := ts.foldl State.cocoonTeam (out.foldl (fun s u => s.preemptOne u 2) s)
      let s2 := ((partCores p.val).filter (fun c => (Tab.find? s1.cores c).isSome)).foldl State.cocoonCore s1
      .next ((s2.setDie (p.val / 4) { d with cocoon := some p.val }).dropMove m)

/-- A core's state comes back; rebases that passed meanwhile have lowered it where it stood (R246, R339). -/
def State.uncocoonCore (s : State) (c : Nat) : State :=
  match Tab.find? s.cores (cocoonKey c) with
  | none => s
  | some k =>
    let now := s.coreOf c
    let back : Core := { k with
      copies := now.copies, queue := now.queue, round := now.round
      l1next := now.l1next, engT := Nat.max k.engT now.engT }
    { s with cores := Tab.del (Tab.set s.cores c back) (cocoonKey c) }

/-- A cocooned team resumes where it halted; the answers that were held for it are delivered (R339). -/
def State.uncocoonTeam (s : State) (t : Nat) : State :=
  let x := s.teamOf t
  let k := s.coreOf x.core
  let k1 := { k with
    copies := x.kept.map (fun j => { j with latest := false, stable := [t] }) ++ k.copies
    holder := if x.array.isSome then some t else k.holder
    tiles := match x.array with
      | some a => a.1
      | none => k.tiles
    table := match x.array with
      | some a => a.2
      | none => k.table }
  let s1 := ((s.setCoreOf x.core k1).setTeamOf t { x with status := .placed, kept := [], array := none }).writeRecord t false false
  s1.releaseAnswers t

/-- COCOON_IN: once the partition's cores are idle, on a die that works (R251, R339). -/
def execCocoonIn (p : Fin 8) (s : State) : Out :=
  let d := s.dieAt (p.val / 4)
  let m := (p.val, true)
  if !s.inAsked p.val then .next s
  else if d.cocoon ≠ some p.val then .next (s.dropMove m)
  else if !s.dieLive (p.val / 4) || (partCores p.val).any (fun c => !(s.residents c).isEmpty) then .next s
  else
    let s1 := (partCores p.val).foldl State.uncocoonCore s
    let ts := s1.teamKeys.filter (fun t => (s1.teamOf t).status == .cocooned && (partCores p.val).contains (s1.teamOf t).core)
    .next (((ts.foldl State.uncocoonTeam s1).setDie (p.val / 4) { d with cocoon := none }).dropMove m)

/-! ### Gated dies (R249, R394) -/

/-- Teams resident on a die. -/
def State.onDie (s : State) (d : Nat) : List Nat :=
  s.teamKeys.filter (fun t => dieOf (s.teamOf t).core == d && (s.teamOf t).status == .placed)

/-- What is left in the frames of a die's cores goes to the backing copies: pages that engine commands of saved teams have pinned, whose
shadows go there too when they are published (R264, R267, R312). -/
def State.pageOutDie (s : State) (d : Nat) : State :=
  ((Tab.keys s.cores).filter (fun c => decide (c < 288) && decide (dieOf c = d))).foldl (fun s c =>
    ((s.coreOf c).ltt.filter (fun e => !e.shd)).foldl (fun s e => s.evict c e) s) s

/-- The mesh of a die loses its copies and CTs (R249). The largest W that a core's copy engine has published stays known (R307, R308). -/
def State.dropMesh (s : State) (d : Nat) : State :=
  { s with cores := s.cores.map (fun (p : Nat × Core) =>
      if dieOf p.1 = d && decide (p.1 < 288) then
        (p.1, { Core.empty with gen := s.genBit, l1 := p.2.l1, queue := p.2.queue, engT := p.2.engT }) else p) }

/-- GATE_DIE: a write of GATE that sets die d's bit, and what it starts: the teams are saved, and once none is left the
mesh is gated (R388, R394). -/
def execGateDie (d : Fin 2) (s : State) : Out :=
  let other := 1 - d.val
  let g := s.dieAt d.val
  if !s.barOpen || s.gateAsked other || g.gated || !g.alive then .next s
  else
    let s1 := { s with dev := { s.dev with gate := s.dev.gate ||| ((1 : DWord) <<< d.val) } }
    if g.cocoon.isSome || s.dev.moves.any (fun m => m.1 / 4 == d.val) then .next s1
    else
      let s2 := ((s1.onDie d.val).foldl (fun s t => s.preempt t 2) s1).moveQueued
      if (s2.onDie d.val).isEmpty then .next (((s2.pageOutDie d.val).dropMesh d.val).setDie d.val { g with gated := true }) else .next s2

/-- UNGATE_DIE: the mesh powers up with CT 0 and no copies (R249, R394). -/
def execUngateDie (d : Fin 2) (s : State) : Out :=
  let s1 := { s with dev := { s.dev with gate := s.dev.gate &&& ~~~((1 : DWord) <<< d.val) } }
  let g := s.dieAt d.val
  if !s.barOpen then .next s
  else if g.gated then .next ((s1.dropMesh d.val).setDie d.val { g with gated := false }) else .next s1

/-! ### Power states (R393) -/

/-- D3HOT_ENTRY: every team is saved, both meshes are gated, and no team issues. A team that stands at a begun boundary, or that a trap
is halting, leaves first: the entry is then under way only, and comes again (DEDUCED, log entry 87). -/
def execD3hotEntry (s : State) : Out :=
  if !s.barOpen then .next s
  else
    let stays (s : State) : List Nat := s.teamKeys.filter (fun t => (s.teamOf t).status == .placed)
    let s1 := (stays s).foldl (fun s t => s.preempt t 2) s
    if !(stays s1).isEmpty then .next s1
    else
      let s2 := (((s1.pageOutDie 0).pageOutDie 1).dropMesh 0).dropMesh 1
      .next { s2 with dev := { s2.dev with d3 := true } }

/-- D0_RETURN: the meshes start with CT 0; saved teams are placed again. -/
def execD0Return (s : State) : Out :=
  if !s.dev.d3 then .next s
  else .next ((({ s with dev := { s.dev with d3 := false } } : State).dropMesh 0).dropMesh 1)

/-- The host's own memory, which the device's resets do not reach (R275). -/
def State.hostMem (s : State) : Memory := s.mem.filter (fun p => isHostPa p.1)

/-- A device without program state; the registers of the control die are at reset, what is non-volatile is kept. -/
def State.cleared (s : State) : State :=
  { State.reset with
    mem := s.hostMem, fresh := s.fresh, nextKey := s.nextKey
    dev := { Dev.reset with devinc := s.dev.devinc, trust := { s.dev.trust with session := false, written := [] }, out := s.dev.out } }

/-- AUXILIARY_POWER_ONLY: all program state and device memory are lost, the links are down. -/
def execAuxiliaryPowerOnly (s : State) : Out :=
  let c := s.cleared
  .next { c with dev := { c.dev with power := false, rdy := false, hostUp := false } }

/-! ### Module reset (R375, R398 to R400) -/

/-- The version in a slot: false is A. -/
def Trust.version (x : Trust) (b : Bool) : Nat := if b then x.verB else x.verA

/-- The image in a slot. -/
def Trust.image (x : Trust) (b : Bool) : Nat := if b then x.imgB else x.imgA

/-- What takes effect at any module reset: the lifecycle and the debug level that were set (R400, R401). -/
def Trust.next (x : Trust) : Trust := { x with session := false, written := [], lc := x.lcNext, dbg := x.dbgNext }

/-- The slot that boots: the active one if its signature and its version pass, else the other; none if both fail. -/
def Trust.boots (x : Trust) (a b : Bool) : Option Bool :=
  let first := if x.pending then !x.active else x.active
  let ok (y : Bool) : Bool := (if y then b else a) && decide (x.rollback ≤ x.version y)
  if ok first then some first else if ok (!first) then some (!first) else none

/-- The device where no image boots: no program state, no link, rdy 0. The firmware, which clears memory and sets the registers, has not
run, so they stand as they stood, but that the entry into RMA zeroes device memory (R398, R400; DEDUCED, log entry 53). -/
def State.unbooted (s : State) : State :=
  let rma := s.dev.trust.lc != s.dev.trust.lcNext
  { State.reset with
    mem := if rma then s.hostMem else s.mem, lines := if rma then [] else s.lines, memPoison := if rma then [] else s.memPoison
    fresh := s.fresh, nextKey := s.nextKey
    dev := { s.dev with
      rdy := false, power := true, d3 := false, hostUp := false, stations := fillv 8 false, links := fillv 3 .down, moves := []
      trust := s.dev.trust.next, out := s.dev.out ++ [.bootFailure] } }

/-- MODULE_RESET: `slotA` and `slotB` say whether each slot's signature is good (R398). -/
def execModuleReset (slotA slotB : Bool) (s : State) : Out :=
  let x := s.dev.trust.next
  match x.boots slotA slotB with
  | none => .next s.unbooted
  | some y =>
    let c := s.cleared
    .next { c with dev := { c.dev with
      devinc := if s.dev.devinc = 65535 then 1 else s.dev.devinc + 1
      trust := { x with active := y, rollback := Nat.max x.rollback (x.version y), pending := false } } }

/-! ### BAR0 (R388, R390) -/

/-- BAR0_REGISTER_WRITE: CTXTAB, EXPBASE and DEVNUM; GATE and DIERST have rows of their own, and any other offset ignores
a write (R388). -/
def execBar0RegisterWrite (off : Nat) (val : DWord) (s : State) : Out :=
  let n := val.toNat
  if !s.barOpen then .next s
  else if off = 0x10 then
    if n % 2 ^ 16 ≠ 0 || 2 ^ 52 ≤ n then .next s else .next { s with dev := { s.dev with ctxtab := val } }
  else if off = 0x18 then
    if bitsOf n 12 1 ≠ 0 || 2 ^ 52 ≤ n then .next s else .next { s with dev := { s.dev with expbase := val } }
  else if off = 0x38 then
    if 2 ^ 19 ≤ n || (List.range 8).any s.stationUp then .next s
    else .next { s with dev := { s.dev with dom := bitsOf n 18 10 } }
  else .next s

/-- BAR0 STATUS (R389). -/
def State.barStatus (s : State) : Nat :=
  let g0 := (s.dieAt 0).gated
  let g1 := (s.dieAt 1).gated
  let b (x : Bool) (i : Nat) : Nat := if x then 2 ^ i else 0
  s.dev.devinc * 2 ^ 48 + (s.dieAt 1).inc * 2 ^ 32 + (s.dieAt 0).inc * 2 ^ 16 + b g1 9 + b (s.dieAt 1).alive 8
    + b (s.dieAt 0).alive 7 + b (g0 || g1) 5 + s.dev.trust.dbg * 2 ^ 3 + s.dev.trust.lc * 2 + b s.dev.rdy 0

/-- What a host read of a BAR0 register returns (R388). -/
def State.barRead (s : State) (off : Nat) : Nat :=
  if off = 0 then 1 + Config.stepping.toNat * 2 ^ 8
  else if off = 8 then s.barStatus
  else if off = 0x10 then s.dev.ctxtab.toNat
  else if off = 0x18 then s.dev.expbase.toNat
  else if off = 0x20 then s.dev.gate.toNat
  else if off = 0x28 then s.dev.crcerr
  else if off = 0x38 then s.dev.dom * 2 ^ 10 + s.dev.mem else 0

/-! ### The side-band port (R395 to R401) -/

/-- Show something to the outside. -/
def State.show (s : State) (o : Output) : State := { s with dev := { s.dev with out := s.dev.out ++ [o] } }

/-- POWER_LIMIT_SET (R395). -/
def execPowerLimitSet (watts : Nat) (s : State) : Out :=
  if 1200 ≤ watts && watts ≤ 3000 then .next { s with dev := { s.dev with watts := watts } } else .next s

/-- PLDM_BASE_DISCOVERY: the PLDM types that are served (R396). -/
def execPldmBaseDiscovery (s : State) : Out := .next (s.show (.discovery [0, 2, 5]))

/-- The state of a link as a number: 0 to 2 the bridge links, 3 to 10 the UALink stations, 11 the host link (R396). -/
def State.linkState (s : State) (n : Nat) : Nat :=
  if n < 3 then (match s.linkAt n with
    | .up => 1
    | .down => 0
    | .asleep => 2
    | .waking => 3
    | .retraining => 4)
  else if n < 11 then (if s.stationUp (n - 3) then 1 else 0)
  else if s.dev.hostUp then 1 else 0

/-- PLDM_MONITORING: a numeric sensor; one of a link reads what the link's state gives (R396). -/
def execPldmMonitoring (id : Nat) (s : State) : Out :=
  match Config.linkSensor id with
  | some l => .next (s.show (.sensor id (Config.linkReading id (s.linkState l))))
  | none => .next { s.show (.sensor id (Config.sensor id s.fresh)) with fresh := s.fresh + 1 }

/-- PLDM_FIRMWARE_UPDATE: an image goes to the inactive slot; a good one becomes active at the next module reset
(R399). -/
def execPldmFirmwareUpdate (version : Nat) (valid : Bool) (s : State) : Out :=
  let x := s.dev.trust
  let img := s.fresh + 2
  let y := if x.active then { x with verA := version, imgA := img } else { x with verB := version, imgB := img }
  .next { s with
    fresh := s.fresh + 1
    dev := { s.dev with trust := { y with pending := valid && decide (x.rollback ≤ version) } } }

/-- GET_MEASUREMENTS: the four blocks, with the identity chain of the lifecycle (R397, R400, R401). -/
def execGetMeasurements (s : State) : Out :=
  let x := s.dev.trust
  let img := x.image x.active
  .next (s.show (.measurements [Config.romDigest, Config.imageDigest img, Config.configDigest img, Config.levelDigest x.lc x.dbg]
    (Config.identityChain x.lc)))

/-- SPDM_SECURED_SESSION (R397). -/
def execSpdmSecuredSession (s : State) : Out := .next { s with dev := { s.dev with trust := { s.dev.trust with session := true } } }

/-- RMA_ENTRY_REQUEST: takes effect at the next module reset (R400). -/
def execRmaEntryRequest (auth : Bool) (s : State) : Out :=
  if auth then .next { s with dev := { s.dev with trust := { s.dev.trust with lcNext := 1 } } } else .next s

/-- DEBUG_LEVEL_REQUEST: a request without authorisation locks; the level takes effect at the next module reset (R401). -/
def execDebugLevelRequest (level : Fin 3) (auth : Bool) (s : State) : Out :=
  .next { s with dev := { s.dev with trust := { s.dev.trust with dbgNext := if auth then level.val else 0 } } }

/-- How far debug access reaches: 0 nothing, 1 contexts with sup = 0, 2 everything that its power state lets it reach (R401). -/
def State.debugReach (s : State) : Nat :=
  let x := s.dev.trust
  if !x.session || x.dbg = 0 then 0 else if x.dbg = 2 || x.lc = 1 then 2 else 1

/-- A context whose descriptor says sup = 0. -/
def State.plainContext (s : State) (asid : Nat) : Bool := !s.contextLost asid && !bitOf (s.quadAt (s.dev.ctxtab.toNat + 64 * asid)) 1

/-- A range lies in the saved record of a team of the context. -/
def State.inRecord (s : State) (asid va n : Nat) : Bool :=
  s.teams.any (fun p => p.2.asid == asid && p.2.recVA != 0 && p.2.status != .placed && decide (p.2.recVA ≤ va)
    && decide (va + n ≤ p.2.recVA + recSize p.2.lswin))

/-- A range lies in the memory that a context reserves for its saved state, as its descriptor says (R319, R320). -/
def State.inReserved (s : State) (asid va n : Nat) : Bool :=
  let q (i : Nat) : Nat := s.quadAt (s.dev.ctxtab.toNat + 64 * asid + 8 * i)
  !s.contextLost asid && bitOf (q 0) 0 && decide (q 2 ≤ va) && decide (va + n ≤ q 2 + q 3)

/-- A team of a context is on a core. -/
def State.contextRuns (s : State) (asid : Nat) : Bool := s.teams.any (fun p => p.2.asid == asid && p.2.status == .placed)

/-- Debug access may read or write a range of a context: under full reach all of it, in D3hot what has been saved; else of a context with
sup = 0, and there, while a die is gated, of one that runs on the other die, or in a saved record (R401). It finds its way by the
context's descriptor, which must be readable. -/
def State.debugMay (s : State) (asid va n : Nat) : Bool :=
  let gated := (s.dieAt 0).gated || (s.dieAt 1).gated
  s.dev.power && !s.contextLost asid && (match s.debugReach with
    | 0 => false
    | 1 => s.plainContext asid && (if s.dev.d3 then s.inRecord asid va n
        else !gated || s.contextRuns asid || s.inRecord asid va n)
    | _ => !s.dev.d3 || s.inReserved asid va n)

/-- What a write of debug access takes first: granules that the host holds of its bytes and of the tables that map them (R257, R277). -/
def State.debugHeld (s : State) (asid va n : Nat) : List Nat :=
  let l1 := s.asidL1 asid
  distinct ((distinct ((addrRange va n).map (fun a => a / 64 * 64))).flatMap (fun a => s.tableHeld l1 a ++ (match s.walk l1 a with
    | some l => if l.attr = .hosted then s.hostGranules (l.phys a) 64 [1, 2] else []
    | none => [])))

/-- The teams of a node that debug access halts: under full reach handler teams, which are supervisors, as well (R401). -/
def State.haltTeams (s : State) (asid node : Nat) (full : Bool) : List Nat :=
  s.teamKeys.filter (fun t =>
    let x := s.teamOf t
    x.asid == asid && x.node == node && x.status == .placed && (full || !x.sup))

/-- DEBUG_ACCESS: teams are halted by a save; context records and memory are read and written, poison shown
beside what is read, firmware memory under full reach, where what is not written since it was loaded is a free value, and the
logs of the root of trust under full reach when only auxiliary power is left (R401). A write that the host's copies are in the way of
asks for them, and comes again (R257). -/
def execDebugAccess (acc : DebugOp) (s : State) : Out :=
  let full := s.debugReach == 2
  match acc with
  | .halt asid node =>
    if s.debugReach = 0 || s.dev.d3 || !s.dev.power || (s.debugReach = 1 && !s.plainContext asid) then .next s
    else .next ((s.haltTeams asid node (s.debugReach = 2)).foldl (fun s t => s.preemptOne t 2) s)
  | .read asid va n =>
    if s.debugMay asid va n then .next (s.show (.debugData (s.readVaN (s.asidL1 asid) va n) (s.badVa (s.asidL1 asid) va n))) else .next s
  | .write asid va bs =>
    let held := s.debugHeld asid va bs.length
    if !s.debugMay asid va bs.length then .next s
    else if !held.isEmpty then .next (s.snoop held true)
    else .next (s.publishJ (s.asidL1 asid) none (bytesAt va bs)).1
  | .firmwareRead a n =>
    if full && s.dev.power then
      .next { s.show (.debugData ((addrRange a n).map (fun i => Tab.get (Config.firmwareByte s.fresh i) s.dev.trust.written i)) false) with
        fresh := s.fresh + 1 }
    else .next s
  | .firmwareWrite a bs =>
    if full && s.dev.power then
      .next { s with dev := { s.dev with trust := { s.dev.trust with
        written := (bytesAt a bs).foldl (fun t p => Tab.set t p.1 p.2) s.dev.trust.written } } }
    else .next s
  | .logs =>
    if full && !s.dev.power then .next { s.show (.debugData (Config.rootLog s.fresh) false) with fresh := s.fresh + 1 } else .next s

end Sys2Proof.Machine
end

