-- ==== Sys2Proof/Machine/GraphRead.lean ====
section
/-!
DEFINITION. What the graph engine reads: kernel descriptors and carry sets (R28, R35), context descriptors (R319),
submission slots (R348), node records (R351), and the checks that accept or refuse a graph (R349, R362).
-/

namespace Sys2Proof.Machine

open Sys2Proof

/-! ### Blocks (R349) -/

/-- What the graph engine waits for before it reads a block: a page that is to be made resident (R281), or granules that the host holds
exclusively (R257). -/
inductive GraphWait where
  | page (p : Nat)
  | host (gs : List Nat)
  deriving DecidableEq, Repr

/-- What the engine finds of a block. -/
inductive Block where
  | bytes (bs : List Byte)
  | bad
  | waits (w : GraphWait)
  deriving DecidableEq, Repr

/-- The page service has closed a request for a page without residency that the graph engine made for `own`: 1 a launch, 2 a
publication, 3 and up the submission of graph `own - 3` (R349). -/
def State.graphClosed (s : State) (own asid page : Nat) : Bool := s.net.gclosed.contains (own, asid, page, true)

/-- The graph engine asks the page service for a page, and notes what for (R281, R349). -/
def State.askGraph (s : State) (own asid page : Nat) : State :=
  let s1 := s.askPage asid page false
  if s1.net.gclosed.any (fun p => (p.1, p.2.1, p.2.2.1) == (own, asid, page)) then s1
  else { s1 with net := { s1.net with gclosed := s1.net.gclosed ++ [(own, asid, page, false)] } }

/-- The graph engine waits before it reads a block of a context. -/
def State.graphWait (s : State) (own asid : Nat) (w : GraphWait) : State :=
  match w with
  | .page p => s.askGraph own asid p
  | .host gs => s.snoop gs false

/-- The graph engine is done with a submission, a launch or a publication of a context: what it asked for then is forgotten. -/
def State.forgetAsked (s : State) (own asid : Nat) : State :=
  { s with net := { s.net with gclosed := s.net.gclosed.filter (fun p => (p.1, p.2.1) != (own, asid)) } }

/-- The first page of a block that is unreadable to the context or to be waited for; a HOSTED line that the host holds exclusively is
asked for first, and a table that it holds (R257, R277). -/
def State.blockPages (s : State) (own asid l1 : Nat) (sup : Bool) : List Nat → Block
  | [] => .bytes []
  | a :: t => match s.walk l1 a with
    | none => .bad
    | some l =>
      let held := s.tableHeld l1 a ++ (if l.attr = .hosted then s.hostGranules (l.phys a) 128 [2] else [])
      if (l.s && !sup) || l.attr = .remote then .bad
      else if !l.rs then if s.graphClosed own asid (l.page a) then .bad else .waits (.page (l.page a))
      else if s.homeGone (lineOf (l.phys a)) then .bad
      else if !held.isEmpty then .waits (.host (distinct held))
      else if s.poisoned (lineOf (l.phys a)) then .bad
      else s.blockPages own asid l1 sup t

/-- A block of `n` bytes at a virtual address of a context. -/
def State.block (s : State) (own asid l1 : Nat) (sup : Bool) (va n : Nat) : Block :=
  match s.blockPages own asid l1 sup (distinct ((addrRange va n).map lineOf)) with
  | .bytes _ => .bytes (s.readVaN l1 va n)
  | r => r

/-- Quads of a block. -/
def blockQuads (bs : List Byte) : List DWord :=
  (List.range (bs.length / 8)).map (fun i => BitVec.ofNat 64 (natLE ((bs.drop (8 * i)).take 8)))

/-! ### Kernels (R28, R35) -/

/-- The register that a carry byte names (R35); none where it breaks the rule. -/
def carryReg (b : Nat) : Option CarryReg :=
  let n := b % 64
  match b / 64 with
  | 0 => some (.v ⟨n % 128, Nat.mod_lt _ (by decide)⟩)
  | 3 => some (.v ⟨(64 + n) % 128, Nat.mod_lt _ (by decide)⟩)
  | 1 => if n = 63 then none else some (.s ⟨n % 64, Nat.mod_lt _ (by decide)⟩)
  | _ => if 8 ≤ n || n = 0 then none else some (.k ⟨n % 8, Nat.mod_lt _ (by decide)⟩)

/-- The place of a carry byte in the order of R29. -/
def carryRank (b : Nat) : Nat :=
  let k := b / 64
  (if k = 0 then 0 else if k = 3 then 1 else if k = 1 then 2 else 3) * 64 + b % 64

/-- The bytes of a carry set stand in order and none repeats. -/
def carryOrder : List Nat → Bool
  | [] => true
  | [_] => true
  | a :: b :: t => decide (carryRank a < carryRank b) && carryOrder (b :: t)

/-- A carry set from its bytes. -/
def carryOf (bs : List Nat) : Option (List CarryReg) :=
  if carryOrder bs then
    bs.foldr (fun b r => match carryReg b, r with
      | some x, some l => some (x :: l)
      | _, _ => none) (some [])
  else none

/-- What reading a kernel descriptor gives. -/
inductive KernelRead where
  | kernel (k : Kernel)
  | bad
  | waits (w : GraphWait)
  deriving DecidableEq, Repr

/-- Read `n` carry sets from an address on. -/
def State.readCarry (s : State) (own asid l1 : Nat) (sup : Bool) : Nat → Nat → List (List CarryReg) → Sum (List (List CarryReg)) KernelRead
  | 0, _, acc => .inl acc.reverse
  | n + 1, a, acc => match s.block own asid l1 sup a 2 with
    | .bad => .inr .bad
    | .waits p => .inr (.waits p)
    | .bytes c =>
      let k := natLE c
      match s.block own asid l1 sup (a + 2) k with
      | .bad => .inr .bad
      | .waits p => .inr (.waits p)
      | .bytes bs => match carryOf (bs.map (·.toNat)) with
        | none => .inr .bad
        | some x => s.readCarry own asid l1 sup n (a + (2 + k + 3) / 4 * 4) (x :: acc)

/-- The quads of a descriptor break R28's limit on the window, or R35's zero fields. -/
def kernelLoose (q : List DWord) : Bool :=
  let k := bitsOf (pq q 1) 63 32
  bitsOf (pq q 1) 31 24 != 0 || bitsOf (pq q 2) 63 48 != 0 || (k != 0 && (k % 2 != 0 || decide (4096 < k)))

/-- Read and check a kernel descriptor (R28, R35). A node's kernel is refused for its groups, w, h and carry sets (R349); a trap
handler's (`strict`) for whatever breaks R28 or R35 (R319); `own` is what it is read for. Carry sets beyond the 256th, which R29
denies fyasm alone, are read and
checked like the others; no PHASE can name them. -/
def State.readKernel (s : State) (own asid l1 : Nat) (sup strict : Bool) (va : Nat) : KernelRead :=
  if va % 32 ≠ 0 then .bad
  else match s.block own asid l1 sup va 32 with
  | .bad => .bad
  | .waits p => .waits p
  | .bytes bs =>
    let q := blockQuads bs
    let shape := pq q 1
    let groups := bitsOf shape 7 0
    let w := bitsOf shape 15 8
    let h := bitsOf shape 23 16
    if groups = 0 || 16 < groups || w = 0 || h = 0 || 12 < w * h || (strict && kernelLoose q) then .bad
    else match s.readCarry own asid l1 sup (bitsOf (pq q 2) 47 32) (Config.carryBase va + bitsOf (pq q 2) 31 0) [] with
    | .inr r => r
    | .inl sets =>
      .kernel { desc := va, entry := pq q 0, groups := groups, w := w, h := h, lswin := bitsOf shape 63 32, carry := sets
                fore := bitsOf (pq q 3) 31 0, hind := bitsOf (pq q 3) 63 32 }

/-! ### Contexts (R319) -/

/-- The physical address of a context's descriptor. -/
def State.contextAt (s : State) (asid : Nat) : Nat := s.dev.ctxtab.toNat + 64 * asid

/-- A context's descriptor, if it can be read, is valid and its fields are in range. -/
def State.readContext (s : State) (asid : Nat) : Option Context :=
  let a := s.contextAt asid
  let q (i : Nat) : Nat := s.quadAt (a + 8 * i)
  if s.contextLost asid || !bitOf (q 0) 0 || bitsOf (q 0) 3 2 ≠ 0 || bitsOf (q 0) 7 4 = 0 || bitsOf (q 0) 15 8 ≠ 0 || bitsOf (q 0) 31 16 ≠ asid
    || bitsOf (q 0) 63 32 ≠ 0 || q 1 % 0x10000 ≠ 0 || q 2 % 0x200000 ≠ 0 || q 3 % 0x200000 ≠ 0 || q 3 < 0x800000
    || q 5 % 64 ≠ 0 || 2 ^ 16 ≤ q 7 then none
  else some { asid := asid, wt := bitsOf (q 0) 7 4, sup := bitOf (q 0) 1, l1pa := q 1, rbase := q 2, rsize := q 3, hdl := q 4
              crt := q 5, seeds := q 6, nseed := q 7 }

/-- The descriptor of a context stands in memory. -/
def State.contextThere (s : State) (asid : Nat) : Bool := isDevicePa (s.contextAt asid) || isHostPa (s.contextAt asid)

/-! ### Records (R351) -/

/-- A node record with its successor list, its kernel, and the cluster shape that the kernel's descriptor gives, right or wrong, as far
as they could be read. -/
structure NodeRead where
  quads  : List DWord
  succ   : Option (List Nat)
  kernel : Option Kernel
  kshape : Option (Nat × Nat)
  deriving DecidableEq, Repr

/-- Declaration `j` of a record. -/
def declOf (q : List DWord) (j : Nat) : Decl :=
  { base := pq q (8 + 2 * j), mode := bitsOf (pq q (9 + 2 * j)) 39 32, extent := bitsOf (pq q (9 + 2 * j)) 31 0 }

/-- A declaration that is used. -/
def declsOf (q : List DWord) : List Decl := ([0, 1, 2, 3].map (declOf q)).filter (fun d => d.mode != 0)

def recTokens (q : List DWord) : Nat := bitsOf (pq q 0) 31 16
def recStage (q : List DWord) : Nat := bitsOf (pq q 0) 63 40
def recOtok (q : List DWord) : Nat := bitsOf (pq q 7) 47 32

/-- The resolved value of a shape field: the record's, or for 0 the kernel's. -/
def resolved (x k : Nat) : Nat := if x = 0 then k else x

/-- The resolved shape of a record, as far as it is known: w·h ≤ 12 and the teams a multiple of it. A descriptor whose own w or h breaks
R28 counts here as well, and then with the lower reason (R349, R351). -/
def shapeOk (r : NodeRead) : Bool :=
  let q2 := pq r.quads 2
  let w := bitsOf q2 47 40
  let h := bitsOf q2 55 48
  let ok (k : Nat × Nat) : Bool :=
    let wh := resolved w k.1 * resolved h k.2
    decide (wh ≤ 12) && decide (bitsOf q2 31 0 % wh = 0)
  match r.kshape with
  | some k => ok k
  | none => w = 0 || h = 0 || ok (w, h)

/-- The fields of record `i` are legal, its resolved shape included (R351). -/
def recordOk (r : NodeRead) (i : Nat) (det : Bool) : Bool :=
  let q := r.quads
  let q0 := pq q 0
  let q2 := pq q 2
  bitsOf q0 35 32 == 0 && bitsOf q0 15 12 == 0 && (bitOf q0 11 == det)
    && bitsOf q0 7 0 == (if recTokens q = 0 then 1 else 0)
    && pq q 1 % 32 == 0
    && decide (bitsOf q2 55 48 ≤ 12) && decide (bitsOf q2 47 40 ≤ 12) && decide (bitsOf q2 39 32 ≤ 16)
    && decide (1 ≤ bitsOf q2 31 0) && decide (bitsOf q2 31 0 ≤ 16777216)
    && pq q 4 % 4 == 0 && (pq q 4 != 0 || bitsOf (pq q 5) 31 0 == 0) && bitsOf (pq q 5) 63 32 == i && decide (bitsOf (pq q 5) 31 0 ≤ 65535)
    && pq q 6 % 32 == 0 && bitsOf (pq q 7) 63 48 == 0
    && [0, 1, 2, 3].all (fun j =>
        let d := declOf q j
        bitsOf (pq q (9 + 2 * j)) 63 40 == 0 && decide (d.mode ≤ 3)
          && (if d.mode = 0 then d.base == 0 && d.extent == 0 else d.extent != 0))
    && shapeOk r

/-! ### Edges (R349) -/

/-- Successors of a node. -/
def succsOf (rs : List NodeRead) (i : Nat) : List Nat := match rs[i]? with
  | some r => r.succ.getD []
  | none => []

/-- The nodes reached from a frontier in at most `n` further steps, those seen already included. -/
def reachFrom (succ : Nat → List Nat) : Nat → List Nat → List Nat → List Nat
  | 0, seen, _ => seen
  | n + 1, seen, fr =>
    let new := (distinct (fr.flatMap succ)).filter (fun j => !seen.contains j)
    if new.isEmpty then seen else reachFrom succ n (seen ++ new) new

/-- Every proper descendant of a node. -/
def descendants (succ : Nat → List Nat) (n i : Nat) : List Nat := reachFrom succ n [] [i]

/-- Two declarations share a byte and one of them writes. -/
def declsClash (a b : Decl) : Bool :=
  decide (a.base < b.base + b.extent) && decide (b.base < a.base + a.extent) && (decide (2 ≤ a.mode) || decide (2 ≤ b.mode))

/-- The nodes at fault under each reason from 2 to 8 (R349, R362). -/
def faultyNodes (rs : List NodeRead) (det : Bool) (reason : Nat) : List Nat :=
  let n := rs.length
  let all := List.range n
  let q (i : Nat) : List DWord := (rs.getD i { quads := [], succ := none, kernel := none, kshape := none }).quads
  let succ := succsOf rs
  match reason with
  | 2 => all.filter (fun i => match rs[i]? with
    | some r => r.quads.isEmpty || !recordOk r i det
    | none => true)
  | 3 => all.filter (fun i => match rs[i]? with
    | some r => match r.succ with
      | none => true
      | some l => l.any (fun j => decide (n ≤ j))
    | none => true)
  | 4 => all.filter (fun i => (descendants succ n i).contains i)
  | 5 => all.filter (fun i =>
      recTokens (q i) != recOtok (q i) || decide (recOtok (q i) < (all.map (fun j => (succ j).countP (fun k => k == i))).sum))
  | 6 => if !det then [] else all.filter (fun i =>
      (succ i).any (fun j => decide (recStage (q j) < recStage (q i)))
        || all.any (fun j => (succ j).contains i && decide (recStage (q i) < recStage (q j))))
  | 7 => if !det then [] else all.filter (fun i => all.any (fun j =>
      i != j && recStage (q i) == recStage (q j)
        && (declsOf (q i)).any (fun a => (declsOf (q j)).any (declsClash a))
        && !(descendants succ n i).contains j && !(descendants succ n j).contains i))
  | 8 => all.filter (fun i => match rs[i]? with
    | some r => r.kernel.isNone
    | none => true)
  | _ => []

/-- The lowest reason that applies and the lowest node at fault; none when the graph is accepted. -/
def graphFault (rs : List NodeRead) (det : Bool) : Option (Nat × Nat) :=
  [2, 3, 4, 5, 6, 7, 8].findSome? (fun k => match faultyNodes rs det k with
    | [] => none
    | i :: t => some (k, t.foldl Nat.min i))

/-- A slot's fields are legal (R348). -/
def slotOk (p : List DWord) : Bool :=
  bitsOf (pq p 0) 7 0 == 1 && bitsOf (pq p 0) 31 9 == 0 && decide (1 ≤ bitsOf (pq p 0) 63 32)
    && decide (bitsOf (pq p 0) 63 32 ≤ 1048576) && pq p 1 % 128 == 0 && (pq p 2 != 0 || pq p 3 != 0) && pq p 4 % 8 == 0
    && pq p 5 == 0 && pq p 6 == 0 && pq p 7 == 0

/-- The cluster shape in the descriptor at `va`, if it can be read. -/
def State.kernelShape (s : State) (own : Nat) (c : Context) (va : Nat) : Option (Nat × Nat) :=
  match s.block own c.asid c.l1pa c.sup va 32 with
  | .bytes bs => let q := pq (blockQuads bs) 1; some (bitsOf q 15 8, bitsOf q 23 16)
  | _ => none

/-- Read record `i`, its list and its kernel, or what is to be waited for. -/
def State.readNode (s : State) (own : Nat) (c : Context) (ntab i : Nat) : Sum NodeRead GraphWait :=
  match s.block own c.asid c.l1pa c.sup (ntab + 128 * i) 128 with
  | .bad => .inl { quads := [], succ := some [], kernel := some Kernel.empty, kshape := none }
  | .waits p => .inr p
  | .bytes bs =>
    let q := blockQuads bs
    let n := bitsOf (pq q 5) 31 0
    let succ := if n = 0 then .bytes [] else if 65535 < n then .bad else s.block own c.asid c.l1pa c.sup (pq q 4) (4 * n)
    match succ, s.readKernel own c.asid c.l1pa c.sup false (pq q 1) with
    | .waits p, _ => .inr p
    | _, .waits p => .inr p
    | su, k =>
      .inl { quads := q
             succ := match su with
               | .bytes l => some ((List.range n).map (fun j => natLE ((l.drop (4 * j)).take 4)))
               | _ => none
             kernel := match k with
               | .kernel x => some x
               | _ => none
             kshape := s.kernelShape own c (pq q 1) }

/-- Read every node of a graph. -/
def State.readNodes (s : State) (own : Nat) (c : Context) (ntab : Nat) : List Nat → Sum (List NodeRead) GraphWait
  | [] => .inl []
  | i :: t => match s.readNode own c ntab i with
    | .inr p => .inr p
    | .inl r => match s.readNodes own c ntab t with
      | .inr p => .inr p
      | .inl rs => .inl (r :: rs)

/-- The node that the engine keeps of a record (R350, R351). -/
def nodeOf (r : NodeRead) : Node :=
  let q := r.quads
  let k := r.kernel.getD Kernel.empty
  let q2 := pq q 2
  let lsw := bitsOf q2 63 56
  { state := bitsOf (pq q 0) 7 0, tokens := recTokens q, otok := recOtok q, attempts := 0, budget := bitsOf (pq q 0) 39 36
    cgen := bitsOf (pq q 7) 31 0, stage := recStage q, prio := bitsOf (pq q 0) 9 8, idem := bitOf (pq q 0) 10, kernel := k
    lsw := if lsw = 0 then k.lswin else if lsw = 255 then 4096 else 16 * lsw
    w := resolved (bitsOf q2 47 40) k.w, h := resolved (bitsOf q2 55 48) k.h, groups := resolved (bitsOf q2 39 32) k.groups
    teams := bitsOf q2 31 0, params := pq q 3, succ := r.succ.getD [], frec := pq q 6, decls := declsOf q, predW := 0
    byFail := none, quads := q }

end Sys2Proof.Machine
end

