-- ==== Sys2Proof/Machine/Graph.lean ====
section
/-!
DEFINITION. The graph engine: submission (R347 to R350), LAUNCH and NTOK requests and the ready pool (R352, R353),
dispatch (R354, R357), commits (R342), failures, cones and retries (R343 to R346, R359 to R361), deterministic stages
(R363), and the end of a graph (R364, R365).
-/

namespace Sys2Proof.Machine

open Sys2Proof

/-- A node index that names no node. -/
def Node.empty : Node :=
  { state := 0, tokens := 0, otok := 0, attempts := 0, budget := 0, cgen := 0, stage := 0, prio := 0, idem := false
    kernel := Kernel.empty, lsw := 0, w := 1, h := 1, groups := 0, teams := 0, params := 0, succ := [], frec := 0, decls := []
    predW := 0, byFail := none, quads := [] }

/-- A graph index that names no graph. -/
def Graph.empty : Graph :=
  { asid := 0, ctx := Context.empty, det := false, ntab := 0, seed := 0, endva := 0, nodes := [], fails := [], ign := 0, sent := 0, rcvd := 0
    live := false, sub := none }

def State.graphAt (s : State) (gi : Nat) : Graph := s.graphs.getD gi Graph.empty
def Graph.node (g : Graph) (i : Nat) : Node := g.nodes.getD i Node.empty
def State.nodeAt (s : State) (gi i : Nat) : Node := (s.graphAt gi).node i
def State.setGraph (s : State) (gi : Nat) (f : Graph → Graph) : State := { s with graphs := modifyAt s.graphs gi f }
def State.setNode (s : State) (gi i : Nat) (f : Node → Node) : State :=
  s.setGraph gi (fun g => { g with nodes := modifyAt g.nodes i f })

/-- Node states (R351). -/
def nWait : Nat := 0
def nReady : Nat := 1
def nRun : Nat := 2
def nDone : Nat := 3
def nFailed : Nat := 4
def nCancelled : Nat := 5
def nRetrying : Nat := 6

/-! ### Records (R346, R351) -/

/-- What the engine writes of the record of a node at `va`: its state, its tokens, the byte that holds its attempts, and its cancel
generation; a publication is of bytes, so the budget beside the attempts stands in theirs (R351). -/
def Node.fields (n : Node) (va : Nat) : List (Nat × List Byte) :=
  [(va, bytesLE 1 n.state), (va + 2, bytesLE 2 n.tokens), (va + 4, bytesLE 1 (n.budget * 16 + n.attempts)), (va + 0x38, bytesLE 4 n.cgen)]

/-- The address of record `i`. -/
def Graph.recordVa (g : Graph) (i : Nat) : Nat := g.ntab + 128 * i

/-- One publication of the graph engine at J of runs of bytes on one page (R254, R346). What lies on a REMOTE page goes to the device
that has the page. On a page that is still absent, because its request was closed, the publication is lost (DESIGN CHOICE, log
entry 80; unsafe). -/
def State.publishOwn (s : State) (l1 : Nat) (runs : List (Nat × List Byte)) : State :=
  match s.walk l1 (runs.headD (0, [])).1 with
  | none => s
  | some l =>
    if l.attr = .remote then runs.foldl (fun s p => s.sendFar 0 18 l.dev 1 (l.phys p.1) p.1 (.store p.2)) s
    else if !l.rs then s
    else (s.publishJ l1 none (runs.flatMap (fun p => bytesAt p.1 p.2))).1

/-- Publish the fields of a record that the engine writes, as one publication at J (R346). -/
def State.publishNode (s : State) (gi i : Nat) : State :=
  let g := s.graphAt gi
  s.publishOwn g.ctx.l1pa ((g.node i).fields (g.recordVa i))

/-- Change a node and publish its record (R346). -/
def State.changeNode (s : State) (gi i : Nat) (f : Node → Node) : State := (s.setNode gi i f).publishNode gi i

/-- A page that a publication of the engine needs first: made resident (R281), or collapsed (R280). -/
def State.ownPage (s : State) (asid l1 va : Nat) : Option (Nat × Bool) :=
  match s.walk l1 va with
  | none => none
  | some l =>
    if l.attr = .remote then none
    else if !l.rs then if s.graphClosed 2 asid (l.page va) then none else some (l.page va, false)
    else if l.rd then some (l.page va, true) else none

/-- What publications of the engine at some addresses wait for: granules of them, or of the tables that map them, that the host holds
(R257, R277), else a page. None where they can be made at once. -/
def State.ownWaits (s : State) (asid l1 : Nat) (vas : List Nat) (more : List Nat) : Option State :=
  let vas := vas.filter (fun a => a != 0)
  match distinct (more ++ vas.flatMap (fun a => s.tableHeld l1 a ++ s.headerHeld l1 (a / 64 * 64))), vas.findSome? (s.ownPage asid l1) with
  | g :: gs, _ => some (s.snoop (g :: gs) true)
  | [], some (p, true) => some (s.askPage asid p true)
  | [], some (p, false) => some (s.askGraph 2 asid p)
  | [], none => none

/-- The addresses that the engine publishes at for a graph: its records, fault records and end word. -/
def Graph.vas (g : Graph) : List Nat :=
  g.endva :: (List.range g.nodes.length).flatMap (fun i => [g.recordVa i, (g.node i).frec])

/-- The engine has made a graph's publications: a page whose request was closed is asked for again next time (R349). -/
def State.ownDone (s : State) (gi : Nat) : State := s.forgetAsked 2 (s.graphAt gi).asid

/-- What a record change of a graph waits for, `more` granules of the host besides. -/
def State.graphWaits (s : State) (gi : Nat) (more : List Nat) : Option State :=
  let g := s.graphAt gi
  s.ownWaits g.asid g.ctx.l1pa g.vas more

/-! ### The ready pool (R352, R353, R363) -/

/-- Every node of every stage below that of node `i` is DONE, or the graph is not det (R363). -/
def Graph.stageOpen (g : Graph) (i : Nat) : Bool :=
  !g.det || g.nodes.all (fun n => decide ((g.node i).stage ≤ n.stage) || n.state == nDone)

/-- A READY node joins the others, behind those that became READY before it (R353). -/
def State.enterPool (s : State) (gi i : Nat) : State :=
  if s.ready.contains (gi, i) then s else { s with ready := s.ready ++ [(gi, i)] }

/-- The ready pool: the READY nodes whose stages are not held, in the order in which they became READY (R353, R363). -/
def State.pool (s : State) : List (Nat × Nat) := s.ready.filter (fun x => (s.graphAt x.1).stageOpen x.2)

/-- A node becomes READY with token count 0 (R352). -/
def State.fireNode (s : State) (gi i : Nat) : State :=
  (s.changeNode gi i (fun n => { n with tokens := 0, state := nReady })).enterPool gi i

/-- The node that the pool dispatches next: the first of the highest priority (R353). -/
def State.poolPick (s : State) : Option (Nat × Nat) :=
  s.pool.foldl (fun (r : Option (Nat × Nat)) x => match r with
    | none => some x
    | some y => if (s.nodeAt y.1 y.2).prio < (s.nodeAt x.1 x.2).prio then some x else some y) none

/-! ### Submission (R347 to R350) -/

/-- The end word (R365). -/
def endWord (st why ign node : Nat) : Nat := st * 2 ^ 62 + why * 2 ^ 56 + ign * 2 ^ 32 + node

/-- Publish an end word, where one is wanted. -/
def State.publishEnd (s : State) (l1 endva v : Nat) : State := if endva = 0 then s else s.publishOwn l1 [(endva, bytesLE 8 v)]

/-- A graph is refused: it publishes only its end word (R349). -/
def State.refuseGraph (s : State) (gi : Nat) (c : Context) (pkt : List DWord) (why node : Nat) : State :=
  (s.publishEnd c.l1pa (pq pkt 4) (endWord 3 why 0 node)).setGraph gi (fun g => { g with live := false, sub := none })

/-- The graph of a slot with its records read. -/
def graphOf (c : Context) (pkt : List DWord) (rs : List NodeRead) : Graph :=
  { asid := c.asid, ctx := c, det := bitOf (pq pkt 0) 8, ntab := pq pkt 1
    seed := BitVec.ofNat 128 (pq pkt 2 + pq pkt 3 * 2 ^ 64), endva := pq pkt 4, nodes := rs.map nodeOf, fails := [], ign := 0, sent := 0
    rcvd := 0, live := true, sub := none }

/-- The graph of a slot that has been taken and whose records are still to be read. -/
def graphTaken (c : Context) (pkt : List DWord) : Graph := { graphOf c pkt [] with sub := some pkt }

/-- An accepted graph becomes active: its READY nodes enter the pool in index order (R352). -/
def State.acceptGraph (s : State) (gi : Nat) (g : Graph) : State :=
  ((List.range g.nodes.length).filter (fun i => (g.node i).state == nReady)).foldl (fun s' i => s'.enterPool gi i)
    (s.setGraph gi (fun _ => g))

/-- The reading of a graph whose slot has been taken goes on: it waits for a page or for what the host holds, or the graph is accepted
or refused, a refused one once its end word can be published (R349). -/
def State.readGraph (s : State) (gi : Nat) (pkt : List DWord) : State :=
  let c := (s.graphAt gi).ctx
  let own := 3 + gi
  let done (s : State) : State := (s.forgetAsked own c.asid).forgetAsked 2 c.asid
  let refuse (why node : Nat) : State := (s.ownWaits c.asid c.l1pa [pq pkt 4] []).getD (done (s.refuseGraph gi c pkt why node))
  if !slotOk pkt then refuse 1 0xFFFFFFFF
  else match s.readNodes own c (pq pkt 1) (List.range (bitsOf (pq pkt 0) 63 32)) with
  | .inr w => s.graphWait own c.asid w
  | .inl rs => match graphFault rs (bitOf (pq pkt 0) 8) with
    | some (why, node) => refuse why node
    | none => done (s.acceptGraph gi (graphOf c pkt rs))

/-- The graphs of a context whose records are still being read, with their packets, in the order of their slots. -/
def State.submitting (s : State) (asid : Nat) : List (Nat × List DWord) :=
  (List.range s.graphs.length).filterMap (fun gi =>
    if (s.graphAt gi).asid = asid then (s.graphAt gi).sub.map (fun p => (gi, p)) else none)

/-- GRAPH_SUBMIT: the reading of the first graph of a context that need not wait goes on; if there is none, the engine takes the next
filled slot of the context's graph submission ring and with it the graph (R315, R347, R349). A slot waits while 1,024 graphs are
active, those included that are being read (DEDUCED, log entry 57). -/
def execGraphSubmit (asid : Nat) (s : State) : Out :=
  if !s.contextThere asid then .fault .noPhysicalMemory
  else match (s.submitting asid).findSome? (fun p => let s1 := s.readGraph p.1 p.2; if s1 = s then none else some s1) with
  | some s1 => .next s1
  | none => match s.readContext asid with
    | none => .next s
    | some c =>
      if !(s.pollHeld asid c.crt).isEmpty then .next (s.snoop (distinct (s.pollHeld asid c.crt)) false)
      else match s.nextSlot asid c.crt with
      | none => .next s
      | some (slot, ridx, pkt) =>
        if 1024 ≤ (s.graphs.filter (·.live)).length then .next s
        else
          let s1 := (s.takeSlot asid c.crt slot ridx).forgetAsked 2 asid
          .next ((s.ownWaits asid c.l1pa [c.crt, slot] []).getD { s1 with graphs := s1.graphs ++ [graphTaken c pkt] })

/-! ### LAUNCH and NTOK (R352) -/

/-- The active graph of an ASID whose records hold an address, and the record. -/
def State.recordAt (s : State) (asid va : Nat) : Option (Nat × Nat) :=
  match (List.range s.graphs.length).find? (fun gi =>
    let g := s.graphAt gi
    g.live && g.asid == asid && decide (g.ntab ≤ va) && decide (va < g.ntab + 128 * g.nodes.length)) with
  | none => none
  | some gi => some (gi, (va - (s.graphAt gi).ntab) / 128)

/-- A request is ignored; the count saturates (R352, R365). -/
def State.ignoreRequest (s : State) (gi : Nat) : State :=
  s.setGraph gi (fun g => { g with ign := Nat.min (g.ign + 1) (2 ^ 24 - 1) })

/-- Request `n` reaches the engine, which counts it for the graph that sent it (R364). -/
def State.takeGraphRq (s : State) (n sender : Nat) : State :=
  ({ s with net := { s.net with graphRq := s.net.graphRq.eraseIdx n } }).setGraph sender (fun g => { g with rcvd := g.rcvd + 1 })

/-- LAUNCH_REQUEST: a LAUNCH fires a node in WAIT (R352). -/
def execLaunchRequest (n : Nat) (s : State) : Out :=
  match s.net.graphRq[n]? with
  | some (true, asid, va, sender) =>
    match s.recordAt asid va with
    | none => .next (s.takeGraphRq n sender)
    | some (gi, i) =>
      if (s.nodeAt gi i).state ≠ nWait then .next ((s.takeGraphRq n sender).ignoreRequest gi)
      else .next ((s.graphWaits gi []).getD (((s.takeGraphRq n sender).fireNode gi i).ownDone gi))
  | _ => .next s

/-- A token of a node is taken: its count falls, and a node in WAIT whose count reaches 0 fires (R342, R346, R352). -/
def State.takeToken (s : State) (gi i : Nat) : State :=
  let n := s.nodeAt gi i
  if n.tokens = 0 then s
  else if n.tokens = 1 && n.state = nWait then s.fireNode gi i
  else s.changeNode gi i (fun n => { n with tokens := n.tokens - 1 })

/-- NTOK_REQUEST: an NTOK lowers a token count (R352). -/
def execNtokRequest (n : Nat) (s : State) : Out :=
  match s.net.graphRq[n]? with
  | some (false, asid, va, sender) =>
    match s.recordAt asid va with
    | none => .next (s.takeGraphRq n sender)
    | some (gi, i) =>
      if (s.nodeAt gi i).tokens = 0 then .next ((s.takeGraphRq n sender).ignoreRequest gi)
      else .next ((s.graphWaits gi []).getD (((s.takeGraphRq n sender).takeToken gi i).ownDone gi))
  | _ => .next s

/-! ### Dispatch (R354, R357, R319) -/

/-- Where the clusters of a grid go: the cores given for them, else the first rectangle that fits; none where no
rectangle is open. -/
def State.places (s : State) (w h : Nat) (place : List Nat) : Nat → Option (List Nat)
  | 0 => some []
  | n + 1 =>
    let o := match place.head? with
      | some o => if s.rectOk o w h then some o else s.chooseRect w h
      | none => s.chooseRect w h
    match o, s.places w h (place.drop 1) n with
    | some o, some l => some (o :: l)
    | _, _ => none

/-- What the launch of a grid reads: the context and the handler's kernel (R319). -/
inductive LaunchRead where
  | ok (c : Context) (hk : Option Kernel)
  /-- the node fails with cause node abort -/
  | bad
  | waits (w : GraphWait)
  deriving DecidableEq, Repr

/-- Read the context descriptor, whose completion-ring table lies on a HOSTED page, and the handler's kernel descriptor (R319). -/
def State.readLaunch (s : State) (asid : Nat) : LaunchRead :=
  match s.readContext asid with
  | none => .bad
  | some c =>
    if (s.walk c.l1pa c.crt).map (·.attr) ≠ some .hosted then .bad
    else if c.hdl = 0 then .ok c none
    else match s.readKernel 1 c.asid c.l1pa c.sup true c.hdl with
    | .kernel k => .ok c (some k)
    | .waits p => .waits p
    | .bad => .bad

/-- The grid of one attempt of node `i` of graph `gi` (R341, R354, R357). -/
def gridFor (g : Graph) (gi i : Nat) (n : Node) (c : Context) (hk : Option Kernel) (spill : Nat) : Grid :=
  { Grid.empty with
    gi := gi, node := i, ctx := c, kernel := n.kernel, hkernel := hk, teams := n.teams, w := n.w, h := n.h, groups := n.groups
    lswin := n.lsw, params := n.params, attempt := n.attempts, idem := n.idem, det := g.det
    seed := gfJump g.seed (2 ^ 96 * i), decls := n.decls, spill := spill, predW := n.predW }

/-- The team of rank `r` in cluster `cl` whose first core is `o` (R354). -/
def teamFor (gr key : Nat) (g : Grid) (r cl o : Nat) : Team :=
  let p := r % (g.w * g.h)
  let px := p % g.w
  let py := p / g.w
  { Team.empty with
    grid := gr, asid := g.ctx.asid, rank := r, core := o + 12 * py + px, cluster := cl, px := px, py := py, w := g.w, h := g.h
    ngrp := g.groups, lswin := g.lswin, param := g.params, node := g.node, attempt := g.attempt, sup := g.ctx.sup
    kernel := g.kernel, ctx := g.ctx, status := .queued, placedAt := key }

/-- Append a team to the run queue of its core (R354). -/
def State.queueTeam (s : State) (key : Nat) (x : Team) : State :=
  let s1 := (s.setTeamOf key x).coreUp x.core
  let k := s1.coreOf x.core
  s1.setCoreOf x.core { k with queue := k.queue ++ [key] }

/-- Split a grid into clusters and queue their teams in ascending rank; team and cluster numbers rise from `key` (R354). -/
def State.queueGrid (s : State) (gr : Nat) (g : Grid) (os : List Nat) (key : Nat) : State :=
  let m := g.w * g.h
  (List.range g.teams).foldl (fun (s : State) r =>
    s.queueTeam (key + r) (teamFor gr (key + r) g r (key + r / m * m) (os.getD (r / m) 0))) s

/-- NODE_DISPATCH: the pool's next node becomes RUN and its grid is queued on cores (R354). A node whose context cannot be
used fails without a grid on any core (R319). -/
def execNodeDispatch (gi node : Nat) (place : List Nat) (s : State) : Out :=
  if s.poolPick ≠ some (gi, node) then .next s
  else
    let g := s.graphAt gi
    let n := g.node node
    if !s.contextThere g.asid then .fault .noPhysicalMemory
    else match s.graphWaits gi [] with
    | some s1 => .next s1
    | none =>
      let gr := s.nextKey
      let start (s : State) : State :=
        ({ (s.forgetAsked 1 g.asid).ownDone gi with
            ready := s.ready.filter (fun x => x != (gi, node)), nextKey := gr + 1 + n.teams }).changeNode gi node
          (fun n => { n with state := nRun })
      match s.readLaunch g.asid with
      | .waits w => .next (s.graphWait 1 g.asid w)
      | .bad =>
        let x := { gridFor g gi node n g.ctx none 0 with teams := 0, failing := some (2, trapAbort, 0, 0, 0xFFFFFFFF) }
        .next ((start s).setGridOf gr x)
      | .ok c hk => match s.places n.w n.h place (n.teams / (n.w * n.h)), s.allocate c 0x200000 with
        | some os, some spill =>
          let x := gridFor g gi node n c hk spill
          .next (((start s).setGridOf gr x).queueGrid gr x os (gr + 1))
        | _, _ => .next s

/-! ### Stopping a grid (R312, R343, R344) -/

/-- Teams of a grid, its handlers included. -/
def State.gridTeams (s : State) (gr : Nat) : List Nat := s.teamKeys.filter (fun t => (s.teamOf t).grid == gr)

/-- A team is stopped where it stands; its unpublished bytes, pages, tiles and record are gone. -/
def State.stopTeam (s : State) (t : Nat) : State :=
  let x := s.teamOf t
  let c := s.coreOf x.core
  let s1 := if (Tab.find? s.cores x.core).isNone then s else s.setCoreOf x.core { c with
    copies := clearStable t (fun _ => true) c.copies, queue := c.queue.filter (fun u => u != t)
    ltt := c.ltt.filter (fun e => e.team != t), holder := if c.holder = some t then none else c.holder }
  let s2 := s1.mapAgents t (fun g => { g with status := .ended, active := 0, outs := [], tickets := [], stores := [], fpw := none
                                              seqSt := 0 })
  s2.setTeamOf t { x with
    status := .ended, unpub := [], pubs := [], pubTrap := none, remTrap := [], ls := [], lsBad := [], kept := [], array := none
    restart := none, hb := fillv 8 0, hbHeld := [], hbq := [], recVA := 0, request := none, awaits := [], trap := none
    begun := none, ovf := [], forced := false }

/-- What stopped teams still have in flight: bytes outside their declarations stay, and no agent awaits a reply. -/
def State.abandonGrid (s : State) (gr : Nat) : State :=
  let g := s.gridOf gr
  let ts := s.gridTeams gr
  let keep (r : Req) : Option Req :=
    if !ts.contains r.team then some r
    else match r.kind with
    | .publish bs =>
      let bs := bs.filter (fun b => !g.declares (r.va + b.1))
      if bs.isEmpty then none else some { r with agent := 18, kind := .publish bs }
    | .atomic _ _ _ _ _ => if g.declares r.va then none else some { r with agent := 18 }
    | .ustore _ _ => if g.declares r.va then none else some { r with agent := 18 }
    | _ => none
  { s with net := { s.net with
      reqs := s.net.reqs.filterMap keep
      reps := s.net.reps.filter (fun r => !ts.contains r.team)
      remote := s.net.remote.map (fun r => if ts.contains r.team && decide (r.agent < 18) then { r with agent := 18 } else r) } }

/-- An engine command of a stopped grid ends with status 0x0A: a deferred shadow is discarded, here and where a peer holds it, and the
partners of a collective learn of it; the signal of a PUTS whose node has committed is still performed (R301, R303, R312, R344, R384). -/
def State.stopCommand (s : State) (c : Cmd) : State :=
  if c.signalOnly then s
  else
  let s1 := s.discardHeld c
  let c1 := { c.finish 0x0A 0 c.written with sd := none, ref := 0, await := [] }
  if c.stage = .deferred || c.ref = c.id then s1.dropCmd c.id
  else if c.kind = 7 && c.stage = .shadow then (s1.setCmd c1.logDue).tellPartners c 0x0A
  else s1.setCmd c1

/-- Every engine command of a grid ends, one included whose ticket has not been written yet; tickets go with their teams (R344). -/
def State.stopCommands (s : State) (gr : Nat) : State :=
  let ts := s.gridTeams gr
  (s.net.cmds.filter (fun c => !c.queued && ts.contains c.team)).foldl State.stopCommand s

/-- Stop a grid: its teams, commands, held updates and claims, and its shadows (R343, R344). -/
def State.stopGrid (s : State) (gr : Nat) : State :=
  let ts := s.gridTeams gr
  let s1 := ts.foldl State.stopTeam ((s.stopCommands gr).abandonGrid gr)
  { s1 with
    lines := s1.lines.map (fun (p : Nat × HLine) => (p.1, { p.2 with held := p.2.held.filter (fun d => d.grid != gr) }))
    cores := s1.cores.map (fun (p : Nat × Core) => (p.1, { p.2 with copies := p.2.copies.filter (fun k => k.tag != some gr) }))
    grids := Tab.del s1.grids gr }

/-! ### Commit (R303, R342) -/

/-- The REMOTE part of a deferred shadow, and its part on this device, without windows, whose team has ended. -/
def State.deferredParts (s : State) (c : Cmd) : List (Nat × Nat × Byte) × List (Nat × Nat × Byte) :=
  s.splitRemote { c with shadow := c.shadow.filter (fun x => x.1 == 0) }

/-- What a deferred shadow needs before the commit can publish it, if it needs something: its pages, and the peers of a REMOTE part that
are to hold it; one that can no longer be published is discarded (R281, R303, R311, R366). -/
def State.deferredWaits (s : State) (c : Cmd) : Option State :=
  let parts := s.deferredParts c
  match s.destChk c (parts.1 ++ parts.2) with
  | .fail st f => some (s.endCmd c st f)
  | .page va rd => some (s.stopCmd c (.page va rd))
  | .ok =>
    if parts.1.isEmpty || (c.first = 2 && c.await.isEmpty) then none
    else if c.first = 2 then some s else some (s.sendShadow c parts.1)

/-- Publish a deferred shadow at the commit; the peers that hold its REMOTE part are told to merge it, and a PUTS then performs its signal
(R301, R303). The time of a core copy
engine's shadow is its engine's, as at any of its publications, and not J, which R307 gives to the commit publications of the graph
engine itself (DESIGN CHOICE, log entry 85). -/
def State.publishDeferred (s : State) (c : Cmd) : State :=
  let parts := s.deferredParts c
  let r := s.publishShadow c parts.2
  let c1 := { c with stage := .published, shadow := parts.1, status := 0, w := r.2 }
  let s1 := if parts.1.isEmpty then r.1.setCmd c1 else r.1.sendMerge c1 parts.1
  if c.kind = 5 then s1 else s1.dropCmd c.id

/-- Deferred commands of a grid, in their order of issue. -/
def State.deferredOf (s : State) (gr : Nat) : List Cmd :=
  s.net.cmds.filter (fun c => !c.queued && c.stage == .deferred && (s.teamOf c.team).grid == gr)

/-- The bytes that a grid's shadows publish, later ones last. -/
def Grid.shadowBytes (g : Grid) : List (Nat × Byte) :=
  g.shadow.flatMap (fun p => (p.2.written.filter (fun b => g.declares (p.1 + b.1))).reverse.map (fun b => (p.1 + b.1, b.2)))

/-- A time above every time that an attempt used of its shadow lines and their home lines (R341). -/
def State.shadowFloor (s : State) (g : Grid) : Nat :=
  maxOf 0 (g.shadow.map (fun p =>
    let home := match s.walk g.ctx.l1pa p.1 with
      | some l => (s.hline (lineOf (l.phys p.1))).rts
      | none => 0
    Nat.max home (Nat.max p.2.wts p.2.rts) + 1))

/-- Publish a grid's shadows as one engine publication (R342, R307). -/
def State.commitShadows (s : State) (gr : Nat) : State × Nat :=
  let g := s.gridOf gr
  let bs := g.shadowBytes
  State.raiseJ (s.publish g.ctx.l1pa none bs (Nat.max s.dev.j (s.shadowFloor g)) none)

/-- Granules under the bytes of a commit that the host holds (R257). -/
def State.commitHeld (s : State) (gr : Nat) : List Nat :=
  let g := s.gridOf gr
  let l1 := g.ctx.l1pa
  distinct ((distinct (g.shadowBytes.map (fun b => b.1 / 64 * 64))).flatMap (s.headerHeld l1)
    ++ (s.deferredOf gr).flatMap (fun c => s.shadowGranules c c.shadow))

/-- A grid may commit: all its teams have ended, and nothing of it is in flight (R222, R342). -/
def State.mayCommit (s : State) (gr : Nat) : Bool :=
  let g := s.gridOf gr
  decide (0 < g.teams) && g.failing.isNone && (s.gridTeams gr).all (fun t => (s.teamOf t).status == .ended)
    && g.ranks.all g.ended.contains && (s.heldOf gr).isEmpty && g.claims.isEmpty
    && !s.net.reqs.any (fun r => (s.teamOf r.team).grid == gr)
    && !s.net.cmds.any (fun c => !c.queued && c.stage != .deferred && (s.teamOf c.team).grid == gr)

/-- A successor learns the time of a commit and loses a token (R342). -/
def State.tokenTo (s : State) (gi w i : Nat) : State :=
  (s.setNode gi i (fun n => { n with predW := Nat.max n.predW w })).takeToken gi i

/-- NODE_COMMIT (R342): shadows, and deferred shadows in order of issue (R303), are published, the node is DONE, which may open stages
(R363), and its successors lose a token
each, in order. -/
def execNodeCommit (gr : Nat) (s : State) : Out :=
  let g := s.gridOf gr
  if !s.mayCommit gr then .next s
  else match s.graphWaits g.gi (s.commitHeld gr), (s.deferredOf gr).findSome? s.deferredWaits with
  | some s1, _ => .next s1
  | none, some s1 => .next s1
  | none, none =>
    let s1 := (s.deferredOf gr).foldl State.publishDeferred s
    let r := s1.commitShadows gr
    let s2 := r.1.changeNode g.gi g.node (fun n => { n with state := nDone })
    let s3 := (s2.nodeAt g.gi g.node).succ.foldl (fun s i => s.tokenTo g.gi (s.timeSince r.1 r.2) i) s2
    .next ((s3.stopGrid gr).ownDone g.gi)

/-! ### Failure, cancellation and retry (R343 to R346, R359 to R361) -/

/-- The fault record of a failure (R360): `att` are the attempts before it and `cgen` the cancel generation after it. -/
def faultRecord (f : Nat × Nat × Nat × Nat × Nat) (att cgen : Nat) : List Byte :=
  bytesLE 8 (f.2.2.2.2 * 2 ^ 32 + f.1 * 2 ^ 24 + att * 2 ^ 16 + f.2.1) ++ bytesLE 8 f.2.2.1 ++ bytesLE 8 f.2.2.2.1
    ++ bytesLE 8 cgen

/-- Longest-path depths of the nodes reached from a frontier: a node's depth is that of the last frontier it is in. -/
def depthsFrom (succ : Nat → List Nat) : Nat → Nat → List Nat → Tab Nat → Tab Nat
  | 0, _, _, m => m
  | n + 1, d, fr, m =>
    let nx := distinct (fr.flatMap succ)
    if nx.isEmpty then m else depthsFrom succ n (d + 1) nx (nx.foldl (fun m i => Tab.set m i d) m)

/-- Insert (node, depth) in ascending depth, then ascending node. -/
def insertCone (x : Nat × Nat) : List (Nat × Nat) → List (Nat × Nat)
  | [] => [x]
  | y :: t => if x.2 < y.2 || (x.2 == y.2 && x.1 < y.1) then x :: y :: t else y :: insertCone x t

/-- The downstream cone of a node in the order of R344: every transitive successor that is not DONE. -/
def Graph.cone (g : Graph) (i : Nat) : List Nat :=
  let m := depthsFrom (fun j => (g.node j).succ) g.nodes.length 1 [i] []
  ((m.filter (fun p => (g.node p.1).state != nDone)).foldl (fun l p => insertCone p l) []).map (·.1)

/-- The running grid of a node. -/
def State.gridOfNode (s : State) (gi i : Nat) : Option Nat :=
  (List.find? (fun (p : Nat × Grid) => p.2.gi == gi && p.2.node == i) s.grids).map (·.1)

/-- Cancel one member of the cone of node `f` (R344). -/
def State.cancelNode (s : State) (gi f i : Nat) : State :=
  let n := s.nodeAt gi i
  let write (s : State) : State :=
    s.changeNode gi i (fun n => { n with state := nCancelled, cgen := (n.cgen + 1) % 2 ^ 32, byFail := some f })
  if n.state = nWait || n.state = nReady then write { s with ready := s.ready.filter (fun x => x != (gi, i)) }
  else if n.state = nRun then
    write (match s.gridOfNode gi i with
      | some gr => s.stopGrid gr
      | none => s)
  else s

/-- Edges into a node from nodes that are DONE. -/
def Graph.doneInto (g : Graph) (i : Nat) : Nat :=
  ((g.nodes.filter (fun n => n.state == nDone)).map (fun n => n.succ.countP (fun j => j == i))).sum

/-- A cone member that failure `f` cancelled returns to WAIT with its token count recomputed (R345). -/
def State.returnNode (s : State) (gi f i : Nat) : State :=
  let n := s.nodeAt gi i
  if n.state = nCancelled && n.byFail = some f then
    let tok := n.otok - (s.graphAt gi).doneInto i
    if tok = 0 then s.fireNode gi i
    else s.changeNode gi i (fun n => { n with state := nWait, tokens := tok, byFail := none })
  else s

/-- NODE_FAIL's first step, for node `i` of graph `gi` whose grid has been stopped: fault record, FAILED, and the failure is kept to be
worked off: its cone is cancelled next, and a node with budget left is retried (R343 to R345, R359, R360). -/
def State.failNodeOf (s : State) (gi i : Nat) (f : Nat × Nat × Nat × Nat × Nat) : State :=
  let g := s.graphAt gi
  let n := g.node i
  let cg := (n.cgen + 1) % 2 ^ 32
  let s1 := if n.frec = 0 then s else s.publishOwn g.ctx.l1pa [(n.frec, faultRecord f n.attempts cg)]
  let s2 := s1.changeNode gi i (fun n => { n with state := nFailed, attempts := Nat.min 15 (n.attempts + 1), cgen := cg })
  let x : Failing := { node := i, cone := g.cone i, back := g.cone i, retry := decide (n.attempts < 15) && decide (n.attempts + 1 ≤ n.budget)
                       begun := false }
  s2.setGraph gi (fun g => { g with fails := g.fails ++ [x] })

/-- NODE_FAIL (R343). -/
def execNodeFail (gr : Nat) (s : State) : Out :=
  let g := s.gridOf gr
  match g.failing with
  | none => .next s
  | some f => .next ((s.graphWaits g.gi []).getD (((s.stopGrid gr).failNodeOf g.gi g.node f).ownDone g.gi))

/-- Replace the `n`-th failure of a graph; none takes it off the list. -/
def State.setFail (s : State) (gi n : Nat) (x : Option Failing) : State :=
  s.setGraph gi (fun g => { g with fails := match x with
    | some x => modifyAt g.fails n (fun _ => x)
    | none => g.fails.eraseIdx n })

/-- The next step of a failure: one member of the cone is cancelled; then the node is written RETRYING, the members that it cancelled
return one by one, and it is READY again; a node without budget left stays FAILED (R344 to R346). -/
def State.failureStep (s : State) (gi n : Nat) : State :=
  match (s.graphAt gi).fails[n]? with
  | none => s
  | some x => match s.graphWaits gi [] with
    | some s1 => s1
    | none => (match x.cone, x.back with
      | i :: t, _ => (s.cancelNode gi x.node i).setFail gi n (some { x with cone := t })
      | [], b =>
        if !x.retry then s.setFail gi n none
        else if !x.begun then
          (s.changeNode gi x.node (fun n => { n with state := nRetrying })).setFail gi n (some { x with begun := true })
        else match b with
          | i :: t => (s.returnNode gi x.node i).setFail gi n (some { x with back := t })
          | [] => (s.fireNode gi x.node).setFail gi n none).ownDone gi

/-! ### The end of a graph (R364, R365) -/

/-- A READY node that its stage holds for good, a node of a lower stage having failed: it does not keep the failed graph alive (R363). -/
def Graph.stuck (g : Graph) (i : Nat) : Bool :=
  g.det && g.nodes.any (fun n => decide (n.stage < (g.node i).stage) && n.state == nFailed)

/-- Nothing of a graph can still change: its records have been read, no node is READY, runs or retries, no failure is being worked
off, and no request is in flight
(R364); of R363 there is `Graph.stuck`. -/
def State.graphQuiet (s : State) (gi : Nat) : Bool :=
  let g := s.graphAt gi
  g.live && g.sub.isNone && g.nodes.all (fun n => n.state != nRun && n.state != nRetrying) && g.fails.isEmpty
    && (List.range g.nodes.length).all (fun i => (g.node i).state != nReady || g.stuck i)
    && !s.net.graphRq.any (fun q => q.2.1 == g.asid) && !s.grids.any (fun p => p.2.gi == gi) && g.sent == g.rcvd

/-- The end word of a graph that was not refused (R365). -/
def Graph.endWordOf (g : Graph) : Nat :=
  let first (k : Nat) : Option Nat := (List.range g.nodes.length).find? (fun i => (g.node i).state == k)
  match first nFailed with
  | some i => endWord 1 0 g.ign i
  | none =>
    if g.nodes.all (fun n => n.state == nDone) then endWord 0 0 g.ign 0xFFFFFFFF
    else endWord 2 0 g.ign ((first nWait).getD 0xFFFFFFFF)

/-- GRAPH_END: the end word is published and the graph's slot is free (R365). -/
def execGraphEnd (gi : Nat) (s : State) : Out :=
  if !s.graphQuiet gi then .next s
  else
    let g := s.graphAt gi
    .next ((s.graphWaits gi []).getD ((({ s with ready := s.ready.filter (fun x => x.1 != gi) }.publishEnd g.ctx.l1pa g.endva
      g.endWordOf).setGraph gi (fun g => { g with live := false })).ownDone gi))

end Sys2Proof.Machine
end

