-- ==== Sys2Proof/Machine/Pleat.lean ====
section
/-!
DEFINITION. The pleat tree: the pleat word (R177, R178), the summation of products through P0 to P3 (R180 to R185),
K-steps and the reorder window (R186 to R188).
-/

namespace Sys2Proof.Machine

open Sys2Proof

/-! ### The pleat word (R177, R178) -/

def pField (p : DWord) (hi lo : Nat) : Nat := bitsOf p.toNat hi lo

/-- Classes of formats (R178). -/
inductive PClass where
  | fp8 | int8 | half | narrow
  deriving DecidableEq, Repr

def classOf (code : Nat) : PClass :=
  if code ≤ 1 then .fp8 else if code = 6 then .int8 else if 7 ≤ code then .half else .narrow

def pAfmt (p : DWord) : Nat := pField p 39 36
def pBfmt (p : DWord) : Nat := pField p 43 40
def pClass (p : DWord) : PClass := classOf (pAfmt p)
/-- Products per K-step. -/
def ksOf (c : PClass) : Nat :=
  match c with
  | .fp8 => 32
  | .int8 => 32
  | .half => 16
  | .narrow => 64

/-- A pleat word that MCFG accepts. -/
def pleatOk (p : DWord) : Bool :=
  let a := pAfmt p
  let b := pBfmt p
  let wid (v : Nat) : Bool := decide (4 ≤ v) && decide (v ≤ 24)
  pField p 63 44 == 0 && decide (a ≤ 8) && decide (b ≤ 8)
    && decide (pField p 30 29 ≤ 2) && decide (pField p 18 17 ≤ 2) && decide (pField p 8 7 ≤ 2)
    && wid (pField p 28 24) && wid (pField p 16 12) && wid (pField p 6 2)
    && decide (pField p 23 21 ≤ 5) && decide (pField p 11 9 ≤ 5)
    && classOf a == classOf b && (classOf a != .half || a == b)

/-- Nominal lengths of the levels (R182). -/
def pLen (p : DWord) (lvl : Nat) : Nat :=
  if lvl = 0 then 2 ^ (pField p 1 0 + 1) * (if pClass p = .narrow then 2 else 1)
  else if lvl = 1 then 2 ^ pField p 11 9 else 2 ^ pField p 23 21
def pWid (p : DWord) (lvl : Nat) : Nat :=
  8 + (if lvl = 0 then pField p 6 2 else if lvl = 1 then pField p 16 12 else pField p 28 24)
def pAln (p : DWord) (lvl : Nat) : Nat :=
  if lvl = 0 then pField p 8 7 else if lvl = 1 then pField p 18 17 else pField p 30 29
def pRnd (p : DWord) (lvl : Nat) : Nat := if lvl = 1 then pField p 20 19 else if lvl = 2 then pField p 32 31 else 0
def pLint (p : DWord) : Bool := pField p 34 34 == 1
def pCmp3 (p : DWord) : Bool := pField p 33 33 == 1
def pSat (p : DWord) : Bool := pField p 35 35 == 1

/-! ### Terms and levels (R175, R182) -/

def termZero : Term := { kind := .num, neg := false, m := 0, e := 0 }
def Term.ofVal (v : FVal) : Term :=
  match v with
  | .num n m e => { kind := .num, neg := n, m := m, e := e }
  | .inf n => { kind := if n then .ninf else .pinf, neg := false, m := 0, e := 0 }
  | .nan _ => { kind := .nan, neg := false, m := 0, e := 0 }
def Term.toVal (t : Term) : FVal :=
  match t.kind with
  | .num => .num t.neg t.m t.e
  | .pinf => .inf false
  | .ninf => .inf true
  | .nan => .nan false

/-- to_frame: a term in units of 2^f under discard mode `a`. -/
def toFrame (t : Term) (f : Int) (a : Nat) : Int :=
  if f ≤ t.e then signed t.neg (scaleTo t.m t.e f)
  else
    let d := (f - t.e).toNat
    let q := t.m / 2 ^ d
    let r := t.m % 2 ^ d
    if a = 0 then signed t.neg q
    else if a = 1 then (if t.neg && r != 0 then -((q : Int) + 1) else signed t.neg q)
    else signed t.neg (roundUnit .rne t.neg q r d)

/-- popc_below: one bits of a term that weigh less than 2^f. -/
def popcBelow (t : Term) (f : Int) : Nat :=
  if f ≤ t.e then 0
  else
    let r := t.m % 2 ^ (f - t.e).toNat
    popCount (bitlen r) r

/-- level: the sum of a list in its frame, and the one bits it discards (R182, R184). -/
def pLevel (p : DWord) (lvl : Nat) (xs : List Term) : Term × Nat :=
  let has (k : TermKind) : Bool := xs.any (fun x => x.kind == k)
  if has .nan || (has .pinf && has .ninf) then ({ termZero with kind := .nan }, 0)
  else if has .pinf then ({ termZero with kind := .pinf }, 0)
  else if has .ninf then ({ termZero with kind := .ninf }, 0)
  else
    match topExp (xs.map Term.toVal) with
    | none => (termZero, 0)
    | some t =>
      let g := ceilLog2 (pLen p lvl) + 1
      let f : Int := (t + 1) - ((pWid p lvl : Int) - g)
      let sum := xs.foldl (fun (a : Int) x => a + toFrame x f (pAln p lvl)) 0
      let bits := xs.foldl (fun a x => a + popcBelow x f) 0
      if sum = 0 then ({ termZero with neg := decide (0 < lvl) && pRnd p lvl == 2 }, bits)
      else ({ kind := .num, neg := decide (sum < 0), m := sum.natAbs, e := f }, bits)

/-! ### P3 (R183) -/

/-- A number rounded RNE to FP32, its overflow under SAT. A zero keeps its sign, so that of the visible -0 of R184 does (DESIGN
CHOICE, log entry 77; R183). -/
def p3Round (sat : Bool) (x : Exact) : Word :=
  match x.val with
  | .num n m e =>
    let r := fp32.round .rne false n m e
    BitVec.ofNat 32 (if r.2.of_ && sat then fp32.pack n fp32.maxC else r.1)
  | _ => BitVec.ofNat 32 (fp32.deliver .rne false x).1
def val32 (x : Word) : FVal := fp32.decode x.toNat
def p3Add32 (sat : Bool) (a b : Word) : Word := p3Round sat (fAdd .rne (val32 a) (val32 b))
def p3Sub32 (sat : Bool) (a b : Word) : Word := p3Round sat (fSub .rne (val32 a) (val32 b))
def finite32 (x : Word) : Bool := (val32 x).isNum
def abs32 (x : Word) : FVal := val32 (x &&& 0x7FFFFFFF)

/-- An element under summation with the lint counts that its closings add. -/
structure Sum where
  el   : Elem
  lint : List Nat
  deriving DecidableEq, Repr

def addLint (p : DWord) (l : List Nat) (i n : Nat) : List Nat := if pLint p then modifyAt l i (· + n) else l

/-- p3_add. -/
def p3Add (p : DWord) (x : Term) (a : Sum) : Sum :=
  let sat := pSat p
  let y := p3Round sat { val := x.toVal, flags := .none }
  let t := p3Add32 sat a.el.s y
  let swamp := finite32 y && !(val32 y).isZero && fTest .eq (val32 t) (val32 a.el.s)
  let c :=
    if pCmp3 p then
      if finite32 t then
        if fTest .ge (abs32 a.el.s) (abs32 y) then p3Add32 sat a.el.c (p3Add32 sat (p3Sub32 sat a.el.s t) y)
        else p3Add32 sat a.el.c (p3Add32 sat (p3Sub32 sat y t) a.el.s)
      else 0
    else a.el.c
  { el := { a.el with s := t, c := c }, lint := if swamp then addLint p a.lint 3 1 else a.lint }

/-- close and push at P2, P1 and P0. -/
def close2 (p : DWord) (a : Sum) : Sum :=
  let r := pLevel p 2 a.el.o2
  p3Add p r.1 { el := { a.el with o2 := [] }, lint := addLint p a.lint 2 r.2 }
def push2 (p : DWord) (x : Term) (a : Sum) : Sum :=
  let b := { a with el := { a.el with o2 := a.el.o2 ++ [x] } }
  if b.el.o2.length = pLen p 2 then close2 p b else b
def close1 (p : DWord) (a : Sum) : Sum :=
  let r := pLevel p 1 a.el.o1
  push2 p r.1 { el := { a.el with o1 := [] }, lint := addLint p a.lint 1 r.2 }
def push1 (p : DWord) (x : Term) (a : Sum) : Sum :=
  let b := { a with el := { a.el with o1 := a.el.o1 ++ [x] } }
  if b.el.o1.length = pLen p 1 then close1 p b else b
def close0 (p : DWord) (a : Sum) : Sum :=
  let r := pLevel p 0 a.el.o0
  push1 p r.1 { el := { a.el with o0 := [] }, lint := addLint p a.lint 0 r.2 }
def push0 (p : DWord) (x : Term) (a : Sum) : Sum :=
  let b := { a with el := { a.el with o0 := a.el.o0 ++ [x] } }
  if b.el.o0.length = pLen p 0 then close0 p b else b

/-- finish: the open lists are closed after the last step (R181). -/
def finishSum (p : DWord) (a : Sum) : Sum :=
  let a := if a.el.o0.isEmpty then a else close0 p a
  let a := if a.el.o1.isEmpty then a else close1 p a
  if a.el.o2.isEmpty then a else close2 p a

/-- drain_value. -/
def drainValue (p : DWord) (el : Elem) : Word := p3Add32 (pSat p) el.s el.c

/-! ### Operand blocks (R199) -/

/-- Data registers of a block and its scale register. -/
def blockData (code : Nat) : Nat := if code = 3 || code = 4 then 12 else 8
def blockRegs (code : Nat) : Nat := blockData code + if isMx code then 1 else 0

/-- The elements of one row or column of a block, k = 0 first, and the malformed darns it holds (R199, R203). -/
def operandLine (code : Nat) (regs : List LaneVec) (lane : Nat) : List FVal × Nat :=
  let bs := (regs.take (blockData code)).flatMap (fun r => bytesLE 4 (r.get lane).toNat)
  if code = 5 then
    let gs := (List.range 4).map (fun g => darnDecode ((List.range 16).map (fun i => streamField (bs.drop (8 * g)) 4 i)))
    (gs.flatMap (·.1), (gs.map (·.2)).foldl (· + ·) 0)
  else
    let sc := ((regs.getD (blockData code) (fillv 32 0)).get lane).toNat
    ((List.range (ksOf (classOf code))).map (fun k =>
      let f := streamField bs (elemBits code) k
      let v := if code = 6 then ofInt (intOf 8 f) else (fmtOf code).decode f
      if isMx code then mxValue (if k < 32 then sc % 256 else sc / 256 % 256) v else v), 0)

/-! ### Folding a step (R182, R187, R196, R201) -/

def satAdd (a b : Nat) : Nat := Nat.min (a + b) 0xFFFFFFFF

/-- The element at row `r`, column `n`. -/
def Tile.elem (t : Tile) (r n : Nat) : Elem := t.elems.getD (t.cols * r + n) Elem.zero

/-- A tile whose summation state is cleared: every list empty, s = c = +0, counters 0 (R187, R198). -/
def Tile.clear (t : Tile) : Tile :=
  { t with elems := List.replicate (32 * t.cols) Elem.zero, lint := fillv 4 0, darn := 0 }

/-- Fold one step into a tile. -/
def Tile.fold (t : Tile) (w : WStep) : Tile :=
  let t := if w.first then t.clear else t
  let p := t.pleat
  let rows := (List.range 32).map (fun r => operandLine (pAfmt p) w.a r)
  let nb := blockRegs (pBfmt p)
  let cols := (List.range 32).map (fun n => operandLine (pBfmt p) w.b n)
    ++ (if w.pair then (List.range 32).map (fun n => operandLine (pBfmt p) (w.b.drop nb) n) else [])
  let zero := (List.range (ksOf (pClass p))).map (fun _ => termZero)
  let one (r n : Nat) : Sum :=
    let prods := match cols[n]? with
      | none => zero
      | some c => (((rows.getD r ([], 0)).1).zip c.1).map (fun (q : FVal × FVal) => Term.ofVal (fMul q.1 q.2).val)
    let a := prods.foldl (fun a x => push0 p x a) { el := t.elem r n, lint := [0, 0, 0, 0] }
    if w.last then finishSum p a else a
  let sums := (List.range 32).flatMap (fun r => (List.range t.cols).map (fun n => one r n))
  let total (i : Nat) : Nat := sums.foldl (fun a x => a + x.lint.getD i 0) 0
  let darns := (rows ++ cols).foldl (fun a x => a + x.2) 0
  { t with
    elems := sums.map (·.el)
    lint := ⟨⟨(List.range 4).map (fun i => satAdd (vget 0 t.lint i) (total i))⟩, by simp⟩
    darn := satAdd t.darn darns
    x := if w.last then 0 else (t.x + 1) % 65536 }

/-- Distance of a step from the expected index (R186). -/
def Tile.dist (t : Tile) (idx : Nat) : Nat := (idx + 65536 - t.x) % 65536

/-- Fold the window entries whose turn has come, at most `fuel` of them. -/
def Tile.settle : Nat → Tile → Tile
  | 0, t => t
  | fuel + 1, t =>
    match t.window.find? (fun w => t.dist w.idx == 0) with
    | none => t
    | some w => Tile.settle fuel ({ t with window := t.window.filter (fun v => v.idx != w.idx) }.fold w)

/-- What becomes of a step (R186). -/
inductive Accept where
  | taken (t : Tile)
  | wait
  | bad
  deriving DecidableEq, Repr

/-- A step of d 1 to 8 that finds the eight entries of the window taken, by steps that a close has left there, waits as one of a
larger d does (DESIGN CHOICE, log entry 77; R188). -/
def Tile.accept (t : Tile) (w : WStep) : Accept :=
  let d := t.dist w.idx
  if t.window.any (fun v => v.idx == w.idx) then .bad
  else if d = 0 then .taken ((t.fold w).settle 8)
  else if d ≤ 8 && decide (t.window.length < 8) then .taken { t with window := t.window ++ [w] }
  else if d < 32768 then .wait
  else .bad

end Sys2Proof.Machine
end

