-- ==== Sys2Proof/Machine/Matrix.lean ====
section
/-!
DEFINITION. The meanings of the matrix instructions (R193 to R218), with the configuration word (R197), the epilogue
chain (R206 to R208), softmax (R210), and tile images (R211, R212).
-/

namespace Sys2Proof.Machine

open Sys2Proof

/-! ### Who may use the array (R191 to R194) -/

/-- R193: a cluster of odd width, or the pair flag at odd x, raises trap 0x0A. -/
def State.unpaired (s : State) (pair : Bool) : Bool :=
  decide (s.team.w % 2 = 1) || (pair && decide (s.team.px % 2 = 1))

/-- Columns of the tiles of a team's core: 64 on a leader, at even x (R191, R192). -/
def Team.cols (x : Team) : Nat := if x.px % 2 = 0 then 64 else 32

/-- Another group of the team is in an MSAVE, or between the steps of an MLOAD or MTBL: the array takes no other instruction until it
has completed (R215). -/
def State.frozen (s : State) : Bool :=
  s.team.agents.any (fun a => a != s.cur.2 && ((s.agent s.cur.1 a).saving || !(s.agent s.cur.1 a).xfer.isEmpty))

/-- The issuing team holds the array of its core, taking it when it is free; none while another team holds it, or another group
of the team is in a transfer (R194, R215). -/
def State.takeArray (s : State) : Option State :=
  let c := s.core
  if s.frozen then none
  else match c.holder with
  | some t => if t = s.cur.1 then some s else none
  | none =>
    some (s.setCore { c with holder := some s.cur.1, tiles := fillv 4 ((Tile.empty s.team.cols).clear),
                             table := List.replicate 64 (0, 0) })

def State.tile (s : State) (n : Nat) : Tile := vget (Tile.empty 32) s.core.tiles n
def State.setTile (s : State) (n : Nat) (t : Tile) : State :=
  let c := s.core
  s.setCore { c with tiles := vset c.tiles n t }

/-- The phase has held a matrix instruction of R218. -/
def State.usedMatrix (s : State) : State :=
  let x := s.team
  s.setTeam { x with used := { x.used with matrix := true } }

/-- The form of a matrix instruction: R193, then the array (R194), then its effect; it waits while another team holds
the array. -/
def State.matrixOp (s : State) (pair : Bool) (f : State → State) : Out :=
  if s.unpaired pair then .next (s.raise trapPairing 0)
  else match s.takeArray with
  | none => .next s
  | some s' => .next (f s')

/-! ### The configuration word (R197) -/

def cField (c : DWord) (hi lo : Nat) : Nat := bitsOf c.toNat hi lo
def cSoft (c : DWord) : Bool := cField c 0 0 == 1

/-- A configuration word that MCFG accepts for tile `n`. -/
def configOk (n : Nat) (c : DWord) : Bool :=
  if cSoft c then
    cField c 63 8 == 0 && [0, 1, 7, 8].contains (cField c 7 4) && cField c 3 3 == 0 && cField c 2 1 != n
  else
    let qnt := cField c 3 3 == 1
    cField c 31 19 == 0
      && (cField c 11 11 == 1 || cField c 18 17 == 0)
      && (cField c 2 2 == 1 || cField c 16 12 == 0)
      && (if qnt then [0, 5, 6, 7, 9].contains (cField c 7 4) && finite32 (BitVec.ofNat 32 (cField c 63 32))
          else cField c 10 4 == 0 && cField c 63 32 == 0)

/-- MCFG and MMZ leave a tile with these words, closed and clear (R188, R198). -/
def Tile.configure (t : Tile) (p c : DWord) : Tile :=
  { t.clear with pleat := p, cfg := c, x := 0, side := fillv 32 (0xFF800000, 0) }

/-- MCFG (R198). -/
def execMcfg (a b : SReg) (c : Fin 4) (s : State) : Out :=
  s.matrixOp false (fun s =>
    let p := s.grp.getS a
    let w := s.grp.getS b
    if !pleatOk p || !configOk c.val w then s.raise trapPleat 0
    else if !(s.tile c.val).window.isEmpty then s
    else (s.setTile c.val ((s.tile c.val).configure p w)).usedMatrix.advance)

/-- MMZ (R204). -/
def execMmz (c : Fin 4) (p : Bool) (s : State) : Out :=
  s.matrixOp p (fun s =>
    let t := s.tile c.val
    if !t.window.isEmpty then s else (s.setTile c.val (t.configure t.pleat t.cfg)).usedMatrix.advance)

/-! ### K-steps (R199 to R202) -/

/-- The registers of a block, from `r` on. -/
def Group.block (g : Group) (r : VReg) (n : Nat) : List LaneVec := (List.range n).map (fun j => g.getV (vplus r j))

/-- The step that MMA and MMAX issue (R201). -/
def State.kstep (s : State) (narrow : Bool) (c : Fin 4) (a b : VReg) (x : SReg) (p l f : Bool) : Out :=
  s.matrixOp p (fun s =>
    let t := s.tile c.val
    let na := blockRegs (pAfmt t.pleat)
    let nb := blockRegs (pBfmt t.pleat) * (if p then 2 else 1)
    if t.pleat = 0 || narrow != decide (pClass t.pleat = .narrow) || decide (128 < a.val + na) || decide (128 < b.val + nb) then
      s.raise trapPleat 0
    else
      let g := s.grp
      match t.accept { idx := (g.getS x).toNat % 65536, pair := p, last := l, first := f, a := g.block a na,
                       b := g.block b nb } with
      | .bad => s.raise trapPleat 0
      | .wait => s
      | .taken t' => (s.setTile c.val t').usedMatrix.advance)

/-- MMA: a K-step of FP8, INT8 or 16-bit products (R201). -/
def execMma (c : Fin 4) (a b : VReg) (x : SReg) (p l f : Bool) (s : State) : Out := s.kstep false c a b x p l f
/-- MMAX: a K-step of narrow-class products (R201). -/
def execMmax (c : Fin 4) (a b : VReg) (x : SReg) (p l f : Bool) (s : State) : Out := s.kstep true c a b x p l f

/-- MLINT: the lint counters of a tile, once its window is empty; zeros of one that is not configured, whatever an image brought (R155,
R205). -/
def execMlint (d : SReg) (c : Fin 4) (s : State) : Out :=
  s.matrixOp false (fun s =>
    let t := s.tile c.val
    if !t.window.isEmpty then s
    else
      let n (i : Nat) : Nat := if t.pleat = 0 then 0 else vget 0 t.lint i
      let w (i : Nat) : DWord := BitVec.ofNat 64 (n i + 2 ^ 32 * n (i + 1))
      (s.setGrp ((s.grp.setS d (w 0)).setS (splus d 1) (w 2))).advance)

/-! ### The epilogue chain (R206 to R208) -/

/-- RNE in FP32, every NaN canonical, no flag. -/
def rne32 (x : Exact) : Word := p3Round false x

/-- Exact quotient of two values, for one rounding to FP32: 80 bits and a last bit for the rest. -/
def fDiv (a b : FVal) : Exact :=
  if a.isNan || b.isNan then exNan false
  else match a, b with
  | .num n1 m1 e1, .num n2 m2 e2 =>
    if m2 = 0 then (if m1 = 0 then exInvalid else { val := .inf (xor n1 n2), flags := .none })
    else if m1 = 0 then exNum (xor n1 n2) 0 0
    else
      let k := 80 + bitlen m2
      let q := m1 * 2 ^ k / m2
      if m1 * 2 ^ k % m2 = 0 then exNum (xor n1 n2) q (e1 - e2 - k) else jam (xor n1 n2) q (e1 - e2 - k)
  | .num n1 _ _, .inf n2 => exNum (xor n1 n2) 0 0
  | .inf n1, .num n2 _ _ => { val := .inf (xor n1 n2), flags := .none }
  | _, _ => exInvalid

/-- Index of the activation table: floor(v × 2^(5 − TEXP) + 32), clamped to 0…63. -/
def actIndex (v : FVal) (texp : Int) : Nat :=
  match v with
  | .inf n => if n then 0 else 63
  | .nan _ => 0
  | .num n m e =>
    let r := roundAt .rd n m (e + 5 - texp) 0
    let i := signed n r.1 + 32
    if i < 0 then 0 else Nat.min i.toNat 63

/-- The value of an element after the stages that precede requantisation (R207). -/
def chain (c : DWord) (table : List (BitVec 16 × BitVec 16)) (l bias d : Word) : Word :=
  let on (i : Nat) : Bool := cField c i i == 1
  let v1 := if on 11 then rne32 (fDiv (val32 d) (val32 l)) else d
  let v2 := if on 1 then rne32 (fAdd .rne (val32 v1) (val32 bias)) else v1
  if on 2 then
    if (val32 v2).isNan then 0x7FC00000
    else
      let e := table.getD (actIndex (val32 v2) (intOf 5 (cField c 16 12))) (0, 0)
      rne32 (fFma .rne (fp16.decode e.1.toNat) (val32 v2) (fp16.decode e.2.toNat))
  else v2

/-- Output format of a drain: FP32 without requantisation and in softmax mode (R206, R207). -/
def drainFmt (c : DWord) : Nat := if cSoft c || cField c 3 3 == 0 then 9 else cField c 7 4

/-- Values to a lane register of a drain (R208). -/
def drainPer (fmt : Nat) : Nat := 32 / elemBits fmt

/-- The encodings of one row, column 0 first: I4D by groups of 16 (R207). -/
def encodeRow (c : DWord) (vs : List Word) : List Nat :=
  let fmt := drainFmt c
  if cSoft c || cField c 3 3 == 0 then vs.map (·.toNat)
  else
    let sc := val32 (BitVec.ofNat 32 (cField c 63 32))
    let rm := Rm.ofNat' (cField c 9 8)
    let sat := cField c 10 10 == 1
    let xs := vs.map (fun v => (fMul (val32 v) sc).val)
    if fmt = 5 then
      (List.range (xs.length / 16)).flatMap (fun g => darnEncode rm sat ((xs.drop (16 * g)).take 16))
    else xs.map (fun x => natLE (encodeBlock fmt rm sat [x]))

/-- Registers written from `r` on with row `l` of `rows` in lane `l`, `per` encodings of `w` bits to a register (R164,
R208). -/
def Group.putRows (g : Group) (r : VReg) (w per : Nat) (rows : List (List Nat)) : Group :=
  let n := ((rows.headD []).length + per - 1) / per
  (List.range n).foldl (fun g j =>
    g.setV (vplus r j) (lanesOf (fun l =>
      let fs := ((rows.getD l []).drop (per * j)).take per
      BitVec.ofNat 32 (fs.foldr (fun f a => a * 2 ^ w + f) 0)))) g

/-- MDRAIN (R206 to R208). -/
def execMdrain (c : Fin 4) (a b : VReg) (p : Bool) (s : State) : Out :=
  s.matrixOp p (fun s =>
    let t := s.tile c.val
    let cols := if p then 64 else 32
    let fmt := drainFmt t.cfg
    let regs := cols / drainPer fmt
    let bias := !cSoft t.cfg && cField t.cfg 1 1 == 1
    if t.pleat = 0 || decide (128 < a.val + regs) || (bias && decide (128 < b.val + cols / 32)) then s.raise trapPleat 0
    else if !t.window.isEmpty then s
    else
      let g := s.grp
      let lt := s.tile (cField t.cfg 18 17)
      let row (r : Nat) : List Nat := encodeRow t.cfg ((List.range cols).map (fun n =>
        let d := drainValue t.pleat (t.elem r n)
        if cSoft t.cfg then d
        else chain t.cfg s.core.table (vget (0, 0) lt.side r).2 (g.lane (vplus b (n / 32)) (n % 32)) d))
      (s.setGrp (g.putRows a (elemBits fmt) (drainPer fmt) ((List.range 32).map row))).advance)

/-! ### Softmax (R210) -/

/-- The value times 2^x, as FP32 under RNE. -/
def shift32 (v : Word) (x : Int) : Word := rne32 { val := (val32 v).scale x, flags := .none }

/-- An integral FP32 value as an integer. An m that MLOAD has installed need not be one: it is cut toward zero (DESIGN CHOICE, log
entry 77; R210). -/
def intVal (v : Word) : Int :=
  match val32 v with
  | .num n m e => signed n (toIntegral .rz n m e).1
  | _ => 0

def fmax32 (a b : Word) : Word := BitVec.ofNat 32 (fp32.minmax true a.toNat b.toNat).1

/-- The significand and exponent of equal value with an exponent of 16 bits, where there is one: a sum of terms whose exponents fit is a
multiple of their least unit, though its frame lies below it (R182, R189, R212). -/
def fitTerm (m : Nat) (e : Int) : Nat × Int :=
  let lo := (-32768 - e).toNat
  let hi := (e - 32767).toNat
  if m = 0 then (0, if 0 < lo || 0 < hi then 0 else e)
  else if 0 < lo && decide (lo ≤ 32) && m % 2 ^ lo == 0 then (m / 2 ^ lo, -32768)
  else if 0 < hi && decide (hi ≤ 32) && decide (m * 2 ^ hi < 2 ^ 32) then (m * 2 ^ hi, 32767)
  else (m, e)

/-- A term after its row is rescaled by 2^x. Its exponent is judged in the form that its image has, so that a tile that is saved and
loaded goes on as one that is not (R189, R210). -/
def Term.rescale (x : Int) (t : Term) : Term :=
  let f := fitTerm t.m t.e
  if t.kind = .num then (if f.2 + x < -32768 then termZero else { t with m := f.1, e := f.2 + x }) else t

/-- An element after its row is rescaled by 2^x; below 2^-512 everything becomes +0. -/
def Elem.rescale (x : Int) (e : Elem) : Elem :=
  if x < -512 then
    { o0 := e.o0.map (fun _ => termZero), o1 := e.o1.map (fun _ => termZero), o2 := e.o2.map (fun _ => termZero), s := 0, c := 0 }
  else
    { o0 := e.o0.map (Term.rescale x), o1 := e.o1.map (Term.rescale x), o2 := e.o2.map (Term.rescale x)
      s := shift32 e.s x, c := shift32 e.c x }

/-- What MSMX does to one row: its probabilities, the new m and l, and the rescale of the output tile, if any. -/
structure Soft where
  p  : List Word
  m  : Word
  l  : Word
  by_ : Option Int
  deriving DecidableEq, Repr

/-- One row of MSMX. A row whose m is NaN from an earlier block counts as m = 0 in the difference that rescales it (DESIGN CHOICE, log
entry 77; R210). -/
def softRow (m l : Word) (xs : List Word) : Soft :=
  let mc := match xs with
    | [] => m
    | x :: t => t.foldl fmax32 (BitVec.ofNat 32 (fp32.minmax true x.toNat x.toNat).1)
  let mn := fmax32 m (rne32 (fRnd .ru (val32 mc)))
  match val32 mn with
  | .nan _ => { p := xs.map (fun _ => 0x7FC00000), m := mn, l := 0x7FC00000, by_ := none }
  | .inf false => { p := xs.map (fun _ => 0x7FC00000), m := mn, l := 0x7FC00000, by_ := none }
  | .inf true => { p := xs.map (fun _ => 0), m := mn, l := l, by_ := none }
  | .num _ _ _ =>
    let first := val32 m == .inf true
    let dlt := intVal m - intVal mn
    let ps := xs.map (fun x => rne32 (fExp2 (val32 (rne32 (fSub .rne (val32 x) (val32 mn))))))
    let t0 := if first then 0 else shift32 l dlt
    { p := ps, m := mn, l := ps.foldl (fun t p => rne32 (fAdd .rne (val32 t) (val32 p))) t0
      by_ := if first then none else some dlt }

/-- MSMX (R210). A softmax tile without a pleat word, which only an image can make, is refused as an unconfigured one is elsewhere
(DESIGN CHOICE, log entry 77). -/
def execMsmx (c : Fin 4) (a : VReg) (p : Bool) (s : State) : Out :=
  s.matrixOp p (fun s =>
    let t := s.tile c.val
    let on := cField t.cfg 2 1
    let o := s.tile on
    let cols := if p then 64 else 32
    let fmt := cField t.cfg 7 4
    let regs := cols / drainPer fmt
    if t.pleat = 0 || !cSoft t.cfg || o.pleat = 0 || decide (128 < a.val + regs) then s.raise trapPleat 0
    else if !t.window.isEmpty || !o.window.isEmpty then s
    else
      let rows := (List.range 32).map (fun r =>
        let ml := vget (0, 0) t.side r
        softRow ml.1 ml.2 ((List.range cols).map (fun n => drainValue t.pleat (t.elem r n))))
      let row (r : Nat) : Soft := rows.getD r { p := [], m := 0, l := 0, by_ := none }
      let side := lanesOf (fun r => ((row r).m, (row r).l))
      let elems := (List.range 32).flatMap (fun r => (List.range o.cols).map (fun n =>
        match (row r).by_ with
        | some x => (o.elem r n).rescale x
        | none => o.elem r n))
      let s1 := (s.setTile c.val { t with side := side }).setTile on { o with elems := elems }
      let enc (r : Nat) : List Nat := (row r).p.map (fun v => encodeFp (fmtOf fmt) .rne true (val32 v))
      (s1.setGrp (s1.grp.putRows a (elemBits fmt) (drainPer fmt) ((List.range 32).map enc))).usedMatrix.advance)

/-! ### Tile images (R211 to R215) -/

/-- A term in 8 bytes. What stands for one that no 16-bit exponent fits, of which R212 says that there is none though an MSMX after a
loaded m that is NaN can make it, is a free value (DESIGN CHOICE, log entry 77; R189, R212). -/
def termQuad (t : Term) : Nat :=
  match t.kind with
  | .num =>
    let f := fitTerm t.m t.e
    (if f.1 < 2 ^ 32 && decide (-32768 ≤ f.2) && decide (f.2 ≤ 32767) then f.1 + intCode 16 f.2 * 2 ^ 32 else (Config.looseTerm t.m t.e).toNat)
      + (if t.neg then 2 ^ 48 else 0)
  | .pinf => 2 ^ 49
  | .ninf => 2 * 2 ^ 49
  | .nan => 3 * 2 ^ 49

/-- The term in 8 bytes; none for a non-zero reserved bit. The sign, e and m of a term that is not num are not looked at (DESIGN
CHOICE, log entry 77; R212, R214). -/
def quadTerm (q : Nat) : Option Term :=
  if bitsOf q 63 51 != 0 then none
  else if bitsOf q 50 49 = 0 then
    some { kind := .num, neg := bitOf q 48, m := bitsOf q 31 0, e := intOf 16 (bitsOf q 47 32) }
  else
    some { kind := if bitsOf q 50 49 = 1 then .pinf else if bitsOf q 50 49 = 2 then .ninf else .nan, neg := false, m := 0, e := 0 }

/-- Bytes of a captured register. -/
def regBytes (r : LaneVec) : List Byte := (List.range 32).flatMap (fun l => bytesLE 4 (r.get l).toNat)

/-- Insert a window entry in ascending d. -/
def Tile.insertStep (t : Tile) (w : WStep) : List WStep → List WStep
  | [] => [w]
  | v :: l => if t.dist w.idx ≤ t.dist v.idx then w :: v :: l else v :: t.insertStep w l

/-- The window of a tile in ascending d (R211). -/
def Tile.ordered (t : Tile) : List WStep := t.window.foldr t.insertStep []

/-- The image of a tile (R211). -/
def Tile.image (t : Tile) : List Byte :=
  let n1 := (t.elem 0 0).o1.length
  let n2 := (t.elem 0 0).o2.length
  let win := t.ordered.flatMap (fun w =>
    bytesLE 8 (w.idx + ((if w.first then 2 ^ 16 else 0) + (if w.last then 2 ^ 17 else 0) + (if w.pair then 2 ^ 18 else 0))
      + w.a.length * 2 ^ 24 + w.b.length * 2 ^ 32) ++ (w.a ++ w.b).flatMap regBytes)
  let els := (List.range 32).flatMap (fun r => (List.range t.cols).flatMap (fun n =>
    let e := t.elem r n
    bytesLE 4 e.s.toNat ++ bytesLE 4 e.c.toNat ++ (e.o1 ++ e.o2).flatMap (fun x => bytesLE 8 (termQuad x))))
  let size := 0x140 + els.length + win.length
  bytesLE 8 t.pleat.toNat ++ bytesLE 8 t.cfg.toNat
    ++ bytesLE 8 (t.x + t.window.length * 2 ^ 16 + n1 * 2 ^ 24 + n2 * 2 ^ 32 + t.cols * 2 ^ 40)
    ++ bytesLE 8 (vget 0 t.lint 0 + 2 ^ 32 * vget 0 t.lint 1) ++ bytesLE 8 (vget 0 t.lint 2 + 2 ^ 32 * vget 0 t.lint 3)
    ++ bytesLE 8 (t.darn + 2 ^ 32 * size) ++ List.replicate 16 0
    ++ (List.range 32).flatMap (fun r => let p := vget (0, 0) t.side r; bytesLE 4 p.1.toNat ++ bytesLE 4 p.2.toNat)
    ++ els ++ win

/-- A quad of an image. -/
def imgQuad (bs : List Byte) (o : Nat) : Nat := natLE ((bs.drop o).take 8)

/-- Terms read from consecutive quads; none when one is bad. -/
def readTerms (bs : List Byte) : Nat → Nat → Option (List Term)
  | _, 0 => some []
  | o, n + 1 =>
    match quadTerm (imgQuad bs o), readTerms bs (o + 8) n with
    | some t, some ts => some (t :: ts)
    | _, _ => none

/-- Elements read from an image; none when a term is bad. -/
def readElems (bs : List Byte) (n1 n2 : Nat) : Nat → Nat → Option (List Elem)
  | _, 0 => some []
  | o, n + 1 =>
    match readTerms bs (o + 8) n1, readTerms bs (o + 8 + 8 * n1) n2, readElems bs n1 n2 (o + 8 + 8 * (n1 + n2)) n with
    | some x, some y, some t =>
      some ({ o0 := [], o1 := x, o2 := y, s := BitVec.ofNat 32 (imgQuad bs o % 2 ^ 32), c := BitVec.ofNat 32 (imgQuad bs o / 2 ^ 32) } :: t)
    | _, _, _ => none

/-- Registers read from an image. -/
def readRegs (bs : List Byte) (o n : Nat) : List LaneVec :=
  (List.range n).map (fun j => lanesOf (fun l => BitVec.ofNat 32 (natLE ((bs.drop (o + 128 * j + 4 * l)).take 4))))

/-- Window entries read from an image, with the offset after them; none when a header breaks R199 or R211, or has a
reserved bit set (R214). -/
def readWindow (bs : List Byte) (p : DWord) : Nat → Nat → Option (List WStep × Nat)
  | o, 0 => some ([], o)
  | o, n + 1 =>
    let h := imgQuad bs o
    let pair := bitOf h 18
    let na := bitsOf h 31 24
    let nb := bitsOf h 39 32
    if bitsOf h 23 19 != 0 || bitsOf h 63 40 != 0 || na != blockRegs (pAfmt p) || nb != blockRegs (pBfmt p) * (if pair then 2 else 1) then none
    else match readWindow bs p (o + 8 + 128 * (na + nb)) n with
    | none => none
    | some r =>
      some ({ idx := h % 65536, pair := pair, last := bitOf h 17, first := bitOf h 16, a := readRegs bs (o + 8) na
              b := readRegs bs (o + 8 + 128 * na) nb } :: r.1, r.2)

/-- The stored size of an image. MLOAD checks its range by it, so that one that is too large for the window raises 0x08 (DESIGN
CHOICE, log entry 77; R214). -/
def imageSize (bs : List Byte) : Nat := imgQuad bs 0x28 / 2 ^ 32

/-- What R214 asks of the header of an image for tile number `n` with `cols` columns; its size is one that its counts imply, whatever
the pair flags of its window entries are. -/
def headOk (n cols : Nat) (bs : List Byte) : Bool :=
  let p : DWord := BitVec.ofNat 64 (imgQuad bs 0)
  let c : DWord := BitVec.ofNat 64 (imgQuad bs 8)
  let h := imgQuad bs 0x10
  let nw := bitsOf h 23 16
  let n1 := bitsOf h 31 24
  let n2 := bitsOf h 39 32
  let nb := blockRegs (pBfmt p)
  let least := 0x140 + 32 * cols * (8 + 8 * (n1 + n2)) + nw * (8 + 128 * (blockRegs (pAfmt p) + nb))
  bitsOf h 63 48 == 0 && imgQuad bs 0x30 == 0 && imgQuad bs 0x38 == 0
    && (decide (p = 0) || pleatOk p) && ((decide (p = 0) && decide (c = 0)) || configOk n c)
    && bitsOf h 47 40 == cols && decide (n1 < pLen p 1) && decide (n2 < pLen p 2) && decide (nw ≤ 8)
    && (List.range (nw + 1)).any (fun j => least + 128 * nb * j == imageSize bs)

/-- The tile of an image for tile number `n` with `cols` columns; none where MLOAD raises 0x0B (R214). -/
def readTile (n cols : Nat) (bs : List Byte) : Option Tile :=
  let p : DWord := BitVec.ofNat 64 (imgQuad bs 0)
  let c : DWord := BitVec.ofNat 64 (imgQuad bs 8)
  let h := imgQuad bs 0x10
  let x := bitsOf h 15 0
  let nw := bitsOf h 23 16
  let n1 := bitsOf h 31 24
  let n2 := bitsOf h 39 32
  if !headOk n cols bs then none
  else match readElems bs n1 n2 0x140 (32 * cols) with
  | none => none
  | some els =>
    match readWindow bs p (0x140 + 32 * cols * (8 + 8 * (n1 + n2))) nw with
    | none => none
    | some (ws, size) =>
      let t : Tile := { Tile.empty cols with
        pleat := p, cfg := c, x := x, window := ws, elems := els
        lint := ⟨⟨[imgQuad bs 0x18 % 2 ^ 32, imgQuad bs 0x18 / 2 ^ 32, imgQuad bs 0x20 % 2 ^ 32, imgQuad bs 0x20 / 2 ^ 32]⟩, rfl⟩
        darn := imgQuad bs 0x28 % 2 ^ 32
        side := lanesOf (fun r => (BitVec.ofNat 32 (imgQuad bs (0x40 + 8 * r) % 2 ^ 32), BitVec.ofNat 32 (imgQuad bs (0x40 + 8 * r) / 2 ^ 32))) }
      let ds := ws.map (fun w => t.dist w.idx)
      if imageSize bs != size || ds.any (fun d => d == 0 || decide (8 < d)) || ds.eraseDups.length != ds.length then none
      else some t

/-! ### Ranges of local store (R215) -/

/-- One step of a transfer of `n` bytes at offset `off` of the issuing team's window: its next pages, at most 32, are all resident,
`move` moves their bytes, and their frames are held no longer; or the group stalls for them. The moved bytes are given once the
last step is done (R215, R266). -/
def State.transfer (s : State) (off n : Nat) (move : State → Nat → Nat → State × List Byte) : State × Option (List Byte) :=
  let t := s.cur.1
  let g := s.grp
  let lo := off + g.xfer.length
  let pages := (pagesOf lo (off + n - lo)).take 32
  if !pages.all (s.pageIn t) then (s.setGrp { g with status := .stall (pages.map (fun p => (t, p))) }, none)
  else
    let hi := Nat.min (off + n) (2048 * (pages.getLastD (off + n) + 1))
    let r := move s lo (hi - lo)
    let g1 := r.1.grp
    if off + n ≤ hi then (r.1.setGrp { g1 with xfer := [], hold := [] }, some (g.xfer ++ r.2))
    else (r.1.setGrp { g1 with xfer := g.xfer ++ r.2, hold := [] }, none)

/-- The group's earlier stores to its own window come first; none while one cannot be performed (R75). -/
def State.afterStores (s : State) (f : State → State) : State :=
  let s1 := s.drainWindow s.cur.1
  if s1.grp.stores.any (fun p => p.target == .window s.cur.1) then s1 else f s1

/-- The first uncorrectable byte among `n` at offset `off` of the issuing team's window (R284). -/
def State.badByte (s : State) (off n : Nat) : Option Nat :=
  (s.team.lsBad.filter (fun o => decide (off ≤ o) && decide (o < off + n))).min?

/-- A transfer that reads `n` bytes at `off`, then `fin` on them; a step that meets an uncorrectable byte raises 0x09 (R56, R284). -/
def State.readRange (s : State) (off n : Nat) (fin : State → List Byte → State) : State :=
  match s.badByte (off + s.grp.xfer.length) (n - s.grp.xfer.length) with
  | some a => s.raise trapPoison a
  | none =>
  match s.transfer off n (fun s lo k =>
      let c := s.core
      (s.setCore (c.touch s.cur.1 (pagesOf lo k) false), s.windowRead s.cur.1 lo k)) with
  | (s1, none) => s1
  | (s1, some bs) => fin s1 bs

/-- A transfer that writes bytes at `off`, then `fin`. -/
def State.writeRange (s : State) (off : Nat) (bs : List Byte) (fin : State → State) : State :=
  match s.transfer off bs.length (fun s lo k =>
      let part := (bs.drop (lo - off)).take k
      (s.windowWrite s.cur.1 lo part, part)) with
  | (s1, none) => s1
  | (s1, some _) => fin s1

/-- The issuing group is in an MSAVE, or no longer in one (R215). -/
def State.setSaving (s : State) (b : Bool) : State := s.setGrp { s.grp with saving := b }

/-- MSAVE. Here as in MLOAD and MTBL the 0x08 of a range that passes the window reports s(sa) and not the first byte past it, which no rule
names (DESIGN CHOICE, log entry 85; R213, R215). -/
def execMsave (a : SReg) (c : Fin 4) (s : State) : Out :=
  s.matrixOp false (fun s =>
    let va := (s.grp.getS a).toNat
    let im := (s.tile c.val).image
    if va % 256 ≠ 0 then s.raise trapMisaligned va
    else if s.team.window < va + im.length then s.raise trapRange va
    else s.afterStores (fun s => ((s.usedWindow s.cur.1).setSaving true).writeRange va im (fun s => (s.setSaving false).advance)))

/-- The bytes of a transfer that have been read, or, at its first step, those of the window. -/
def State.loadHead (s : State) (va : Nat) : List Byte := if s.grp.xfer.isEmpty then s.windowRead s.cur.1 va 0x40 else s.grp.xfer

/-- MLOAD: the page of the header comes first, which gives the size; where that passes the window, a header that R214 refuses is reported
ahead of it (R52, R214, R215). -/
def execMload (a : SReg) (c : Fin 4) (s : State) : Out :=
  s.matrixOp false (fun s =>
    let va := (s.grp.getS a).toNat
    let t := s.cur.1
    if va % 256 ≠ 0 then s.raise trapMisaligned va
    else if s.team.window < va + 0x140 then s.raise trapRange va
    else if !(s.tile c.val).window.isEmpty then s
    else s.afterStores (fun s =>
      if s.grp.xfer.isEmpty && !s.pageIn t (va / 2048) then s.setGrp { s.grp with status := .stall [(t, va / 2048)] }
      else if s.grp.xfer.isEmpty && (s.badByte va 0x40).isSome then s.raise trapPoison ((s.badByte va 0x40).getD va)
      else
        let size := imageSize (s.loadHead va)
        if s.team.window < va + size then
          (if headOk c.val (s.tile c.val).cols (s.loadHead va) then s.raise trapRange va else s.raise trapPleat 0)
        else s.readRange va size (fun s bs => match readTile c.val (s.tile c.val).cols bs with
          | none => s.raise trapPleat 0
          | some x => (s.setTile c.val x).usedMatrix.advance)))

/-- MTBL (R209, R215). -/
def execMtbl (a : SReg) (s : State) : Out :=
  s.matrixOp false (fun s =>
    let va := (s.grp.getS a).toNat
    if va % 4 ≠ 0 then s.raise trapMisaligned va
    else if s.team.window < va + 256 then s.raise trapRange va
    else s.afterStores (fun s => s.readRange va 256 (fun s bs =>
      let e (i : Nat) : BitVec 16 × BitVec 16 :=
        (BitVec.ofNat 16 (natLE ((bs.drop (4 * i)).take 2)), BitVec.ofNat 16 (natLE ((bs.drop (4 * i + 2)).take 2)))
      let k := s.core
      (s.setCore { k with table := (List.range 64).map e }).usedMatrix.advance)))

end Sys2Proof.Machine
end

