-- ==== Sys2Proof/Machine/Dispatch.lean ====
section
/-!
DEFINITION. The dispatch: the meaning of every instruction and event of the opcode table, one arm each, in the order of
the table.
-/

namespace Sys2Proof.Machine

open Sys2Proof

/-- The effect of instruction or event `i` on state `s`. -/
def exec (i : Instr) (s : State) : Host.Outcome State Fault Refusal :=
  match i with
  | .iadd d a b y z q => Sys2Proof.Machine.execIadd d a b y z q s
  | .isub d a b y z q => Sys2Proof.Machine.execIsub d a b y z q s
  | .imul d a b y z q => Sys2Proof.Machine.execImul d a b y z q s
  | .imulh d a b y z q => Sys2Proof.Machine.execImulh d a b y z q s
  | .nmulhLane d a b y z q => Sys2Proof.Machine.execNmulhLane d a b y z q s
  | .imad d a b y z q => Sys2Proof.Machine.execImad d a b y z q s
  | .imin d a b y z q => Sys2Proof.Machine.execImin d a b y z q s
  | .imax d a b y z q => Sys2Proof.Machine.execImax d a b y z q s
  | .nminLane d a b y z q => Sys2Proof.Machine.execNminLane d a b y z q s
  | .nmaxLane d a b y z q => Sys2Proof.Machine.execNmaxLane d a b y z q s
  | .andLane d a b y z q => Sys2Proof.Machine.execAndLane d a b y z q s
  | .orLane d a b y z q => Sys2Proof.Machine.execOrLane d a b y z q s
  | .xorLane d a b y z q => Sys2Proof.Machine.execXorLane d a b y z q s
  | .andnLane d a b y z q => Sys2Proof.Machine.execAndnLane d a b y z q s
  | .shlLane d a b y z q => Sys2Proof.Machine.execShlLane d a b y z q s
  | .shrLane d a b y z q => Sys2Proof.Machine.execShrLane d a b y z q s
  | .sarLane d a b y z q => Sys2Proof.Machine.execSarLane d a b y z q s
  | .hadd2 d a b y z q => Sys2Proof.Machine.execHadd2 d a b y z q s
  | .hsub2 d a b y z q => Sys2Proof.Machine.execHsub2 d a b y z q s
  | .hmin2 d a b y z q => Sys2Proof.Machine.execHmin2 d a b y z q s
  | .hmax2 d a b y z q => Sys2Proof.Machine.execHmax2 d a b y z q s
  | .hclt2 d a b y z q => Sys2Proof.Machine.execHclt2 d a b y z q s
  | .icmp p c a b y z q => Sys2Proof.Machine.execIcmp p c a b y z q s
  | .ncmp p c a b y z q => Sys2Proof.Machine.execNcmp p c a b y z q s
  | .fcmp p c a b y z q => Sys2Proof.Machine.execFcmp p c a b y z q s
  | .sel d a b y z k => Sys2Proof.Machine.execSel d a b y z k s
  | .fadd d a b y z q => Sys2Proof.Machine.execFadd d a b y z q s
  | .fsub d a b y z q => Sys2Proof.Machine.execFsub d a b y z q s
  | .fmul d a b y z q => Sys2Proof.Machine.execFmul d a b y z q s
  | .ffma d a b y z q => Sys2Proof.Machine.execFfma d a b y z q s
  | .fmin d a b y z q => Sys2Proof.Machine.execFmin d a b y z q s
  | .fmax d a b y z q => Sys2Proof.Machine.execFmax d a b y z q s
  | .hfma2 d a b y z q => Sys2Proof.Machine.execHfma2 d a b y z q s
  | .bfma2 d a b y z q => Sys2Proof.Machine.execBfma2 d a b y z q s
  | .shfl d a b y z q => Sys2Proof.Machine.execShfl d a b y z q s
  | .shfliIndex d a k y q => Sys2Proof.Machine.execShfliIndex d a k y q s
  | .shfliUp d a k y q => Sys2Proof.Machine.execShfliUp d a k y q s
  | .shfliDown d a k y q => Sys2Proof.Machine.execShfliDown d a k y q s
  | .shfliXor d a k y q => Sys2Proof.Machine.execShfliXor d a k y q s
  | .lscanAddI32 d a y q => Sys2Proof.Machine.execLscanAddI32 d a y q s
  | .lscanAddF32 d a y q => Sys2Proof.Machine.execLscanAddF32 d a y q s
  | .lscanMaxI32 d a y q => Sys2Proof.Machine.execLscanMaxI32 d a y q s
  | .lscanMinI32 d a y q => Sys2Proof.Machine.execLscanMinI32 d a y q s
  | .iaddi d a im y q => Sys2Proof.Machine.execIaddi d a im y q s
  | .andiLane d a im y q => Sys2Proof.Machine.execAndiLane d a im y q s
  | .oriLane d a im y q => Sys2Proof.Machine.execOriLane d a im y q s
  | .xoriLane d a im y q => Sys2Proof.Machine.execXoriLane d a im y q s
  | .shliLane d a n y q => Sys2Proof.Machine.execShliLane d a n y q s
  | .shriLane d a n y q => Sys2Proof.Machine.execShriLane d a n y q s
  | .sariLane d a n y q => Sys2Proof.Machine.execSariLane d a n y q s
  | .icmpi p c a im y q => Sys2Proof.Machine.execIcmpi p c a im y q s
  | .iadds d a sb y z q => Sys2Proof.Machine.execIadds d a sb y z q s
  | .imuls d a sb y z q => Sys2Proof.Machine.execImuls d a sb y z q s
  | .ffmas d a sb y z q => Sys2Proof.Machine.execFfmas d a sb y z q s
  | .fmuls d a sb y z q => Sys2Proof.Machine.execFmuls d a sb y z q s
  | .bcast d sb z q => Sys2Proof.Machine.execBcast d sb z q s
  | .ldg d a sb w y q => Sys2Proof.Machine.execLdg d a sb w y q s
  | .stg d a sb w y q => Sys2Proof.Machine.execStg d a sb w y q s
  | .ldl d a sb w y q => Sys2Proof.Machine.execLdl d a sb w y q s
  | .stl d a sb w y q => Sys2Proof.Machine.execStl d a sb w y q s
  | .ldw d a sb w y q => Sys2Proof.Machine.execLdw d a sb w y q s
  | .stw d a sb w y q => Sys2Proof.Machine.execStw d a sb w y q s
  | .ldk d a sb w y q => Sys2Proof.Machine.execLdk d a sb w y q s
  | .ldgp d a sb p q => Sys2Proof.Machine.execLdgp d a sb p q s
  | .ldlt d a sb w y q => Sys2Proof.Machine.execLdlt d a sb w y q s
  | .atomgAddI32 d a sb q => Sys2Proof.Machine.execAtomgAddI32 d a sb q s
  | .atomgAddF32 d a sb q => Sys2Proof.Machine.execAtomgAddF32 d a sb q s
  | .atomgMinI32 d a sb q => Sys2Proof.Machine.execAtomgMinI32 d a sb q s
  | .atomgMaxI32 d a sb q => Sys2Proof.Machine.execAtomgMaxI32 d a sb q s
  | .atomgOr d a sb q => Sys2Proof.Machine.execAtomgOr d a sb q s
  | .atomgXchg d a sb q => Sys2Proof.Machine.execAtomgXchg d a sb q s
  | .atomgCas d a sb q => Sys2Proof.Machine.execAtomgCas d a sb q s
  | .atomgDaddF32 d a sb q => Sys2Proof.Machine.execAtomgDaddF32 d a sb q s
  | .atomlAddI32 d a sb q => Sys2Proof.Machine.execAtomlAddI32 d a sb q s
  | .atomlAddF32 d a sb q => Sys2Proof.Machine.execAtomlAddF32 d a sb q s
  | .atomlMinI32 d a sb q => Sys2Proof.Machine.execAtomlMinI32 d a sb q s
  | .atomlMaxI32 d a sb q => Sys2Proof.Machine.execAtomlMaxI32 d a sb q s
  | .atomlAnd d a sb q => Sys2Proof.Machine.execAtomlAnd d a sb q s
  | .atomlOr d a sb q => Sys2Proof.Machine.execAtomlOr d a sb q s
  | .atomlXchg d a sb q => Sys2Proof.Machine.execAtomlXchg d a sb q s
  | .atomlCas d a sb q => Sys2Proof.Machine.execAtomlCas d a sb q s
  | .atomwAddI32 d a sb q => Sys2Proof.Machine.execAtomwAddI32 d a sb q s
  | .atomwAddF32 d a sb q => Sys2Proof.Machine.execAtomwAddF32 d a sb q s
  | .atomwMinI32 d a sb q => Sys2Proof.Machine.execAtomwMinI32 d a sb q s
  | .atomwMaxI32 d a sb q => Sys2Proof.Machine.execAtomwMaxI32 d a sb q s
  | .atomwAnd d a sb q => Sys2Proof.Machine.execAtomwAnd d a sb q s
  | .atomwOr d a sb q => Sys2Proof.Machine.execAtomwOr d a sb q s
  | .atomwXchg d a sb q => Sys2Proof.Machine.execAtomwXchg d a sb q s
  | .atomwCas d a sb q => Sys2Proof.Machine.execAtomwCas d a sb q s
  | .mov d a y q => Sys2Proof.Machine.execMov d a y q s
  | .not d a y q => Sys2Proof.Machine.execNot d a y q s
  | .neg d a y q => Sys2Proof.Machine.execNeg d a y q s
  | .abs d a y q => Sys2Proof.Machine.execAbs d a y q s
  | .clzLane d a y q => Sys2Proof.Machine.execClzLane d a y q s
  | .popcLane d a y q => Sys2Proof.Machine.execPopcLane d a y q s
  | .brev d a y q => Sys2Proof.Machine.execBrev d a y q s
  | .sext8 d a y q => Sys2Proof.Machine.execSext8 d a y q s
  | .sext16 d a y q => Sys2Proof.Machine.execSext16 d a y q s
  | .fneg d a y q => Sys2Proof.Machine.execFneg d a y q s
  | .fabs d a y q => Sys2Proof.Machine.execFabs d a y q s
  | .frcp d a y q => Sys2Proof.Machine.execFrcp d a y q s
  | .frsq d a y q => Sys2Proof.Machine.execFrsq d a y q s
  | .fexp2 d a y q => Sys2Proof.Machine.execFexp2 d a y q s
  | .flog2 d a y q => Sys2Proof.Machine.execFlog2 d a y q s
  | .fsin d a y q => Sys2Proof.Machine.execFsin d a y q s
  | .fcos d a y q => Sys2Proof.Machine.execFcos d a y q s
  | .frnd d a y q => Sys2Proof.Machine.execFrnd d a y q s
  | .cvtfi d a y q => Sys2Proof.Machine.execCvtfi d a y q s
  | .cvtfiz d a y q => Sys2Proof.Machine.execCvtfiz d a y q s
  | .cvtif d a y q => Sys2Proof.Machine.execCvtif d a y q s
  | .cvtnf d a y q => Sys2Proof.Machine.execCvtnf d a y q s
  | .pkh d a y q => Sys2Proof.Machine.execPkh d a y q s
  | .pkbf d a y q => Sys2Proof.Machine.execPkbf d a y q s
  | .upkhl d a y q => Sys2Proof.Machine.execUpkhl d a y q s
  | .upkhh d a y q => Sys2Proof.Machine.execUpkhh d a y q s
  | .pk8e4 d a y q => Sys2Proof.Machine.execPk8e4 d a y q s
  | .pk8e5 d a y q => Sys2Proof.Machine.execPk8e5 d a y q s
  | .upk8e4 d a y q => Sys2Proof.Machine.execUpk8e4 d a y q s
  | .upk8e5 d a y q => Sys2Proof.Machine.execUpk8e5 d a y q s
  | .upkf4 d a y q => Sys2Proof.Machine.execUpkf4 d a y q s
  | .laneid d q => Sys2Proof.Machine.execLaneid d q s
  | .add d a b y z => Sys2Proof.Machine.execAdd d a b y z s
  | .sub d a b y z => Sys2Proof.Machine.execSub d a b y z s
  | .mul d a b y z => Sys2Proof.Machine.execMul d a b y z s
  | .mulh d a b y z => Sys2Proof.Machine.execMulh d a b y z s
  | .nmulhUniform d a b y z => Sys2Proof.Machine.execNmulhUniform d a b y z s
  | .andUniform d a b y z => Sys2Proof.Machine.execAndUniform d a b y z s
  | .orUniform d a b y z => Sys2Proof.Machine.execOrUniform d a b y z s
  | .xorUniform d a b y z => Sys2Proof.Machine.execXorUniform d a b y z s
  | .andnUniform d a b y z => Sys2Proof.Machine.execAndnUniform d a b y z s
  | .shlUniform d a b y z => Sys2Proof.Machine.execShlUniform d a b y z s
  | .shrUniform d a b y z => Sys2Proof.Machine.execShrUniform d a b y z s
  | .sarUniform d a b y z => Sys2Proof.Machine.execSarUniform d a b y z s
  | .min d a b y z => Sys2Proof.Machine.execMin d a b y z s
  | .max d a b y z => Sys2Proof.Machine.execMax d a b y z s
  | .nminUniform d a b y z => Sys2Proof.Machine.execNminUniform d a b y z s
  | .nmaxUniform d a b y z => Sys2Proof.Machine.execNmaxUniform d a b y z s
  | .seq d a b y z => Sys2Proof.Machine.execSeq d a b y z s
  | .sne d a b y z => Sys2Proof.Machine.execSne d a b y z s
  | .slt d a b y z => Sys2Proof.Machine.execSlt d a b y z s
  | .sltn d a b y z => Sys2Proof.Machine.execSltn d a b y z s
  | .sdiv d a b y z => Sys2Proof.Machine.execSdiv d a b y z s
  | .ndiv d a b y z => Sys2Proof.Machine.execNdiv d a b y z s
  | .srem d a b y z => Sys2Proof.Machine.execSrem d a b y z s
  | .nrem d a b y z => Sys2Proof.Machine.execNrem d a b y z s
  | .popcUniform d a y => Sys2Proof.Machine.execPopcUniform d a y s
  | .clzUniform d a y => Sys2Proof.Machine.execClzUniform d a y s
  | .addi d a im => Sys2Proof.Machine.execAddi d a im s
  | .andiUniform d a im => Sys2Proof.Machine.execAndiUniform d a im s
  | .oriUniform d a im => Sys2Proof.Machine.execOriUniform d a im s
  | .xoriUniform d a im => Sys2Proof.Machine.execXoriUniform d a im s
  | .shliUniform d a n => Sys2Proof.Machine.execShliUniform d a n s
  | .shriUniform d a n => Sys2Proof.Machine.execShriUniform d a n s
  | .sariUniform d a n => Sys2Proof.Machine.execSariUniform d a n s
  | .slti d a im => Sys2Proof.Machine.execSlti d a im s
  | .movw d q im k => Sys2Proof.Machine.execMovw d q im k s
  | .ldgs d a w x => Sys2Proof.Machine.execLdgs d a w x s
  | .stgs d a w x => Sys2Proof.Machine.execStgs d a w x s
  | .ldls d a w x => Sys2Proof.Machine.execLdls d a w x s
  | .stls d a w x => Sys2Proof.Machine.execStls d a w x s
  | .ldks d a w x => Sys2Proof.Machine.execLdks d a w x s
  | .vget d a l y => Sys2Proof.Machine.execVget d a l y s
  | .vput d a l => Sys2Proof.Machine.execVput d a l s
  | .ballot d a l y => Sys2Proof.Machine.execBallot d a l y s
  | .redlAddI32 d a y => Sys2Proof.Machine.execRedlAddI32 d a y s
  | .redlAddF32 d a y => Sys2Proof.Machine.execRedlAddF32 d a y s
  | .redlMinI32 d a y => Sys2Proof.Machine.execRedlMinI32 d a y s
  | .redlMaxI32 d a y => Sys2Proof.Machine.execRedlMaxI32 d a y s
  | .redlAnd d a y => Sys2Proof.Machine.execRedlAnd d a y s
  | .redlOr d a y => Sys2Proof.Machine.execRedlOr d a y s
  | .kmovFromLane a p y => Sys2Proof.Machine.execKmovFromLane a p y s
  | .kmovToLane a p => Sys2Proof.Machine.execKmovToLane a p s
  | .kand d a b => Sys2Proof.Machine.execKand d a b s
  | .kor d a b => Sys2Proof.Machine.execKor d a b s
  | .kxor d a b => Sys2Proof.Machine.execKxor d a b s
  | .kandn d a b => Sys2Proof.Machine.execKandn d a b s
  | .knot d a => Sys2Proof.Machine.execKnot d a s
  | .kfroms d a => Sys2Proof.Machine.execKfroms d a s
  | .ktos d a => Sys2Proof.Machine.execKtos d a s
  | .b u x => Sys2Proof.Machine.execB u x s
  | .bs u c a x => Sys2Proof.Machine.execBs u c a x s
  | .bk u m k x => Sys2Proof.Machine.execBk u m k x s
  | .call u x => Sys2Proof.Machine.execCall u x s
  | .jr a y => Sys2Proof.Machine.execJr a y s
  | .jrCall d a y => Sys2Proof.Machine.execJrCall d a y s
  | .jrReturn a y => Sys2Proof.Machine.execJrReturn a y s
  | .phase e c => Sys2Proof.Machine.execPhase e c s
  | .cbar e c => Sys2Proof.Machine.execCbar e c s
  | .arrive h => Sys2Proof.Machine.execArrive h s
  | .waitb h => Sys2Proof.Machine.execWaitb h s
  | .spin a x => Sys2Proof.Machine.execSpin a x s
  | .fenceAcquire sb => Sys2Proof.Machine.execFenceAcquire sb s
  | .fenceRelease sb => Sys2Proof.Machine.execFenceRelease sb s
  | .fenceFull sb => Sys2Proof.Machine.execFenceFull sb s
  | .fork a m => Sys2Proof.Machine.execFork a m s
  | .rend m => Sys2Proof.Machine.execRend m s
  | .elect d => Sys2Proof.Machine.execElect d s
  | .trap c => Sys2Proof.Machine.execTrap c s
  | .tret => Sys2Proof.Machine.execTret s
  | .sysc n => Sys2Proof.Machine.execSysc n s
  | .mfc d x => Sys2Proof.Machine.execMfc d x s
  | .mtc d x => Sys2Proof.Machine.execMtc d x s
  | .halt => Sys2Proof.Machine.execHalt s
  | .nop => Sys2Proof.Machine.execNop s
  | .rnxt d => Sys2Proof.Machine.execRnxt d s
  | .rjmp a => Sys2Proof.Machine.execRjmp a s
  | .rdraw d a b => Sys2Proof.Machine.execRdraw d a b s
  | .pgreq a => Sys2Proof.Machine.execPgreq a s
  | .launch a => Sys2Proof.Machine.execLaunch a s
  | .ntok a => Sys2Proof.Machine.execNtok a s
  | .mcfg a b c => Sys2Proof.Machine.execMcfg a b c s
  | .mma c a b x p l f => Sys2Proof.Machine.execMma c a b x p l f s
  | .mmax c a b x p l f => Sys2Proof.Machine.execMmax c a b x p l f s
  | .mmz c p => Sys2Proof.Machine.execMmz c p s
  | .mdrain c a b p => Sys2Proof.Machine.execMdrain c a b p s
  | .msave a c => Sys2Proof.Machine.execMsave a c s
  | .mload a c => Sys2Proof.Machine.execMload a c s
  | .msmx c a p => Sys2Proof.Machine.execMsmx c a p s
  | .mlint d c => Sys2Proof.Machine.execMlint d c s
  | .mtbl a => Sys2Proof.Machine.execMtbl a s
  | .copy d a => Sys2Proof.Machine.execCopy d a s
  | .copyw d a => Sys2Proof.Machine.execCopyw d a s
  | .mcast d a => Sys2Proof.Machine.execMcast d a s
  | .gath d a b => Sys2Proof.Machine.execGath d a b s
  | .scat d a b => Sys2Proof.Machine.execScat d a b s
  | .publ d a => Sys2Proof.Machine.execPubl d a s
  | .qpkt d a b => Sys2Proof.Machine.execQpkt d a b s
  | .puts d a b => Sys2Proof.Machine.execPuts d a b s
  | .getr d a => Sys2Proof.Machine.execGetr d a s
  | .coll d a => Sys2Proof.Machine.execColl d a s
  | .lbset d a => Sys2Proof.Machine.execLbset d a s
  | .lren d a b => Sys2Proof.Machine.execLren d a b s
  | .uatomAdd d a b y z e => Sys2Proof.Machine.execUatomAdd d a b y z e s
  | .uatomMin d a b y z e => Sys2Proof.Machine.execUatomMin d a b y z e s
  | .uatomMax d a b y z e => Sys2Proof.Machine.execUatomMax d a b y z e s
  | .uatomAnd d a b y z e => Sys2Proof.Machine.execUatomAnd d a b y z e s
  | .uatomOr d a b y z e => Sys2Proof.Machine.execUatomOr d a b y z e s
  | .uatomXor d a b y z e => Sys2Proof.Machine.execUatomXor d a b y z e s
  | .uatomXchg d a b y z e => Sys2Proof.Machine.execUatomXchg d a b y z e s
  | .uatomCas d a b y z e => Sys2Proof.Machine.execUatomCas d a b y z e s
  | .phaseBoundaryComplete t => Sys2Proof.Machine.execPhaseBoundaryComplete t s
  | .cbarBoundaryComplete cl => Sys2Proof.Machine.execCbarBoundaryComplete cl s
  | .teamEnd t => Sys2Proof.Machine.execTeamEnd t s
  | .barrierArrivalHeldCounted t hb => Sys2Proof.Machine.execBarrierArrivalHeldCounted t hb s
  | .homeRenewal n victim crcOk => Sys2Proof.Machine.execHomeRenewal n victim crcOk s
  | .renewalReply n victim => Sys2Proof.Machine.execRenewalReply n victim s
  | .homePublication n crcOk => Sys2Proof.Machine.execHomePublication n crcOk s
  | .publicationReply n => Sys2Proof.Machine.execPublicationReply n s
  | .homeAtomic n crcOk => Sys2Proof.Machine.execHomeAtomic n crcOk s
  | .atomicReply n => Sys2Proof.Machine.execAtomicReply n s
  | .uncachedAccessAtHome n crcOk => Sys2Proof.Machine.execUncachedAccessAtHome n crcOk s
  | .forcedVisibilityPoint t => Sys2Proof.Machine.execForcedVisibilityPoint t s
  | .daddUpdateArrival n => Sys2Proof.Machine.execDaddUpdateArrival n s
  | .gridBoundary gr => Sys2Proof.Machine.execGridBoundary gr s
  | .rebaseAdjustTimeout c => Sys2Proof.Machine.execRebaseAdjustTimeout c s
  | .rebaseComplete => Sys2Proof.Machine.execRebaseComplete s
  | .linkWake l => Sys2Proof.Machine.execLinkWake l s
  | .linkWakeTimeout l => Sys2Proof.Machine.execLinkWakeTimeout l s
  | .linkRetrainFailure l => Sys2Proof.Machine.execLinkRetrainFailure l s
  | .dieSelfFence d => Sys2Proof.Machine.execDieSelfFence d s
  | .dieDeclaredDead d => Sys2Proof.Machine.execDieDeclaredDead d s
  | .dieRejoin d => Sys2Proof.Machine.execDieRejoin d s
  | .hostWrite pa data => Sys2Proof.Machine.execHostWrite pa data s
  | .hostRead pa len own => Sys2Proof.Machine.execHostRead pa len own s
  | .hostLinkFailure => Sys2Proof.Machine.execHostLinkFailure s
  | .remoteResponse n ans => Sys2Proof.Machine.execRemoteResponse n ans s
  | .remoteTimeout n => Sys2Proof.Machine.execRemoteTimeout n s
  | .remoteAccessIngress src tag acc => Sys2Proof.Machine.execRemoteAccessIngress src tag acc s
  | .lsFillComplete t g => Sys2Proof.Machine.execLsFillComplete t g s
  | .lsStallTimeout t g => Sys2Proof.Machine.execLsStallTimeout t g s
  | .pageResident asid va pa => Sys2Proof.Machine.execPageResident asid va pa s
  | .readDuplicateCollapse asid va => Sys2Proof.Machine.execReadDuplicateCollapse asid va s
  | .engineCommandStart n => Sys2Proof.Machine.execEngineCommandStart n s
  | .enginePublication n => Sys2Proof.Machine.execEnginePublication n s
  | .engineCommandFault n status fva => Sys2Proof.Machine.execEngineCommandFault n status fva s
  | .ticketComplete n => Sys2Proof.Machine.execTicketComplete n s
  | .mcastLanding n pos => Sys2Proof.Machine.execMcastLanding n pos s
  | .queueSlotServe asid hdr => Sys2Proof.Machine.execQueueSlotServe asid hdr s
  | .putsSignal n => Sys2Proof.Machine.execPutsSignal n s
  | .collectiveMessage n shard vals digestOk => Sys2Proof.Machine.execCollectiveMessage n shard vals digestOk s
  | .collectivePartnerTimeout n status => Sys2Proof.Machine.execCollectivePartnerTimeout n status s
  | .engineRemoteTimeout n => Sys2Proof.Machine.execEngineRemoteTimeout n s
  | .lateReply n => Sys2Proof.Machine.execLateReply n s
  | .teamTrapHalt t => Sys2Proof.Machine.execTeamTrapHalt t s
  | .fpTrapCollectionClose t g => Sys2Proof.Machine.execFpTrapCollectionClose t g s
  | .misalignedEmulation t g => Sys2Proof.Machine.execMisalignedEmulation t g s
  | .handlerPlace t core => Sys2Proof.Machine.execHandlerPlace t core s
  | .watchdog t => Sys2Proof.Machine.execWatchdog t s
  | .teamPlace t core => Sys2Proof.Machine.execTeamPlace t core s
  | .quantExpiry t => Sys2Proof.Machine.execQuantExpiry t s
  | .preemptSchedulerChoice asid node => Sys2Proof.Machine.execPreemptSchedulerChoice asid node s
  | .preemptDrain asid node => Sys2Proof.Machine.execPreemptDrain asid node s
  | .preemptSave asid node => Sys2Proof.Machine.execPreemptSave asid node s
  | .preemptFlush asid node => Sys2Proof.Machine.execPreemptFlush asid node s
  | .drainLimitExpiry t => Sys2Proof.Machine.execDrainLimitExpiry t s
  | .carveOutChange c => Sys2Proof.Machine.execCarveOutChange c s
  | .carveOutTimeout c => Sys2Proof.Machine.execCarveOutTimeout c s
  | .coreRetire c => Sys2Proof.Machine.execCoreRetire c s
  | .coreReturn c => Sys2Proof.Machine.execCoreReturn c s
  | .cocoonOut p => Sys2Proof.Machine.execCocoonOut p s
  | .cocoonIn p => Sys2Proof.Machine.execCocoonIn p s
  | .graphSubmit asid => Sys2Proof.Machine.execGraphSubmit asid s
  | .launchRequest n => Sys2Proof.Machine.execLaunchRequest n s
  | .ntokRequest n => Sys2Proof.Machine.execNtokRequest n s
  | .nodeDispatch gi node place => Sys2Proof.Machine.execNodeDispatch gi node place s
  | .teamSteal thief victim => Sys2Proof.Machine.execTeamSteal thief victim s
  | .nodeCommit gr => Sys2Proof.Machine.execNodeCommit gr s
  | .nodeFail gr => Sys2Proof.Machine.execNodeFail gr s
  | .graphEnd gi => Sys2Proof.Machine.execGraphEnd gi s
  | .fabricStationDown st => Sys2Proof.Machine.execFabricStationDown st s
  | .deviceUnreachable dev => Sys2Proof.Machine.execDeviceUnreachable dev s
  | .gateDie d => Sys2Proof.Machine.execGateDie d s
  | .ungateDie d => Sys2Proof.Machine.execUngateDie d s
  | .dieReset d => Sys2Proof.Machine.execDieReset d s
  | .bar0RegisterWrite off val => Sys2Proof.Machine.execBar0RegisterWrite off val s
  | .d3hotEntry => Sys2Proof.Machine.execD3hotEntry s
  | .d0Return => Sys2Proof.Machine.execD0Return s
  | .auxiliaryPowerOnly => Sys2Proof.Machine.execAuxiliaryPowerOnly s
  | .moduleReset slotA slotB => Sys2Proof.Machine.execModuleReset slotA slotB s
  | .powerLimitSet watts => Sys2Proof.Machine.execPowerLimitSet watts s
  | .pldmBaseDiscovery => Sys2Proof.Machine.execPldmBaseDiscovery s
  | .pldmMonitoring id => Sys2Proof.Machine.execPldmMonitoring id s
  | .pldmFirmwareUpdate version valid => Sys2Proof.Machine.execPldmFirmwareUpdate version valid s
  | .getMeasurements => Sys2Proof.Machine.execGetMeasurements s
  | .rmaEntryRequest auth => Sys2Proof.Machine.execRmaEntryRequest auth s
  | .debugLevelRequest level auth => Sys2Proof.Machine.execDebugLevelRequest level auth s
  | .debugAccess acc => Sys2Proof.Machine.execDebugAccess acc s
  | .bridgeLinkSleep l => Sys2Proof.Machine.execBridgeLinkSleep l s
  | .bridgeLinkUp l => Sys2Proof.Machine.execBridgeLinkUp l s
  | .bridgeLinkDown l => Sys2Proof.Machine.execBridgeLinkDown l s
  | .fabricStationUp st acc => Sys2Proof.Machine.execFabricStationUp st acc s
  | .hostLinkRetrained => Sys2Proof.Machine.execHostLinkRetrained s
  | .hdmDecoderCommit base size => Sys2Proof.Machine.execHdmDecoderCommit base size s
  | .backInvalidateResponse gran data => Sys2Proof.Machine.execBackInvalidateResponse gran data s
  | .cxlCacheResponse pl data => Sys2Proof.Machine.execCxlCacheResponse pl data s
  | .pageRequestClosed asid va => Sys2Proof.Machine.execPageRequestClosed asid va s
  | .spdmSecuredSession => Sys2Proof.Machine.execSpdmSecuredSession s

end Sys2Proof.Machine
end

