-- ==== Sys2Proof/Machine/Issue.lean ====
section
/-!
DEFINITION. Issuing: the scoreboard (R64, R292), when an agent may issue (R63, R151, R230, R250, R332, R334, R393), what an
issue counts (R332, R334), and the performance of issued stores (R75, R229, R238).
-/

namespace Sys2Proof.Machine

open Sys2Proof

/-! ### The scoreboard (R64, R292) -/

/-- The registers that an instruction reads or writes. -/
structure Uses where
  v : List VReg
  s : List SReg
  k : List KReg
  deriving DecidableEq, Repr

/-- The lane registers of a memory operand: four of them for an access of 16 bytes (R150). -/
def wideRegs (w : LSize) (d : VReg) : List VReg :=
  match w with
  | .x4 => [d, vplus d 1, vplus d 2, vplus d 3]
  | _ => [d]

/-- The registers an instruction names, its ticket register apart (R291); events name none. -/
def Instr.uses (i : Instr) : Uses :=
  match i with
  | .iadd d a b _ _ q | .isub d a b _ _ q | .imul d a b _ _ q | .imulh d a b _ _ q | .nmulhLane d a b _ _ q
  | .imad d a b _ _ q | .imin d a b _ _ q | .imax d a b _ _ q | .nminLane d a b _ _ q | .nmaxLane d a b _ _ q
  | .andLane d a b _ _ q | .orLane d a b _ _ q | .xorLane d a b _ _ q | .andnLane d a b _ _ q
  | .shlLane d a b _ _ q | .shrLane d a b _ _ q | .sarLane d a b _ _ q | .hadd2 d a b _ _ q | .hsub2 d a b _ _ q
  | .hmin2 d a b _ _ q | .hmax2 d a b _ _ q | .hclt2 d a b _ _ q | .fadd d a b _ _ q | .fsub d a b _ _ q
  | .fmul d a b _ _ q | .ffma d a b _ _ q | .fmin d a b _ _ q | .fmax d a b _ _ q | .hfma2 d a b _ _ q
  | .bfma2 d a b _ _ q | .shfl d a b _ _ q => { v := [d, a, b], s := [], k := [kq q] }
  | .icmp p _ a b _ _ q | .ncmp p _ a b _ _ q | .fcmp p _ a b _ _ q => { v := [a, b], s := [], k := [p, kq q] }
  | .sel d a b _ _ k => { v := [d, a, b], s := [], k := [kq k] }
  | .shfliIndex d a _ _ q | .shfliUp d a _ _ q | .shfliDown d a _ _ q | .shfliXor d a _ _ q | .lscanAddI32 d a _ q
  | .lscanAddF32 d a _ q | .lscanMaxI32 d a _ q | .lscanMinI32 d a _ q | .iaddi d a _ _ q | .andiLane d a _ _ q
  | .oriLane d a _ _ q | .xoriLane d a _ _ q | .shliLane d a _ _ q | .shriLane d a _ _ q | .sariLane d a _ _ q
  | .mov d a _ q | .not d a _ q | .neg d a _ q | .abs d a _ q | .clzLane d a _ q | .popcLane d a _ q
  | .brev d a _ q | .sext8 d a _ q | .sext16 d a _ q | .fneg d a _ q | .fabs d a _ q | .frcp d a _ q
  | .frsq d a _ q | .fexp2 d a _ q | .flog2 d a _ q | .fsin d a _ q | .fcos d a _ q | .frnd d a _ q
  | .cvtfi d a _ q | .cvtfiz d a _ q | .cvtif d a _ q | .cvtnf d a _ q | .pkh d a _ q | .pkbf d a _ q
  | .upkhl d a _ q | .upkhh d a _ q | .pk8e4 d a _ q | .pk8e5 d a _ q | .upk8e4 d a _ q | .upk8e5 d a _ q
  | .upkf4 d a _ q => { v := [d, a], s := [], k := [kq q] }
  | .icmpi p _ a _ _ q => { v := [a], s := [], k := [p, kq q] }
  | .iadds d a s _ _ q | .imuls d a s _ _ q | .ffmas d a s _ _ q | .fmuls d a s _ _ q | .ldlt d a s _ _ q
  | .atomgAddI32 d a s q | .atomgAddF32 d a s q | .atomgMinI32 d a s q | .atomgMaxI32 d a s q | .atomgOr d a s q
  | .atomgXchg d a s q | .atomgDaddF32 d a s q | .atomlAddI32 d a s q | .atomlAddF32 d a s q
  | .atomlMinI32 d a s q | .atomlMaxI32 d a s q | .atomlAnd d a s q | .atomlOr d a s q | .atomlXchg d a s q
  | .atomwAddI32 d a s q | .atomwAddF32 d a s q | .atomwMinI32 d a s q | .atomwMaxI32 d a s q | .atomwAnd d a s q
  | .atomwOr d a s q | .atomwXchg d a s q => { v := [d, a], s := [s], k := [kq q] }
  | .bcast d s _ q => { v := [d], s := [s], k := [kq q] }
  | .ldg d a s w _ q | .stg d a s w _ q | .ldl d a s w _ q | .stl d a s w _ q | .ldw d a s w _ q
  | .stw d a s w _ q | .ldk d a s w _ q => { v := wideRegs w d ++ [a], s := [s], k := [kq q] }
  | .ldgp d a s p q => { v := [d, a], s := [s], k := [p, kq q] }
  | .atomgCas d a s q | .atomlCas d a s q | .atomwCas d a s q => { v := [d, vplus d 1, a], s := [s], k := [kq q] }
  | .laneid d q => { v := [d], s := [], k := [kq q] }
  | .add d a b _ _ | .sub d a b _ _ | .mul d a b _ _ | .mulh d a b _ _ | .nmulhUniform d a b _ _
  | .andUniform d a b _ _ | .orUniform d a b _ _ | .xorUniform d a b _ _ | .andnUniform d a b _ _
  | .shlUniform d a b _ _ | .shrUniform d a b _ _ | .sarUniform d a b _ _ | .min d a b _ _ | .max d a b _ _
  | .nminUniform d a b _ _ | .nmaxUniform d a b _ _ | .seq d a b _ _ | .sne d a b _ _ | .slt d a b _ _
  | .sltn d a b _ _ | .sdiv d a b _ _ | .ndiv d a b _ _ | .srem d a b _ _ | .nrem d a b _ _ | .rdraw d a b
  | .uatomAdd d a b _ _ _ | .uatomMin d a b _ _ _ | .uatomMax d a b _ _ _ | .uatomAnd d a b _ _ _
  | .uatomOr d a b _ _ _ | .uatomXor d a b _ _ _ | .uatomXchg d a b _ _ _ | .uatomCas d a b _ _ _ => { v := [], s := [d, a, b], k := [] }
  | .popcUniform d a _ | .clzUniform d a _ | .addi d a _ | .andiUniform d a _ | .oriUniform d a _
  | .xoriUniform d a _ | .shliUniform d a _ | .shriUniform d a _ | .sariUniform d a _ | .slti d a _
  | .ldgs d a _ _ | .stgs d a _ _ | .ldls d a _ _ | .stls d a _ _ | .ldks d a _ _ | .jrCall d a _ => { v := [], s := [d, a], k := [] }
  | .movw d _ _ _ | .elect d | .mfc d _ | .mtc d _ | .rnxt d => { v := [], s := [d], k := [] }
  | .vget d a _ _ | .vput d a _ | .ballot d a _ _ | .redlAddI32 d a _ | .redlAddF32 d a _ | .redlMinI32 d a _
  | .redlMaxI32 d a _ | .redlAnd d a _ | .redlOr d a _ => { v := [a], s := [d], k := [] }
  | .kmovFromLane a p _ | .kmovToLane a p => { v := [a], s := [], k := [p] }
  | .kand d a b | .kor d a b | .kxor d a b | .kandn d a b => { v := [], s := [], k := [d, a, b] }
  | .knot d a => { v := [], s := [], k := [d, a] }
  | .kfroms d a => { v := [], s := [a], k := [d] }
  | .ktos d a => { v := [], s := [d], k := [a] }
  | .b _ _ | .phase _ _ | .cbar _ _ | .arrive _ | .waitb _ | .fenceAcquire _ | .fenceRelease _ | .fenceFull _
  | .rend _ | .trap _ | .tret | .sysc _ | .halt | .nop | .mmz _ _ | .phaseBoundaryComplete _
  | .cbarBoundaryComplete _ | .teamEnd _ | .barrierArrivalHeldCounted _ _ | .homeRenewal _ _ _ | .renewalReply _ _
  | .homePublication _ _ | .publicationReply _ | .homeAtomic _ _ | .atomicReply _ | .uncachedAccessAtHome _ _
  | .forcedVisibilityPoint _ | .daddUpdateArrival _ | .gridBoundary _ | .rebaseAdjustTimeout _ | .rebaseComplete
  | .linkWake _ | .linkWakeTimeout _ | .linkRetrainFailure _ | .dieSelfFence _ | .dieDeclaredDead _ | .dieRejoin _
  | .hostWrite _ _ | .hostRead _ _ _ | .hostLinkFailure | .remoteResponse _ _ | .remoteTimeout _
  | .remoteAccessIngress _ _ _ | .lsFillComplete _ _ | .lsStallTimeout _ _ | .pageResident _ _ _
  | .readDuplicateCollapse _ _ | .engineCommandStart _ | .enginePublication _ | .engineCommandFault _ _ _
  | .ticketComplete _ | .mcastLanding _ _ | .queueSlotServe _ _ | .putsSignal _ | .collectiveMessage _ _ _ _
  | .collectivePartnerTimeout _ _ | .engineRemoteTimeout _ | .lateReply _ | .teamTrapHalt _
  | .fpTrapCollectionClose _ _ | .misalignedEmulation _ _ | .handlerPlace _ _ | .watchdog _ | .teamPlace _ _
  | .quantExpiry _ | .preemptSchedulerChoice _ _ | .preemptDrain _ _ | .preemptSave _ _ | .preemptFlush _ _
  | .drainLimitExpiry _ | .carveOutChange _ | .carveOutTimeout _ | .coreRetire _ | .coreReturn _ | .cocoonOut _
  | .cocoonIn _ | .graphSubmit _ | .launchRequest _ | .ntokRequest _ | .nodeDispatch _ _ _ | .teamSteal _ _
  | .nodeCommit _ | .nodeFail _ | .graphEnd _ | .fabricStationDown _ | .deviceUnreachable _ | .gateDie _
  | .ungateDie _ | .dieReset _ | .bar0RegisterWrite _ _ | .d3hotEntry | .d0Return | .auxiliaryPowerOnly
  | .moduleReset _ _ | .powerLimitSet _ | .pldmBaseDiscovery | .pldmMonitoring _ | .pldmFirmwareUpdate _ _
  | .getMeasurements | .rmaEntryRequest _ | .debugLevelRequest _ _ | .debugAccess _ | .bridgeLinkSleep _
  | .bridgeLinkUp _ | .bridgeLinkDown _ | .fabricStationUp _ _ | .hostLinkRetrained | .hdmDecoderCommit _ _
  | .backInvalidateResponse _ _ | .cxlCacheResponse _ _ | .pageRequestClosed _ _ | .spdmSecuredSession => { v := [], s := [], k := [] }
  | .bs _ _ a _ | .jr a _ | .jrReturn a _ | .spin a _ | .fork a _ | .rjmp a | .pgreq a | .launch a | .ntok a
  | .msave a _ | .mload a _ | .mtbl a | .copy _ a | .copyw _ a | .mcast _ a | .publ _ a | .getr _ a | .coll _ a
  | .lbset _ a => { v := [], s := [a], k := [] }
  | .bk _ _ k _ => { v := [], s := [], k := [k] }
  | .call _ _ => { v := [], s := [62], k := [] }
  | .mcfg a b _ | .gath _ a b | .scat _ a b | .qpkt _ a b | .puts _ a b | .lren _ a b => { v := [], s := [a, b], k := [] }
  | .mma _ a b x _ _ _ | .mmax _ a b x _ _ _ => { v := [a, b], s := [x], k := [] }
  | .mdrain _ a b _ => { v := [a, b], s := [], k := [] }
  | .msmx _ a _ => { v := [a], s := [], k := [] }
  | .mlint d _ => { v := [], s := [d, splus d 1], k := [] }

/-- Lane registers from `r` on. -/
def regRun (r : VReg) (n : Nat) : List VReg := (List.range n).map (vplus r)

/-- The further lane registers that a matrix instruction reads or writes under the tile's configuration (R201, R208,
R210). -/
def State.matrixRegs (s : State) (i : Instr) : List VReg :=
  match i with
  | .mma c a b _ p _ _ =>
    let t := s.tile c.val
    regRun a (blockRegs (pAfmt t.pleat)) ++ regRun b (blockRegs (pBfmt t.pleat) * (if p then 2 else 1))
  | .mmax c a b _ p _ _ =>
    let t := s.tile c.val
    regRun a (blockRegs (pAfmt t.pleat)) ++ regRun b (blockRegs (pBfmt t.pleat) * (if p then 2 else 1))
  | .mdrain c a b p =>
    let cols := if p then 64 else 32
    regRun a (cols / drainPer (drainFmt (s.tile c.val).cfg)) ++ regRun b (cols / 32)
  | .msmx c a p => regRun a ((if p then 64 else 32) / drainPer (cField (s.tile c.val).cfg 7 4))
  | _ => []

def Group.pendingV (g : Group) (r : VReg) : Bool := g.outs.any (fun o => o.dest.vregs.contains r)
def Group.pendingK (g : Group) (r : KReg) : Bool := g.outs.any (fun o => o.dest.kregs.contains r)

/-- An instruction with an effect that lasts outside the registers of its group. -/
def lasting (i : Instr) : Bool :=
  match i with
  | .atomgAddI32 _ _ _ _ | .atomgAddF32 _ _ _ _ | .atomgMinI32 _ _ _ _ | .atomgMaxI32 _ _ _ _ | .atomgOr _ _ _ _
  | .atomgXchg _ _ _ _ | .atomgCas _ _ _ _ | .atomgDaddF32 _ _ _ _ | .atomlAddI32 _ _ _ _ | .atomlAddF32 _ _ _ _
  | .atomlMinI32 _ _ _ _ | .atomlMaxI32 _ _ _ _ | .atomlAnd _ _ _ _ | .atomlOr _ _ _ _ | .atomlXchg _ _ _ _
  | .atomlCas _ _ _ _ | .atomwAddI32 _ _ _ _ | .atomwAddF32 _ _ _ _ | .atomwMinI32 _ _ _ _ | .atomwMaxI32 _ _ _ _
  | .atomwAnd _ _ _ _ | .atomwOr _ _ _ _ | .atomwXchg _ _ _ _ | .atomwCas _ _ _ _ | .uatomAdd _ _ _ _ _ _
  | .uatomMin _ _ _ _ _ _ | .uatomMax _ _ _ _ _ _ | .uatomAnd _ _ _ _ _ _ | .uatomOr _ _ _ _ _ _ | .uatomXor _ _ _ _ _ _
  | .uatomXchg _ _ _ _ _ _ | .uatomCas _ _ _ _ _ _ | .mma _ _ _ _ _ _ _ | .mmax _ _ _ _ _ _ _ | .mmz _ _ | .mcfg _ _ _
  | .mdrain _ _ _ _ | .msmx _ _ _ | .mlint _ _ | .msave _ _ | .mload _ _ | .mtbl _ | .phase _ _ | .cbar _ _ | .arrive _
  | .waitb _ | .fenceAcquire _ | .fenceRelease _ | .fenceFull _ | .spin _ _ | .fork _ _ | .trap _ | .sysc _ | .tret | .halt
  | .mtc _ _ | .pgreq _ | .launch _ | .ntok _ | .copy _ _ | .copyw _ _ | .mcast _ _ | .gath _ _ _ | .scat _ _ _ | .publ _ _
  | .qpkt _ _ _ | .puts _ _ _ | .getr _ _ | .coll _ _ | .lbset _ _ | .lren _ _ _ => true
  | _ => false

/-- A store of the current agent leaves its core as it issues: some lane names an UNCACHED or a REMOTE page (R234, R259). -/
def State.storesAway (s : State) (i : Instr) : Bool :=
  let g := s.grp
  let away (xs : List LaneAcc) : Bool := xs.any (fun x =>
    let at_ := s.attrAt s.cur.1 x.va
    at_ == .uncached || at_ == .remote)
  match i with
  | .stg _ a b w _ q => away (g.accesses a b q (lsizeBytes w))
  | .stgs _ a w x => away [{ lane := 0, va := g.uniAddr a w x, n := usizeBytes w }]
  | _ => false

/-- A register of the instruction is pending, or it has an effect that would last though an access of its group is refused: its group
waits (R50, R56, R64, R292; DEDUCED, log entry 17). -/
def State.mustWait (s : State) (t a : Nat) (i : Instr) : Bool :=
  let g := s.agent t a
  if g.outs.isEmpty && g.tickets.isEmpty then false
  else
    let u := Instr.uses i
    let s0 : State := { s with cur := (t, a) }
    (!g.outs.isEmpty && (lasting i || s0.storesAway i)) || (u.v ++ s0.matrixRegs i).any g.pendingV || u.s.any (fun r => r.val != 63 && g.pendingS r)
      || u.k.any g.pendingK

/-! ### When an agent may issue -/

/-- Further instructions that an agent may issue while its team halts: 3, a side sequencer 24 (R332). -/
def skidLimit (a : Nat) : Nat := if a < 16 then 3 else 24

/-- The status of an agent lets it issue, or issue again what it waits at. -/
def Group.canGo (g : Group) (a : Nat) (halting : Bool) : Bool :=
  match g.status with
  | .run => !halting || decide (g.skid < skidLimit a)
  | .fence _ => !halting
  | .fork _ => !halting
  | .waitb => !halting
  | .block _ => !halting
  | _ => false

/-- No team of the cluster waits for its first placement (R151). -/
def State.clusterPlaced (s : State) (t : Nat) : Bool := (s.clusterOf t).all (fun u => (s.teamOf u).status != .queued)

/-- The device runs: it has power and its firmware, and is in D0 (R393, R398). -/
def Dev.running (d : Dev) : Bool := d.power && d.rdy && !d.d3

/-- Agent `a` is a group of team `t`, or a side sequencer that runs. -/
def State.hasAgent (s : State) (t a : Nat) : Bool :=
  if a < 16 then decide (a < (s.teamOf t).ngrp) else decide (a < 18) && (s.agent t a).seqSt == 1

/-- A team stands at a boundary where a carve-out change holds it, or where it is to leave (R270, R317, R328). -/
def State.heldAtB (s : State) (t : Nat) : Bool :=
  let x := s.teamOf t
  x.atB && (x.request.isSome || !(s.coreOf x.core).l1next.isEmpty)

/-- Agent `a` of team `t` may issue. -/
def State.mayIssue (s : State) (t a : Nat) : Bool :=
  let x := s.teamOf t
  s.dev.running && x.status == .placed && s.coreRuns t && s.hasAgent t a && s.clusterPlaced t && !x.forced && !s.heldAtB t
    && s.fetchReaches t a && (s.agent t a).canGo a x.trap.isSome && !s.windowCloses t a

/-! ### Issuing -/

/-- Instructions that move the PC by themselves. -/
def jumps (i : Instr) : Bool :=
  match i with
  | .phase _ _ => false
  | .cbar _ _ => false
  | j => closesWindow j

/-- The instruction writes a cluster window. -/
def writesCluster (i : Instr) : Bool :=
  match i with
  | .stw _ _ _ _ _ _ | .atomwAddI32 _ _ _ _ | .atomwAddF32 _ _ _ _ | .atomwMinI32 _ _ _ _ | .atomwMaxI32 _ _ _ _
  | .atomwAnd _ _ _ _ | .atomwOr _ _ _ _ | .atomwXchg _ _ _ _ | .atomwCas _ _ _ _ => true
  | _ => false

/-- An issue of agent `a`, whose group was `g0` before, counts towards the skid of a halting team and towards the 64
instructions of an open collection window (R332, R334); a group that has issued has left its boundary behind (R317), and an access that
is held for an absent team has issued (R317, R318, R327). -/
def State.noteIssue (s : State) (t a : Nat) (i : Instr) (halting : Bool) (g0 : Group) : State :=
  let g := s.agent t a
  let moved := jumps i || g.pcs != g0.pcs || g.active != g0.active
  let s1 := if moved then (s.countIssue t a halting g0).issued t a else s
  let held := s1.net.held.any (fun p => (p.1, p.2.1) == (t, a))
  let s2 := if writesCluster i && held then s1.usedWindow t else s1
  let x := s2.teamOf t
  if x.atB && decide (a < 16) && (moved || held || g.status != g0.status) then s2.setTeamOf t { x with atB := false } else s2

/-- Note an issue in a next state. -/
def noteOut (o : Out) (f : State → State) : Out :=
  match o with
  | .next s => .next (f s)
  | r => r

/-- What the fetch of a group waits for: what the host holds exclusively of a HOSTED line of code, and of the tables that map it; it is
asked for (R257, R271, R277). -/
def State.fetchFirst (s : State) (t a : Nat) : Option State :=
  match s.fetchGranules t a with
  | [] => none
  | gs => some (s.snoop gs false)

/-- What the checks of an instruction wait for: what the host holds exclusively of the tables that they walk, or of a seed; it is asked for
(R257, R277). -/
def State.accessFirst (s : State) (t a : Nat) (i : Instr) : Option State :=
  match ({ s with cur := (t, a) } : State).accessGranules i with
  | [] => none
  | gs => some (s.snoop gs false)

/-- What the agent is to issue would trap, or is no instruction, while an access that issued before it may still be refused: it waits,
so that the earlier of the two is the one that traps (R50, R56; DEDUCED, log entry 17). -/
def State.trapWaits (s : State) (t a : Nat) : Bool :=
  !(s.agent t a).outs.isEmpty && (match s.fetch t a with
    | .illegal => true
    | .stops (.trap _ _) => true
    | .stops _ => false
    | .instr i => match exec i { s with cur := (t, a) } with
      | .next s1 => (s1.agent t a).status == .trapped || (s1.agent t a).status == .emul
      | _ => false)

/-- Agent `a` of team `t` issues what it fetches, unless a register of it is pending or an earlier access comes first (R57, R59, R64). -/
def State.issue (s : State) (t a : Nat) : Out :=
  let s0 : State := { s with cur := (t, a) }
  match s.fetchFirst t a, s.fetch t a with
  | some s1, _ => .next s1
  | none, .stops c => .next (if s.trapWaits t a then s0 else s0.stop (verdict [c]) false)
  | none, .illegal => .next (if s.trapWaits t a then s0 else s0.raise trapIllegal 0)
  | none, .instr i =>
    if s.mustWait t a i || s.trapWaits t a then .next s0
    else match s.accessFirst t a i with
    | some s1 => .next s1
    | none => noteOut (exec i s0) (fun s1 => s1.noteIssue t a i (s.teamOf t).trap.isSome (s.agent t a))

/-! ### Held accesses of teams that are away (R327, R331) -/

/-- The lane registers that an access of a cluster window loads, and the predicate under which its lanes act. -/
def loadsCluster (i : Instr) : List VReg × Fin 4 :=
  match i with
  | .ldw d _ _ w _ q => (wideRegs w d, q)
  | .atomwAddI32 d _ _ q | .atomwAddF32 d _ _ q | .atomwMinI32 d _ _ q | .atomwMaxI32 d _ _ q | .atomwAnd d _ _ q
  | .atomwOr d _ _ q | .atomwXchg d _ _ q | .atomwCas d _ _ q => ([d], q)
  | _ => ([], 0)

/-- A held access of an agent whose team has been switched out is to be delivered now: the team that it names is resident again, and
nothing of another agent comes before it (R327). -/
def State.heldServes (s : State) (t a : Nat) : Bool :=
  s.dev.running && (s.teamOf t).status != .placed && s.deliverable t && s.net.held.any (fun p =>
    (p.1, p.2.1) == (t, a) && s.onCore p.2.2 && !({ s with cur := (t, a) } : State).behindHeld p.2.2)

/-- Deliver a held access: it is performed, and what it loads in each acting lane is a late reply; a page that it needs is filled
first (R266, R327, R331). -/
def State.serveHeld (s : State) (t a : Nat) : State :=
  let s0 : State := { s with cur := (t, a) }
  let g := s.agent t a
  match s.fetch t a with
  | .instr i =>
    if !writesCluster i && (loadsCluster i).1.isEmpty then s
    else match exec i s0 with
    | .next s1 =>
      let g1 := s1.agent t a
      match g1.status with
      | .stall ps => s.fillPages ps
      | _ =>
        if g1.pcs = g.pcs then s
        else
          let es := (loadsCluster i).1.flatMap (fun r => (g.actors (loadsCluster i).2).map (fun l =>
            ({ lane := l, reg := r.val, grp := a, kind := 0, value := BitVec.ofNat 64 (g1.lane r l).toNat } : LateReply)))
          let x := s1.teamOf t
          ((s1.setTeamOf t { x with late := x.late ++ es }).issued t a).writeLate t
    | _ => s
  | _ => s

/-- An agent whose turn it is issues, if it may; an access of it that is held while its team is away is delivered. -/
def State.issueTurn (s : State) (t a : Nat) : Out :=
  if s.mayIssue t a then s.issue t a else if s.heldServes t a then .next (s.serveHeld t a) else .next s

/-- A turn of the agent would not just wait, for a register or for the host. -/
def State.goes (s : State) (t a : Nat) : Bool :=
  if s.mayIssue t a then
    match s.fetchFirst t a, s.fetch t a with
    | some s1, _ => decide (s1 ≠ s)
    | none, .instr i => !s.mustWait t a i && !s.trapWaits t a && (match s.accessFirst t a i with
      | some s1 => decide (s1 ≠ s)
      | none => true)
    | none, _ => !s.trapWaits t a
  else s.heldServes t a && decide (s.serveHeld t a ≠ s)

/-! ### Performing stores (R75, R229, R238) -/

/-- Store `n` of an agent may be performed: no earlier one of the agent goes to the same target, and no earlier access can be refused.
One to the window of another team that is resident is on its way there, though its own team has been switched out (R238, R327). -/
def State.mayPerform (s : State) (t a n : Nat) : Bool :=
  let l := (s.agent t a).stores
  let gone (p : PStore) : Bool := match p.target with
    | .window u => u != t && s.onCore u && (s.teamOf t).status != .placed && s.deliverable t
    | .global => false
  match l[n]? with
  | none => false
  | some p => (s.onCore t || gone p) && !(l.take n).any (fun q => q.target == p.target)
      && (s.agent t a).settled p

/-- Perform store `n` of agent `a`, once its page has a frame. -/
def State.performNth (s : State) (t a n : Nat) : State :=
  match (s.agent t a).stores[n]? with
  | none => s
  | some p =>
    if !s.mayPerform t a n then s
    else
      let s1 := s.fillFor p
      if !s1.canPerform t p then s1
      else
        let s2 := s1.setAgent t a { s1.agent t a with stores := (s1.agent t a).stores.eraseIdx n }
        s2.performStore t p

end Sys2Proof.Machine
end

