-- ==== Sys2Proof/Machine/Turns.lean ====
section
/-!
DEFINITION. Turns: what a turn does, the events that the device can bring about by itself, and whose turn it is when none
is laid down in the agenda. The manual orders concurrent agents only as its rules say; the agenda is plain data, so that
every other order is a state of its own (DESIGN CHOICE, log entries 1 and 2; unsafe for a claim about a whole run).
-/

namespace Sys2Proof.Machine

open Sys2Proof

/-! ### Events that the device brings about -/

/-- The effect of an event that the device brings about by itself: that of its row of the opcode table, with no eviction
and no corrupt line, which only an outside event can bring. -/
def Auto.run (k : Auto) (s : State) : Out :=
  match k with
  | .phaseBoundaryComplete t => execPhaseBoundaryComplete t s
  | .cbarBoundaryComplete cl => execCbarBoundaryComplete cl s
  | .teamEnd t => execTeamEnd t s
  | .barrierArrivalHeldCounted t hb => execBarrierArrivalHeldCounted t hb s
  | .homeRenewal n => execHomeRenewal n none true s
  | .renewalReply n => execRenewalReply n none s
  | .homePublication n => execHomePublication n true s
  | .publicationReply n => execPublicationReply n s
  | .homeAtomic n => execHomeAtomic n true s
  | .atomicReply n => execAtomicReply n s
  | .uncachedAccessAtHome n => execUncachedAccessAtHome n true s
  | .forcedVisibilityPoint t => execForcedVisibilityPoint t s
  | .daddUpdateArrival n => execDaddUpdateArrival n s
  | .gridBoundary gr => execGridBoundary gr s
  | .rebaseComplete => execRebaseComplete s
  | .linkWake l => execLinkWake l s
  | .dieSelfFence d => execDieSelfFence d s
  | .dieDeclaredDead d => execDieDeclaredDead d s
  | .dieRejoin d => execDieRejoin d s
  | .lsFillComplete t g => execLsFillComplete t g s
  | .readDuplicateCollapse asid va => execReadDuplicateCollapse asid va s
  | .engineCommandStart n => execEngineCommandStart n s
  | .enginePublication n => execEnginePublication n s
  | .ticketComplete n => execTicketComplete n s
  | .mcastLanding n pos => execMcastLanding n pos s
  | .queueSlotServe asid hdr => execQueueSlotServe asid hdr s
  | .putsSignal n => execPutsSignal n s
  | .remoteAccessIngress n => .next (s.retryIngress n)
  | .lateReply n => execLateReply n s
  | .teamTrapHalt t => execTeamTrapHalt t s
  | .fpTrapCollectionClose t g => execFpTrapCollectionClose t g s
  | .misalignedEmulation t g => execMisalignedEmulation t g s
  | .handlerPlace t core => execHandlerPlace t core s
  | .teamPlace t core => execTeamPlace t core s
  | .preemptSchedulerChoice asid node => execPreemptSchedulerChoice asid node s
  | .preemptDrain asid node => execPreemptDrain asid node s
  | .preemptSave asid node => execPreemptSave asid node s
  | .preemptFlush asid node => execPreemptFlush asid node s
  | .carveOutChange c => execCarveOutChange c s
  | .coreRetire c => execCoreRetire c s
  | .coreReturn c => execCoreReturn c s
  | .cocoonOut p => execCocoonOut p s
  | .cocoonIn p => execCocoonIn p s
  | .graphSubmit asid => execGraphSubmit asid s
  | .launchRequest n => execLaunchRequest n s
  | .ntokRequest n => execNtokRequest n s
  | .nodeDispatch gi node place => execNodeDispatch gi node place s
  | .nodeCommit gr => execNodeCommit gr s
  | .nodeFail gr => execNodeFail gr s
  | .failureStep gi n => .next (s.failureStep gi n)
  | .graphEnd gi => execGraphEnd gi s
  | .gateDie d => execGateDie d s
  | .ungateDie d => execUngateDie d s
  | .dieReset d => execDieReset d s

/-! ### Candidates -/

/-- Requests, replies and engine commands in flight that may move on. -/
def State.netCandidates (s : State) : List Auto :=
  let n := s.net
  (List.range n.reps.length).flatMap (fun i => [.renewalReply i, .publicationReply i, .atomicReply i, .lateReply i])
    ++ (List.range n.reqs.length).flatMap (fun i =>
      [.homeRenewal i, .homePublication i, .homeAtomic i, .uncachedAccessAtHome i, .daddUpdateArrival i])
    ++ n.cmds.flatMap (fun c =>
      [Auto.engineCommandStart c.id, .enginePublication c.id] ++ c.await.map (Auto.mcastLanding c.id)
        ++ [.putsSignal c.id, .ticketComplete c.id])
    ++ (List.range n.ingress.length).map Auto.remoteAccessIngress
    ++ n.collapse.map (fun p => Auto.readDuplicateCollapse p.1 p.2)

/-- Cores on which a team may be placed: its own first. -/
def State.coresFor (s : State) (t : Nat) : List Nat :=
  let x := s.teamOf t
  x.core :: (if x.status = .queued then [] else List.range 288)

/-- What a team's own course may bring about. -/
def State.teamCandidates (s : State) (t : Nat) : List Auto :=
  let x := s.teamOf t
  match x.status with
  | .placed =>
    [.teamTrapHalt t, .forcedVisibilityPoint t] ++ x.hbHeld.map (fun p => Auto.barrierArrivalHeldCounted t p.1)
      ++ x.agents.flatMap (fun a => [.lsFillComplete t a, .misalignedEmulation t a, .fpTrapCollectionClose t a])
      ++ [.phaseBoundaryComplete t, .cbarBoundaryComplete x.cluster, .teamEnd t]
  | .trapped => (s.coresFor t).map (Auto.handlerPlace t)
  | .queued => (s.coresFor t).map (Auto.teamPlace t)
  | .saved => (s.coresFor t).map (Auto.teamPlace t)
  | .atBoundary => (s.coresFor t).map (Auto.teamPlace t)
  | .cocooned => []
  | .ended => []

/-- Contexts whose descriptors memory lists. -/
def State.listedContexts (s : State) : List Nat :=
  let b := s.dev.ctxtab.toNat
  distinct (s.mem.filterMap (fun p => if b ≤ p.1 && decide (p.1 < b + 0x400000) then some ((p.1 - b) / 64) else none))

/-- What the graph engine and the control die may do. -/
def State.dieCandidates (s : State) : List Auto :=
  s.grids.flatMap (fun p => [Auto.gridBoundary p.1, .nodeFail p.1, .nodeCommit p.1])
    ++ (List.range s.net.graphRq.length).flatMap (fun i => [.launchRequest i, .ntokRequest i])
    ++ (match s.poolPick with
      | some x => [.nodeDispatch x.1 x.2 []]
      | none => [])
    ++ (List.range s.graphs.length).flatMap (fun gi =>
      (List.range (s.graphAt gi).fails.length).map (Auto.failureStep gi) ++ [Auto.graphEnd gi])
    ++ s.listedContexts.map Auto.graphSubmit
    ++ [.rebaseComplete, .linkWake 0, .linkWake 1, .linkWake 2, .dieSelfFence 0, .dieSelfFence 1]
    ++ (([0, 1] : List (Fin 2)).flatMap (fun d =>
      (if (s.dieAt d.val).fenced then [Auto.dieDeclaredDead d] else []) ++ (if s.dev.gate.getLsbD d.val then [Auto.gateDie d] else [])))
    ++ s.dev.moves.map (fun m =>
      let p : Fin 8 := ⟨m.1 % 8, Nat.mod_lt _ (by decide)⟩
      if m.2 then Auto.cocoonIn p else Auto.cocoonOut p)
    ++ (Tab.keys s.cores).map Auto.carveOutChange

/-- Every event that the device might bring about now. -/
def State.candidates (s : State) : List Auto := s.netCandidates ++ s.teamKeys.flatMap s.teamCandidates ++ s.dieCandidates

/-- A step has taken J, the time of a core's copy engine or the rts of a line or of a shadow line to 2^32 − 1 while a rebase is
outstanding: `s0` is the state
before it (R246). -/
def State.passes (s0 s : State) : Bool :=
  let far (a b : Nat) : Bool := decide (a < 2 ^ 32 - 1) && decide (2 ^ 32 - 1 ≤ b)
  s0.dev.rebase && (far s0.dev.j s.dev.j || s.cores.any (fun p => far (s0.coreOf p.1).engT p.2.engT)
    || s.lines.any (fun p => far (s0.hline p.1).rts p.2.rts)
    || s.grids.any (fun p => p.2.shadow.any (fun q => far (Tab.get { wts := 0, rts := 0, bytes := [], written := [] } (s0.gridOf p.1).shadow q.1).rts q.2.rts)))

/-- What would take a time to 2^32 − 1 while a rebase is outstanding waits for the rebase to complete (R246; DEDUCED, log entry 89). -/
def State.holdLate (s : State) (o : Out) : Out :=
  match o with
  | .next s1 => if s.passes s1 then .next s else .next s1
  | r => r

/-- The outcome of an event, if it has an effect. -/
def State.effect (s : State) (k : Auto) : Option Out :=
  match s.holdLate (k.run s) with
  | .next s' => if s' = s then none else some (.next s')
  | r => some r

/-! ### Whose turn it is -/

/-- The first store of an agent that can be performed now. -/
def State.storeEffect (s : State) (t a : Nat) : Option Out :=
  if (s.agent t a).stores.isEmpty then none
  else
    let s' := s.performNth t a 0
    if s' = s then none else some (.next s')

/-- Every agent of every team, (team, agent). -/
def State.allAgents (s : State) : List (Nat × Nat) := s.teamKeys.flatMap (fun t => (s.teamOf t).agents.map (fun a => (t, a)))

/-- The agents in the order of their turns: those after the agent that issued last come first. -/
def State.roundRobin (s : State) : List (Nat × Nat) :=
  let l := s.allAgents
  let key (p : Nat × Nat) : Nat := agentKey p.1 p.2
  l.filter (fun p => decide (key s.cur < key p)) ++ l.filter (fun p => decide (key p ≤ key s.cur))

/-- The step that the machine takes of its own: an event that it can bring about, else a store that can be performed,
else the issue of the agent whose turn it is; a machine with nothing to do stays as it is. -/
def State.ownTurn (s : State) : Out :=
  match (if s.dev.running then s.candidates.findSome? s.effect else none) with
  | some r => r
  | none => match s.allAgents.findSome? (fun p => s.storeEffect p.1 p.2) with
    | some r => r
    | none => match s.roundRobin.find? (fun p => s.goes p.1 p.2) with
      | some p => s.holdLate (s.issueTurn p.1 p.2)
      | none => .next s

/-! ### Uncorrectable errors (R68, R284) -/

/-- The instruction reads a lane register; MDRAIN reads its vb only when the tile's bias stage runs (R206). -/
def State.readsLanes (s : State) (i : Instr) : Bool :=
  match i with
  | .mdrain c _ _ _ => !cSoft (s.tile c.val).cfg && cField (s.tile c.val).cfg 1 1 == 1
  | .laneid _ _ | .bcast _ _ _ _ | .kmovToLane _ _ | .vput _ _ _ | .msmx _ _ _ => false
  | j => !(Instr.uses j).v.isEmpty

/-- The bytes of windows that an instruction of the current agent reads: their space, and for each lane its access at the
address that it reads. -/
def State.windowReads (s : State) (i : Instr) : Space × List LaneAcc :=
  let g := s.grp
  match i with
  | .ldl _ a b w _ q => (.window, g.accesses a b q (lsizeBytes w))
  | .ldw _ a b w _ q => (.cluster, g.accesses a b q (lsizeBytes w))
  | .ldlt _ a b w _ q => (.window, (g.accesses a b q (lsizeBytes w)).map (fun x => { x with va := transposed x.va }))
  | .ldls _ a w x => (.window, [{ lane := 0, va := g.uniAddr a w x, n := usizeBytes w }])
  | .atomlAddI32 _ a b q | .atomlAddF32 _ a b q | .atomlMinI32 _ a b q | .atomlMaxI32 _ a b q | .atomlAnd _ a b q
  | .atomlOr _ a b q | .atomlXchg _ a b q | .atomlCas _ a b q => (.window, g.accesses a b q 4)
  | .atomwAddI32 _ a b q | .atomwAddF32 _ a b q | .atomwMinI32 _ a b q | .atomwMaxI32 _ a b q | .atomwAnd _ a b q
  | .atomwOr _ a b q | .atomwXchg _ a b q | .atomwCas _ a b q => (.cluster, g.accesses a b q 4)
  | _ => (.window, [])

/-- The trap causes that come before the memory traps (R52). -/
def higherTraps : List Nat := [trapIllegal, trapPrivilege, trapUniform, trapPairing, trapPleat, trapTicket]

/-- An uncorrectable error in a lane register that agent `a` of team `t` reads as it issues `i`: trap 0x09, but for a cause that comes
before it; an instruction that waits reads nothing yet (R52, R68). The trap is taken whatever the predicate: R68 speaks of the reading
instruction, where R14 and R69 have a lane that does not act raise nothing (DESIGN CHOICE, log entry 85). Among the memory traps, which R52
ranks by the lowest faulting lane, it comes first, with faulting address 0, for the event names no lane (DESIGN CHOICE, log entry 74). -/
def State.upsetLanes (s : State) (t a : Nat) (i : Instr) : State :=
  let g := s.agent t a
  match exec i s with
  | .next s1 =>
    let g1 := s1.agent t a
    let waits := g1.pcs == g.pcs && g1.active == g.active && g1.status == g.status
    let first := g1.status == .trapped && (match s1.team.trap with
      | some r => higherTraps.contains r.code
      | none => false)
    if waits then s else if first then s1 else s.raise trapPoison 0
  | _ => s

/-- What the checks of a reading instruction's lanes find where the byte of its windows at `b` is uncorrectable: a lane that reads it and
meets nothing else meets 0x09; one whose page is away reads nothing yet (R52, R284). -/
def State.upsetChks (s : State) (b : Nat) (r : Space × List LaneAcc) : List Chk :=
  r.2.map (fun x => match s.chk r.1 s.cur.1 x.va x.n .load with
    | .ok => if x.va ≤ b && decide (b < x.va + x.n) then .trap trapPoison x.va else .ok
    | k => k)

/-- An uncorrectable error is found as agent `a` of team `t` issues: trap 0x09 at the reading instruction (R68), in the lowest lane
that reads the byte at `va` and unless a lower lane meets another memory trap (R52, R284). Nothing happens if its next instruction
reads no such register or byte. -/
def State.upset (s : State) (t a : Nat) (va : Option Nat) : State :=
  let s0 : State := { s with cur := (t, a) }
  if !s.mayIssue t a then s
  else match s.fetch t a with
  | .instr i =>
    if s.mustWait t a i then s
    else match va with
    | none => if s0.readsLanes i then s0.upsetLanes t a i else s
    | some b =>
      match firstTrap (s0.upsetChks b (s0.windowReads i)) with
      | none => s
      | some p => if p.1 = trapPoison then s0.raise trapPoison p.2 else s
  | _ => s

/-- A core's saves at the end of its 50 µs adjust it, and wait for nothing (R246). -/
def endsRebase (e : Instr) : Bool :=
  match e with
  | .rebaseAdjustTimeout _ => true
  | .rebaseComplete => true
  | _ => false

/-- Take a turn that the agenda names. An outside event is a row of the opcode table without a word. -/
def State.take (s : State) (t : Turn) : Out :=
  match t with
  | .auto k => s.holdLate (k.run s)
  | .issue t a => s.holdLate (s.issueTurn t a)
  | .event e => if (encode e).isSome then .next s else if endsRebase e then exec e s else s.holdLate (exec e s)
  | .perform t a n => .next (s.performNth t a n)
  | .upset t a va => .next (s.upset t a va)
  | .reclaim r => s.holdLate (.next (s.reclaim r))
  | .crcError pa => .next (if isDevicePa pa then s.crcFail (lineOf pa) else s)

/-! ### An instruction in the place of the next fetch -/

/-- What a fetch on core 0 needs of the device: power, firmware, D0, die 0 at work, no host window over its memory and nothing of it held
by the host, no copy of context 0 on core 0 and no poison at the lines of its tables and its code. -/
def State.readyDevice (s : State) : State :=
  let d := s.dieAt 0
  let s1 := s.coreUp 0
  let c := s1.coreOf 0
  { s1.setCoreOf 0 { c with copies := c.copies.filter (fun k => k.asid != 0) } with
    lines := [0x10000, 0x20000, 0x30000].foldl Tab.del s1.lines
    memPoison := [0x10000, 0x20000, 0x30000].foldl Tab.del s1.memPoison
    dev := { s1.dev with
      power := true, rdy := true, d3 := false, hdm := none, gran := s1.dev.gran.filter (fun p => decide (0x40000 ≤ p.1))
      dies := vset s1.dev.dies 0 { d with alive := true, fenced := false, gated := false, stale := false } } }

/-- The machine with one more resident team, of one group, on core 0: page tables at physical 0x10000 and 0x20000 map the
first 512 MiB of context 0 onto themselves, and the group, with every lane active at address 0x30000, has the next turn. -/
def State.withTeam (s : State) : State :=
  let t := s.nextKey
  let ctx : Context := { Context.empty with l1pa := 0x10000, rbase := 0x800000, rsize := 0x800000 }
  let k : Kernel := { Kernel.empty with entry := 0x30000, groups := 1, w := 1, h := 1 }
  let x : Team := { Team.empty with grid := t, ngrp := 1, kernel := k, ctx := ctx, status := .placed, cluster := t }
  let gr : Grid := { Grid.empty with ctx := ctx, kernel := k, teams := 1, groups := 1 }
  let g : Group := { Group.empty with pcs := fillv 32 0x30000, active := BitVec.allOnes 32, gen := 1, status := .run }
  let s1 := ((s.readyDevice.setTeamOf t x).setGridOf t gr).setAgent t 0 g
  { s1 with
    mem := (s1.mem.writeN 0x10000 (bytesLE 8 0x20003)).writeN 0x20000 (bytesLE 8 0x231)
    nextKey := t + 1
    agenda := .issue t 0 :: s1.agenda }

/-- Where the next step fetches from, if it is to issue: the physical address of the instruction. -/
def State.fetchSpot (s : State) : Option Nat :=
  match s.agenda with
  | .issue t a :: _ =>
    if s.mayIssue t a && decide (a < 16) then
      (s.walk (s.l1Of t) (s.agent t a).pc.toNat).map (fun l => l.physFor (dieOf (s.teamOf t).core) (s.agent t a).pc.toNat)
    else none
  | _ => none

/-- The bytes of a word at a physical address. -/
def State.putCode (s : State) (pa w : Nat) : State := { s with mem := s.mem.writeN pa (bytesOfWord w) }

/-- The machine with a word where its next step fetches (see `State.withFetchWord`). -/
def State.placeWord (s : State) (w : Nat) : State :=
  match s.fetchSpot with
  | some pa => s.putCode pa w
  | none =>
    let s1 := s.withTeam
    match s1.fetchSpot with
    | some pa => s1.putCode pa w
    | none => s1

end Sys2Proof.Machine
end

