-- ==== Sys2Proof/Machine/Step.lean ====
section
/-!
DEFINITION. One step: the turn at the head of the agenda, or else the turn that the machine takes of its own.
-/

namespace Sys2Proof.Machine

open Sys2Proof

/-- One step of the machine. -/
def step (s : State) : Host.Outcome State Fault Refusal :=
  match s.agenda with
  | t :: rest => ({ s with agenda := rest } : State).take t
  | [] => s.ownTurn

/-- The machine with the instruction whose first `nbits` bits are `w`, and whose further bits are 0, stored where `step`
fetches next. A machine in which no agent is about to issue, as after reset, is given a team whose turn it is. -/
def State.withFetchWord (s : State) (nbits w : Nat) : State := s.placeWord (w % 2 ^ nbits)

end Sys2Proof.Machine
end

