-- ==== Sys2Proof/Safety.lean ====
section
/-!
DEFINITION. What claims are stated in: the canonical form of the machine's memories, runs that do not stop, the parts of
the machine that an instruction leaves alone, and the shapes in which results of instructions are claimed.
-/

namespace Sys2Proof.Machine

open Sys2Proof

/-- Device and host memory is in canonical form: addresses rise strictly and no listed byte is what an unlisted address
reads as. -/
def State.memWf (s : State) : Bool := s.mem.wf

/-- Every team's window bytes are in canonical form. -/
def State.windowsWf (s : State) : Bool := s.teams.all (fun p => p.2.ls.wf)

/-- A step of the machine answers a next state: neither a fault nor a refusal. -/
def State.goesOn (s : State) : Prop := ∃ s', step s = .next s'

/-- `k` steps of the machine stop at no fault and no refusal. -/
def State.runsFor (s : State) (k : Nat) : Prop := ∃ s', Sys2Proof.core.run k s = Host.Outcome.next s'

end Sys2Proof.Machine

namespace Sys2Proof.Claims

open Sys2Proof Sys2Proof.Machine

/-- The outcome is a next state with the property `p`. -/
def Answers (o : Out) (p : State → Prop) : Prop := ∃ t, o = .next t ∧ p t

/-- No byte of memory differs. -/
def SameMem (s t : State) : Prop := ∀ a, t.mem.read a = s.mem.read a

/-- Nothing differs but the groups and the model's own counter of undefined values, and among the groups only that of the
issuing agent: every other agent, team, core and register of the device, and every byte of memory, is as before. -/
def OnlyGroup (s t : State) : Prop :=
  t = { s with groups := t.groups, fresh := t.fresh }
    ∧ (∀ u a, agentKey u a ≠ agentKey s.cur.1 s.cur.2 → t.agent u a = s.agent u a)
    ∧ SameMem s t

/-- The issuing lanes are at P + 4, and the others where they were (R59). -/
def PcsAdvance (g h : Group) : Prop := ∀ l, l < 32 → h.lanePc l = if g.issuing l then g.pc + 4 else g.lanePc l

/-- The frame of a lane instruction that writes `d`, with the registers that it uses for the last time (R13, R66): of the
issuing group only program counters, `d` and those registers may differ. -/
def LaneFrame (s t : State) (d : VReg) (lastV : List VReg) (lastS : List SReg) : Prop :=
  OnlyGroup s t ∧ PcsAdvance s.grp t.grp
    ∧ t.grp = { s.grp with v := t.grp.v, s := t.grp.s, pcs := t.grp.pcs }
    ∧ (∀ r, r ≠ d → r ∉ lastV → t.grp.getV r = s.grp.getV r)
    ∧ (∀ r, r ∉ lastS → t.grp.getS r = s.grp.getS r)

/-- What `d` holds afterwards: `f` in the lanes that act; in the others what it held, unless the instruction was its last
use, when they are undefined and nothing is said of them (R14, R66). -/
def LaneWritten (g h : Group) (d : VReg) (q : Fin 4) (lastV : List VReg) (f : Nat → Word) : Prop :=
  ∀ l, l < 32 → (g.acts q l = true → h.lane d l = f l) ∧ (g.acts q l = false → d ∉ lastV → h.lane d l = g.lane d l)

/-- A lane instruction completes and writes `f` to `d`; nothing else changes. -/
def LaneResult (s : State) (o : Out) (d : VReg) (q : Fin 4) (lastV : List VReg) (lastS : List SReg) (f : Nat → Word) :
    Prop :=
  Answers o (fun t => LaneFrame s t d lastV lastS ∧ LaneWritten s.grp t.grp d q lastV f)

/-- The sticky flags after an instruction: those before, and those that `f` raises in a lane of `m` (R79). -/
def FlagsRaised (g h : Group) (m : List Nat) (f : Nat → Flags) : Prop :=
  ∀ i, i < 64 → h.fpsr.getLsbD i = (g.fpsr.getLsbD i || m.any (fun l => decide (i < 5) && (f l).bits.getLsbD i))

/-- No flag that `f` raises in a lane of `m` is enabled in cr.fpcr, so that no trap 0x07 is collected (R82). -/
def NoEnabled (g : Group) (m : List Nat) (f : Nat → Flags) : Prop := ∀ l ∈ m, (f l).bits &&& g.enables = 0

/-- As `LaneFrame`, for an instruction that may raise floating-point flags: cr.fpsr and the collection of trap 0x07 may
differ too, the latter only if an enabled flag is raised. -/
def FpFrame (s t : State) (d : VReg) (lastV : List VReg) (lastS : List SReg) (m : List Nat) (f : Nat → Flags) : Prop :=
  OnlyGroup s t ∧ PcsAdvance s.grp t.grp
    ∧ t.grp = { s.grp with v := t.grp.v, s := t.grp.s, pcs := t.grp.pcs, fpsr := t.grp.fpsr, fpw := t.grp.fpw }
    ∧ (∀ r, r ≠ d → r ∉ lastV → t.grp.getV r = s.grp.getV r)
    ∧ (∀ r, r ∉ lastS → t.grp.getS r = s.grp.getS r)
    ∧ FlagsRaised s.grp t.grp m f
    ∧ (NoEnabled s.grp m f → t.grp.fpw = s.grp.fpw)

/-- A floating-point lane instruction completes, writes the results to `d` and raises the flags of the acting lanes. -/
def FpResult (s : State) (o : Out) (d : VReg) (q : Fin 4) (lastV : List VReg) (lastS : List SReg)
    (f : Nat → Word × Flags) : Prop :=
  Answers o (fun t => FpFrame s t d lastV lastS (s.grp.actors q) (fun l => (f l).2)
    ∧ LaneWritten s.grp t.grp d q lastV (fun l => (f l).1))

/-- A comparison completes: the acting bits of predicate `p` are `f`, the other bits stay, k0 keeps reading as ones (R69),
the flags of the acting lanes are raised, and nothing else changes. -/
def CompareResult (s : State) (o : Out) (p : KReg) (q : Fin 4) (lastV : List VReg) (f : Nat → Bool × Flags) : Prop :=
  Answers o (fun t =>
    OnlyGroup s t ∧ PcsAdvance s.grp t.grp
      ∧ t.grp = { s.grp with v := t.grp.v, k := t.grp.k, pcs := t.grp.pcs, fpsr := t.grp.fpsr, fpw := t.grp.fpw }
      ∧ (∀ r, r ∉ lastV → t.grp.getV r = s.grp.getV r)
      ∧ (∀ r, r ≠ p → t.grp.kBits r = s.grp.kBits r)
      ∧ (∀ l, l < 32 → t.grp.getK p l =
          if p.val = 0 then true else if s.grp.acts q l then (f l).1 else s.grp.getK p l)
      ∧ FlagsRaised s.grp t.grp (s.grp.actors q) (fun l => (f l).2)
      ∧ (NoEnabled s.grp (s.grp.actors q) (fun l => (f l).2) → t.grp.fpw = s.grp.fpw))

/-- The frame of an instruction that writes one uniform register: besides it only program counters and the registers used
for the last time may differ. -/
def UniformFrame (s t : State) (d : SReg) (lastV : List VReg) (lastS : List SReg) : Prop :=
  OnlyGroup s t ∧ PcsAdvance s.grp t.grp
    ∧ t.grp = { s.grp with v := t.grp.v, s := t.grp.s, pcs := t.grp.pcs }
    ∧ (∀ r, r ∉ lastV → t.grp.getV r = s.grp.getV r)
    ∧ (∀ r, r ≠ d → r ∉ lastS → t.grp.getS r = s.grp.getS r)

/-- A uniform instruction completes: `d` holds `x`, or reads as 0 if it is s63 (R39); nothing else changes. -/
def UniformResult (s : State) (o : Out) (d : SReg) (lastV : List VReg) (lastS : List SReg) (x : DWord) : Prop :=
  Answers o (fun t => UniformFrame s t d lastV lastS ∧ t.grp.getS d = if d.val = 63 then 0 else x)

/-! ### Rounding -/

/-- The exponent of a number, and its value in units of 2^q, exact where `q` is at most its exponent. -/
def expOf : FVal → Int
  | .num _ _ e => e
  | _ => 0
def unitsOf (x : FVal) (q : Int) : Int :=
  match x with
  | .num n m e => let v : Int := ((m * 2 ^ (e - q).toNat : Nat) : Int); if n then -v else v
  | _ => 0

/-- The exact sum of two numbers times 2^k, and their exact product. -/
def sumOf (k : Int) (a b : FVal) : FVal :=
  let q := Min.min (expOf a) (expOf b)
  let v := unitsOf a q + unitsOf b q
  .num (decide (v < 0)) v.natAbs (q + k)
def productOf : FVal → FVal → FVal
  | .num n1 m1 e1, .num n2 m2 e2 => .num (xor n1 n2) (m1 * m2) (e1 + e2)
  | x, _ => x

/-- The FP32 word `w`, with the flags `f`, is the rounding in direction `rm` of an exact number, of which `gap v` says whether `v` is
above it (positive), equal to it (0) or below it (negative), subnormals being kept (R79, R80). Rounding down gives the greatest value of
the format, infinities among them, that is not above it, rounding up the least that is not below it, and rounding toward zero one of the
two; to nearest gives a value such that no other is nearer, and its last bit is 0 where another is as near, an infinity counting
as 2^128. The sign of a number that is not zero is kept, and nx tells whether the value delivered is not the exact one. -/
def RoundsTo (rm : Rm) (gap : FVal → Int) (w : Word) (f : Flags) : Prop :=
  let V := fun (c : Nat) => fp32.decode c
  let v := V w.toNat
  let zero : FVal := .num false 0 0
  let cap : FVal → FVal := fun x => match x with
    | .inf n => .num n 1 128
    | y => y
  let down := gap v ≤ 0 ∧ ∀ c, c < 2 ^ 32 → (V c).isNan = false → gap (V c) ≤ 0 → (V c).diff v ≤ 0
  let up := 0 ≤ gap v ∧ ∀ c, c < 2 ^ 32 → (V c).isNan = false → 0 ≤ gap (V c) → 0 ≤ (V c).diff v
  v.isNan = false
    ∧ (match rm with
      | .rd => down
      | .ru => up
      | .rz => (gap zero ≤ 0 → down) ∧ (0 < gap zero → up)
      | .rne => ∀ c, c < 2 ^ 32 → (V c).isNan = false →
        let mid := gap (sumOf (-1) (cap (V c)) (cap v))
        (0 < (V c).diff v → 0 ≤ mid) ∧ ((V c).diff v < 0 → mid ≤ 0) ∧ ((V c).diff v ≠ 0 → mid = 0 → w.toNat % 2 = 0))
    ∧ (gap zero ≠ 0 → w.getLsbD 31 = decide (0 < gap zero))
    ∧ f.nx = decide (gap v ≠ 0) ∧ f.nv = false ∧ f.dz = false

/-- The integer `V` is the rounding of a number in direction `rm` (R104): its floor, its ceiling, what is left of it toward zero, or
the nearest, the even one of two. -/
def IntRounds (rm : Rm) (x : FVal) (V : Int) : Prop :=
  let q := Min.min (expOf x) 0
  let N := unitsOf x q
  let D : Int := 2 ^ (-q).toNat
  match rm with
  | .rd => V = N / D
  | .ru => V = -(-N / D)
  | .rz => V = N.tdiv D
  | .rne => 2 * (V * D - N).natAbs ≤ D.natAbs ∧ (2 * (V * D - N).natAbs = D.natAbs → V % 2 = 0)

/-- Whether a value is above 1 / x, equal to it or below it, for a number `x` that is not zero; the same for 1 / √x, `x` being
positive. -/
def overRcp (x v : FVal) : Int :=
  let d := (productOf v x).diff (.num false 1 0)
  match v with
  | .inf _ => v.diff (.num false 0 0)
  | _ => if x.isNeg then -d else d
def overRsq (x v : FVal) : Int :=
  match v with
  | .num false m _ => if m = 0 then -1 else (productOf (productOf v v) x).diff (.num false 1 0)
  | .num true _ _ => -1
  | y => y.diff (.num false 0 0)

/-! ### Memory -/

/-- Registers that a lane load of size `w` writes: four for a 16-byte access (R150). -/
def loadedRegs (w : LSize) (d : VReg) : List VReg := if w = .x4 then [d, vplus d 1, vplus d 2, vplus d 3] else [d]

/-- What a lane load leaves in the registers: the bytes of each acting lane, least significant first and zero-extended, a
16-byte access in four registers; the other lanes and registers as before, last uses apart. -/
def LanesLoaded (g h : Group) (d : VReg) (w : LSize) (q : Fin 4) (lastV : List VReg) (byte : Nat → Nat → Byte) : Prop :=
  h = { g with v := h.v, pcs := h.pcs }
    ∧ (∀ r, r ∉ loadedRegs w d → r ∉ lastV → h.getV r = g.getV r)
    ∧ ∀ j, j < (if w = .x4 then 4 else 1) → ∀ l, l < 32 →
      (g.acts q l = true → h.lane (vplus d j) l =
          BitVec.ofNat 32 (natLE ((List.range (Nat.min 4 (lsizeBytes w))).map (fun i => byte l (4 * j + i)))))
        ∧ (g.acts q l = false → vplus d j ∉ lastV → h.lane (vplus d j) l = g.lane (vplus d j) l)

/-- The bytes of an outstanding access: `k` for each of the lanes `ls`, that of lane `l` at index `i` in the slot `at_ l i`; at most four
fill a lane register, 16 four of them, and eight a uniform register (R50, R64, R150). -/
def Awaits (o : Outst) (ls : List Nat) (k : Nat) (at_ : Nat → Nat → Slot) : Prop :=
  ls.Nodup ∧ (∀ l ∈ ls, l < 32) ∧ 0 < k ∧ (∀ l i, (at_ l i).lane = l ∧ (at_ l i).idx = i)
    ∧ o.slots = ls.flatMap (fun l => (List.range k).map (at_ l))
    ∧ match o.dest with
      | .lane _ wide => k ≤ if wide then 16 else 4
      | .probe _ _ => k ≤ 4
      | .laneOld _ _ => k ≤ 4
      | .uni _ => ls = [0] ∧ k ≤ 8
      | .uniOld _ => ls = [0] ∧ k ≤ 8
      | .taken => True

/-- What the result of an access leaves in its destination: the bytes of each of its lanes, least significant first and zero-extended,
in the registers that it names; every other register, and every other lane, is as before. A probe clears its predicate bits, and an
access without a result changes no register (R64, R282, R284, R287). -/
def Delivered (g h : Group) (d : OutDest) (ls : List Nat) (k : Nat) (byte : Nat → Nat → Byte) : Prop :=
  let word := fun (l j : Nat) => BitVec.ofNat 32 (natLE ((List.range (Nat.min 4 (k - 4 * j))).map (fun i => byte l (4 * j + i))))
  let lanes := fun (r : VReg) (n : Nat) => (∀ x, (∀ j, j < n → x ≠ vplus r j) → h.getV x = g.getV x)
    ∧ ∀ j, j < n → ∀ l, l < 32 → h.lane (vplus r j) l = if l ∈ ls then word l j else g.lane (vplus r j) l
  let uniform := fun (r : SReg) => h.v = g.v ∧ h.k = g.k ∧ (∀ x, x ≠ r → h.getS x = g.getS x)
    ∧ h.getS r = if r.val = 63 then 0 else BitVec.ofNat 64 (natLE ((List.range k).map (byte 0)))
  h = { g with v := h.v, s := h.s, k := h.k, outs := h.outs, status := h.status }
    ∧ ((∀ b, g.status ≠ .remote b) → h.status = g.status)
    ∧ match d with
      | .lane r wide => h.s = g.s ∧ h.k = g.k ∧ lanes r (if wide then 4 else 1)
      | .laneOld r _ => h.s = g.s ∧ h.k = g.k ∧ lanes r 1
      | .probe r p => h.s = g.s ∧ lanes r 1 ∧ (∀ x, x ≠ p → h.kBits x = g.kBits x)
          ∧ (p.val ≠ 0 → ∀ l, l < 32 → h.getK p l = if l ∈ ls then false else g.getK p l)
      | .uni r => uniform r
      | .uniOld r => uniform r
      | .taken => h.v = g.v ∧ h.s = g.s ∧ h.k = g.k

/-- The accesses of a group are given the bytes that `f` has for them: one that has every byte then, and no other, is outstanding no
longer, and its result is where it belongs. -/
def Filled (g h : Group) (f : Outst → Slot → Option Byte) : Prop :=
  ∀ o ls k at_, o ∈ g.outs → Awaits o ls k at_ → (∀ y ∈ o.slots, y.val.isSome = true ∨ (f o y).isSome = true) →
    (∀ q ∈ g.outs, q ≠ o → q.id ≠ o.id ∧ ∃ y ∈ q.slots, y.val = none ∧ f q y = none) →
    (∀ q ∈ h.outs, q.id ≠ o.id)
      ∧ Delivered g h o.dest ls k (fun l i => ((at_ l i).val.or (f o (at_ l i))).getD 0)

/-- The frame of an instruction that reads window bytes: as `OnlyGroup`, but that marks of accessed pages in the local translation
tables may be set (R263). -/
def WindowFrame (s t : State) : Prop :=
  t = { s with groups := t.groups, cores := t.cores, fresh := t.fresh }
    ∧ (∀ u a, agentKey u a ≠ agentKey s.cur.1 s.cur.2 → t.agent u a = s.agent u a)
    ∧ (∀ c, t.coreOf c = { s.coreOf c with ltt := (t.coreOf c).ltt }
      ∧ (t.coreOf c).ltt.map (fun e => { e with acc := false }) = (s.coreOf c).ltt.map (fun e => { e with acc := false }))
    ∧ SameMem s t

/-- The pages of `n` bytes at an offset of team `u`'s window are marked as accessed (R263). -/
def PagesMarked (s t : State) (u off n : Nat) : Prop :=
  ∀ e ∈ (t.coreOf (s.teamOf u).core).ltt, e.team = u → e.vpage ∈ pagesOf off n → e.acc = true

/-- The bytes of all windows, by team and offset, with the word at `w` replaced. -/
def setWord (m : Nat → Nat → Byte) (w : Nat × Nat) (v : Nat) : Nat → Nat → Byte :=
  fun u o => if u = w.1 ∧ w.2 ≤ o ∧ o < w.2 + 4 then BitVec.ofNat 8 (v / 256 ^ (o - w.2)) else m u o

/-- Atomics on window words one after another: each takes (lane, word, operand, new value); the old values by lane, and the
bytes afterwards. -/
def wordSteps (op : AOp) : (Nat → Nat → Byte) → List (Nat × (Nat × Nat) × Nat × Nat) → List (Nat × Nat) × (Nat → Nat → Byte)
  | m, [] => ([], m)
  | m, (l, w, b, c) :: rest =>
    let old := natLE ((List.range 4).map (fun i => m w.1 (w.2 + i)))
    let r := wordSteps op (setWord m w (atomNew op 4 old b c)) rest
    ((l, old) :: r.1, r.2)

/-! ### Control -/

/-- Nothing differs but the groups, the teams and the model's own counter; among them only the issuing group and team. -/
def OnlyTeam (s t : State) : Prop :=
  t = { s with groups := t.groups, teams := t.teams, fresh := t.fresh }
    ∧ (∀ u a, agentKey u a ≠ agentKey s.cur.1 s.cur.2 → t.agent u a = s.agent u a)
    ∧ (∀ u, u ≠ s.cur.1 → t.teamOf u = s.teamOf u)
    ∧ SameMem s t

/-- The issuing lanes are where `f` says, the others where they were (R59). -/
def PcsMoved (g h : Group) (f : Nat → BitVec 52) : Prop := ∀ l, l < 32 → h.lanePc l = if g.issuing l then f l else g.lanePc l

/-- A branch completes: program counters change, and nothing else. -/
def BranchResult (s : State) (o : Out) (f : Nat → BitVec 52) : Prop :=
  Answers o (fun t => OnlyGroup s t ∧ t.grp = { s.grp with pcs := t.grp.pcs } ∧ PcsMoved s.grp t.grp f)

/-- What the issuing team reports once its agent has trapped: its first trap stays the one it reports (R332). -/
def reportOf (s : State) (code kind fva svc : Nat) : Option TrapInfo :=
  s.team.trap.or (some { code := code, kind := kind, agent := s.cur.2, fva := fva, svc := svc })

/-- The issuing agent stops at a trap: no register, program counter or byte changes, and its team reports this trap
unless it was reporting one already (R332). -/
def TrapTaken (s : State) (o : Out) (code kind fva svc : Nat) : Prop :=
  Answers o (fun t => OnlyTeam s t ∧ t.grp = { s.grp with status := .trapped }
    ∧ t.team = { s.team with trap := reportOf s code kind fva svc })

/-- The issuing agent runs and nothing of it or its team is outstanding: no issued store, no unpublished byte, no refused
publication, and every access at a home or over the fabric acknowledged. (Publications are numbered below the next message.) -/
def Quiet (s : State) : Prop :=
  s.grp.status = .run ∧ s.grp.stores = [] ∧ s.team.unpub = [] ∧ s.team.pubTrap = none ∧ s.team.remTrap = []
    ∧ (∀ p ∈ s.team.pubs, p.id < s.net.nextId) ∧ s.homeQuiet s.cur.1 s.cur.2 = true ∧ s.remoteQuiet s.cur.1 s.cur.2 = true

/-! ### The matrix array -/

/-- The issuing team holds the array of its core and may use it, in the paired form if `p`, no other group of it being between
the steps of a transfer (R193, R194, R215). -/
def HoldsArray (s : State) (p : Bool) : Prop :=
  s.core.holder = some s.cur.1 ∧ s.team.w % 2 = 0 ∧ (p = true → s.team.px % 2 = 0) ∧ s.frozen = false

/-- The frame of an instruction that completes on the array of its core: nothing differs but that core, what the team's
phase has contained, and the issuing group, whose lanes move on; no byte of memory, and no byte of a window. -/
def ArrayFrame (s t : State) : Prop :=
  t = { s with groups := t.groups, teams := t.teams, cores := t.cores }
    ∧ (∀ u a, agentKey u a ≠ agentKey s.cur.1 s.cur.2 → t.agent u a = s.agent u a)
    ∧ (∀ u, u ≠ s.cur.1 → t.teamOf u = s.teamOf u) ∧ t.team = { s.team with used := t.team.used }
    ∧ (∀ k, k ≠ s.team.core → t.coreOf k = s.coreOf k) ∧ PcsAdvance s.grp t.grp ∧ SameMem s t

/-- As `ArrayFrame`, for one that writes no register, and of the core only tile `c`. -/
def TileFrame (s t : State) (c : Nat) : Prop :=
  ArrayFrame s t ∧ t.grp = { s.grp with pcs := t.grp.pcs } ∧ t.core = { s.core with tiles := t.core.tiles }
    ∧ ∀ j, j < 4 → j ≠ c → t.tile j = s.tile j

/-- Steps of a window folded one after another, each the one whose index the tile then expects, until none of those left is
expected (R186). -/
def FoldsOn : Tile → List WStep → Tile → Prop
  | T, [], U => U = T ∧ ∀ v ∈ T.window, T.dist v.idx ≠ 0
  | T, v :: l, U => v ∈ T.window ∧ T.dist v.idx = 0
      ∧ FoldsOn ({ T with window := T.window.filter (fun y => y.idx != v.idx) }.fold v) l U

/-- Products are exact: the sign, the product of the significands and the sum of the exponents of two numbers; the NaN and infinity
rules of R176. -/
def ProductsAreExact : Prop :=
  ∀ a b : FVal,
    let x := Term.ofVal (fMul a b).val
    (∀ n1 m1 e1 n2 m2 e2, a = .num n1 m1 e1 → b = .num n2 m2 e2 →
        x = { kind := .num, neg := xor n1 n2, m := m1 * m2, e := e1 + e2 })
      ∧ ((a.isNan ∨ b.isNan ∨ a.isZero ∧ ¬ b.isNum ∨ b.isZero ∧ ¬ a.isNum) → x.kind = .nan)
      ∧ (¬ a.isNan → ¬ b.isNan → ¬ a.isZero → ¬ b.isZero → (¬ a.isNum ∨ ¬ b.isNum) →
        x.kind = if a.isNeg = b.isNeg then .pinf else .ninf)

/-- A term in units of 2^F: exact when it has no bit below; else cut toward zero, floored, or rounded to nearest even; and its one
bits below (R182). -/
def FrameUnits : Prop :=
  ∀ (x : Term) (F : Int),
    let v := signed x.neg x.m
    let d : Nat := 2 ^ (F - x.e).toNat
    (F ≤ x.e → (∀ A, toFrame x F A = v * 2 ^ (x.e - F).toNat) ∧ popcBelow x F = 0)
      ∧ (x.e < F → toFrame x F 0 = signed x.neg (x.m / d) ∧ toFrame x F 1 = v / d
        ∧ 2 * (toFrame x F 2 * d - v).natAbs ≤ d ∧ (2 * (toFrame x F 2 * d - v).natAbs = d → toFrame x F 2 % 2 = 0)
        ∧ popcBelow x F = ((List.range (F - x.e).toNat).filter (fun i => x.m.testBit i)).length)

/-- The sum of one level (R182, R184): NaN and infinities; +0 of zeros only; else the terms' units in a frame of W - G bits below the
largest term, whose sum fits W bits, and the one bits they lose. -/
def LevelSums : Prop :=
  ∀ (p : DWord) (lvl : Nat) (xs : List Term), pleatOk p = true → lvl < 3 → xs.length ≤ pLen p lvl →
    let r := pLevel p lvl xs
    let has := fun (k : TermKind) => ∃ x ∈ xs, x.kind = k
    ((has .nan ∨ has .pinf ∧ has .ninf) → r = ({ termZero with kind := .nan }, 0))
      ∧ (has .pinf → ¬ has .nan → ¬ has .ninf → r = ({ termZero with kind := .pinf }, 0))
      ∧ (has .ninf → ¬ has .nan → ¬ has .pinf → r = ({ termZero with kind := .ninf }, 0))
      ∧ ((∀ x ∈ xs, x.kind = .num ∧ x.m = 0) → r = (termZero, 0))
      ∧ ∀ E : Int, (∀ x ∈ xs, x.kind = .num) → (∃ x ∈ xs, x.m ≠ 0 ∧ x.e + bitlen x.m = E) →
        (∀ x ∈ xs, x.m ≠ 0 → x.e + bitlen x.m ≤ E) →
        let F := E - ((pWid p lvl : Int) - (ceilLog2 (pLen p lvl) + 1))
        let S := (xs.map (fun x => toFrame x F (pAln p lvl))).sum
        S.natAbs ≤ 2 ^ (pWid p lvl - 1)
          ∧ r.2 = (xs.map (fun x => popcBelow x F)).sum
          ∧ r.1 = if S = 0 then { termZero with neg := decide (0 < lvl ∧ pRnd p lvl = 2) }
              else { kind := .num, neg := decide (S < 0), m := S.natAbs, e := F }

/-- A term pushed into a level joins its open list; a list that has reached the nominal length is emptied and its sum goes up, from
P2 to s and c (R180, R182, R183, R185). -/
def PushesGoUp : Prop :=
  ∀ (p : DWord) (x : Term) (a : Sum),
    let o0 := a.el.o0 ++ [x]
    let o1 := a.el.o1 ++ [x]
    let o2 := a.el.o2 ++ [x]
    let counted := fun (i n : Nat) => if pLint p then modifyAt a.lint i (· + n) else a.lint
    let y := p3Round (pSat p) { val := x.toVal, flags := .none }
    let t := p3Add32 (pSat p) a.el.s y
    let rest := if fTest .ge (abs32 a.el.s) (abs32 y) then p3Add32 (pSat p) (p3Sub32 (pSat p) a.el.s t) y
      else p3Add32 (pSat p) (p3Sub32 (pSat p) y t) a.el.s
    push0 p x a = (if o0.length = pLen p 0 then
        push1 p (pLevel p 0 o0).1 { el := { a.el with o0 := [] }, lint := counted 0 (pLevel p 0 o0).2 }
      else { a with el := { a.el with o0 := o0 } })
      ∧ push1 p x a = (if o1.length = pLen p 1 then
          push2 p (pLevel p 1 o1).1 { el := { a.el with o1 := [] }, lint := counted 1 (pLevel p 1 o1).2 }
        else { a with el := { a.el with o1 := o1 } })
      ∧ push2 p x a = (if o2.length = pLen p 2 then
          p3Add p (pLevel p 2 o2).1 { el := { a.el with o2 := [] }, lint := counted 2 (pLevel p 2 o2).2 }
        else { a with el := { a.el with o2 := o2 } })
      ∧ (p3Add p x a).el = { a.el with
          s := t, c := if pCmp3 p = false then a.el.c else if finite32 t then p3Add32 (pSat p) a.el.c rest else 0 }
      ∧ (p3Add p x a).lint = (if finite32 y ∧ (val32 y).isZero = false ∧ fTest .eq (val32 t) (val32 a.el.s) then counted 3 1
          else a.lint)

/-- A step folded into a tile: after the first flag from the clear state, each element takes its products in ascending k, zeros in
the columns that the step has none for, and closes its lists after the last flag; the tile's counters add up what its elements
discard, to 0xFFFF_FFFF (R180, R181, R185, R187, R188). -/
def StepsFold : Prop :=
  ∀ (T : Tile) (w : WStep), (T.cols = 32 ∨ T.cols = 64) → pleatOk T.pleat = true →
    let p := T.pleat
    let start := fun (r n : Nat) => if w.first then Elem.zero else T.elem r n
    let col := fun (n : Nat) => operandLine (pBfmt p) (if n < 32 then w.b else w.b.drop (blockRegs (pBfmt p))) (n % 32)
    let prods := fun (r n : Nat) => if n < 32 ∨ w.pair then
        List.zipWith (fun u v => Term.ofVal (fMul u v).val) (operandLine (pAfmt p) w.a r).1 (col n).1
      else List.replicate (ksOf (pClass p)) termZero
    let folded := fun (r n : Nat) =>
      let a := (prods r n).foldl (fun a x => push0 p x a) { el := start r n, lint := [0, 0, 0, 0] }
      if w.last then finishSum p a else a
    (∀ r n, (prods r n).length = ksOf (pClass p))
      ∧ (∀ r n, r < 32 → n < T.cols → (T.fold w).elem r n = (folded r n).el)
      ∧ (∀ i, i < 4 → vget 0 (T.fold w).lint i = Nat.min 0xFFFFFFFF ((if w.first then 0 else vget 0 T.lint i)
          + ((List.range 32).map (fun r => ((List.range T.cols).map (fun n => (folded r n).lint.getD i 0)).sum)).sum))
      ∧ (T.fold w).x = (if w.last then 0 else (T.x + 1) % 65536)
      ∧ T.fold w = { T with elems := (T.fold w).elems, lint := (T.fold w).lint, darn := (T.fold w).darn, x := (T.fold w).x }

/-- The open lists closed after the last step: P0, then P1, then P2, each only if it is not empty (R181). -/
def FinishCloses : Prop :=
  ∀ (p : DWord) (a : Sum),
    let close := fun (l : Nat) (b : Sum) =>
      let xs := if l = 0 then b.el.o0 else if l = 1 then b.el.o1 else b.el.o2
      let r := pLevel p l xs
      let u := fun (e : Elem) => ({ el := e, lint := if pLint p then modifyAt b.lint l (· + r.2) else b.lint } : Sum)
      if xs = [] then b
      else if l = 0 then push1 p r.1 (u { b.el with o0 := [] }) else if l = 1 then push2 p r.1 (u { b.el with o1 := [] })
      else p3Add p r.1 (u { b.el with o2 := [] })
    finishSum p a = close 2 (close 1 (close 0 a))

/-- Codes of `w` bits packed into 32-bit registers from `r` on, row `l` in lane `l`, the first code lowest (R164, R208);
the other registers as before. -/
def RowsWritten (g h : Group) (r : VReg) (w n : Nat) (code : Nat → Nat → Nat) : Prop :=
  (∀ l i, l < 32 → i < n → (h.lane (vplus r (i / (32 / w))) l).toNat / 2 ^ (w * (i % (32 / w))) % 2 ^ w = code l i)
    ∧ ∀ v, (∀ j, j < n / (32 / w) → v ≠ vplus r j) → h.getV v = g.getV v

/-- Every window page that `n` bytes from `va` touch is resident. -/
def PagesIn (s : State) (va n : Nat) : Prop := ∀ p ∈ pagesOf va n, s.pageIn s.cur.1 p = true

end Sys2Proof.Claims
end

