-- ==== Sys2Proof/Certificates/Slice0/Obligations.lean ====
section
/-!
DEFINITION. The statements for the provers. The shapes in which results are claimed (LaneResult, UniformResult and the
others, each with its frame) are those of Safety.lean.
-/

namespace Sys2Proof.Claims

open Sys2Proof Sys2Proof.Machine

/-- 1 or 0 as a 64-bit result. -/
def flag64 (b : Bool) : DWord := if b then 1 else 0

end Sys2Proof.Claims

open Sys2Proof Sys2Proof.Machine Sys2Proof.Claims

/-! ### Integer lane instructions -/

/-- R84, R85: the three-register integer lane instructions and IMAD, each result in two's complement of 32 bits. -/
def Obligations.LaneIntegerArithmetic : Prop :=
  ∀ (d a b : VReg) (y z : Bool) (q : Fin 4) (s : State),
    let A := s.grp.lane a
    let B := s.grp.lane b
    let D := s.grp.lane d
    let last := marked [(y, a), (z, b)]
    LaneResult s (exec (.iadd d a b y z q) s) d q last [] (fun l => A l + B l)
      ∧ LaneResult s (exec (.isub d a b y z q) s) d q last [] (fun l => A l - B l)
      ∧ LaneResult s (exec (.imul d a b y z q) s) d q last [] (fun l => A l * B l)
      ∧ LaneResult s (exec (.imulh d a b y z q) s) d q last []
          (fun l => BitVec.ofInt 32 ((A l).toInt * (B l).toInt / 2 ^ 32))
      ∧ LaneResult s (exec (.nmulhLane d a b y z q) s) d q last []
          (fun l => BitVec.ofNat 32 ((A l).toNat * (B l).toNat / 2 ^ 32))
      ∧ LaneResult s (exec (.imad d a b y z q) s) d q last [] (fun l => A l * B l + D l)
      ∧ LaneResult s (exec (.imin d a b y z q) s) d q last [] (fun l => if (A l).toInt ≤ (B l).toInt then A l else B l)
      ∧ LaneResult s (exec (.imax d a b y z q) s) d q last [] (fun l => if (A l).toInt ≤ (B l).toInt then B l else A l)
      ∧ LaneResult s (exec (.nminLane d a b y z q) s) d q last [] (fun l => if (A l).toNat ≤ (B l).toNat then A l else B l)
      ∧ LaneResult s (exec (.nmaxLane d a b y z q) s) d q last [] (fun l => if (A l).toNat ≤ (B l).toNat then B l else A l)

/-- R84, R86, R102: the bitwise functions, the register shifts, whose count is the whole element, not reduced modulo 32, and the
integer functions of LUN. -/
def Obligations.LaneLogicAndShifts : Prop :=
  (∀ (d a b : VReg) (y z : Bool) (q : Fin 4) (s : State),
    let A := s.grp.lane a
    let B := s.grp.lane b
    let last := marked [(y, a), (z, b)]
    LaneResult s (exec (.andLane d a b y z q) s) d q last [] (fun l => A l &&& B l)
      ∧ LaneResult s (exec (.orLane d a b y z q) s) d q last [] (fun l => A l ||| B l)
      ∧ LaneResult s (exec (.xorLane d a b y z q) s) d q last [] (fun l => A l ^^^ B l)
      ∧ LaneResult s (exec (.andnLane d a b y z q) s) d q last [] (fun l => A l &&& ~~~(B l))
      ∧ LaneResult s (exec (.shlLane d a b y z q) s) d q last []
          (fun l => if (B l).toNat ≤ 31 then BitVec.ofNat 32 ((A l).toNat * 2 ^ (B l).toNat) else 0)
      ∧ LaneResult s (exec (.shrLane d a b y z q) s) d q last []
          (fun l => if (B l).toNat ≤ 31 then BitVec.ofNat 32 ((A l).toNat / 2 ^ (B l).toNat) else 0)
      ∧ LaneResult s (exec (.sarLane d a b y z q) s) d q last []
          (fun l => if (B l).toNat ≤ 31 then BitVec.ofInt 32 ((A l).toInt / 2 ^ (B l).toNat)
            else if (A l).getLsbD 31 then 0xFFFFFFFF else 0))
    ∧ ∀ (d a : VReg) (y : Bool) (q : Fin 4) (s : State),
    let A := s.grp.lane a
    let last := marked [(y, a)]
    LaneResult s (exec (.mov d a y q) s) d q last [] A
      ∧ LaneResult s (exec (.not d a y q) s) d q last [] (fun l => ~~~(A l))
      ∧ LaneResult s (exec (.neg d a y q) s) d q last [] (fun l => 0 - A l)
      ∧ LaneResult s (exec (.abs d a y q) s) d q last [] (fun l => if (A l).toInt < 0 then 0 - A l else A l)
      ∧ LaneResult s (exec (.clzLane d a y q) s) d q last []
          (fun l => BitVec.ofNat 32 (if A l = 0 then 32 else 31 - (A l).toNat.log2))
      ∧ LaneResult s (exec (.popcLane d a y q) s) d q last []
          (fun l => BitVec.ofNat 32 ((List.range 32).filter (A l).getLsbD).length)
      ∧ (∀ f : Nat → Word, (∀ l i, i < 32 → (f l).getLsbD i = (A l).getLsbD (31 - i)) →
          LaneResult s (exec (.brev d a y q) s) d q last [] f)
      ∧ LaneResult s (exec (.sext8 d a y q) s) d q last [] (fun l => ((A l).setWidth 8).signExtend 32)
      ∧ LaneResult s (exec (.sext16 d a y q) s) d q last [] (fun l => ((A l).setWidth 16).signExtend 32)
      ∧ LaneResult s (exec (.fneg d a y q) s) d q last [] (fun l => A l ^^^ 0x80000000)
      ∧ LaneResult s (exec (.fabs d a y q) s) d q last [] (fun l => A l &&& 0x7FFFFFFF)
      ∧ LaneResult s (exec (.laneid d q) s) d q [] [] (fun l => BitVec.ofNat 32 l)

/-- R87, R88, R101: the immediate forms, and the integer forms with a uniform operand S, its low 32 bits. -/
def Obligations.LaneImmediateAndUniformForms : Prop :=
  ∀ (d a : VReg) (im : BitVec 8) (n : BitVec 5) (sb : SReg) (y z : Bool) (q : Fin 4) (s : State),
    let A := s.grp.lane a
    let S : Word := (s.grp.getS sb).setWidth 32
    let last := marked [(y, a)]
    let I : Word := im.signExtend 32
    LaneResult s (exec (.iaddi d a im y q) s) d q last [] (fun l => A l + I)
      ∧ LaneResult s (exec (.andiLane d a im y q) s) d q last [] (fun l => A l &&& I)
      ∧ LaneResult s (exec (.oriLane d a im y q) s) d q last [] (fun l => A l ||| I)
      ∧ LaneResult s (exec (.xoriLane d a im y q) s) d q last [] (fun l => A l ^^^ I)
      ∧ LaneResult s (exec (.shliLane d a n y q) s) d q last [] (fun l => A l <<< n.toNat)
      ∧ LaneResult s (exec (.shriLane d a n y q) s) d q last [] (fun l => A l >>> n.toNat)
      ∧ LaneResult s (exec (.sariLane d a n y q) s) d q last [] (fun l => (A l).sshiftRight n.toNat)
      ∧ LaneResult s (exec (.iadds d a sb y z q) s) d q last (markedS [(z, sb)]) (fun l => A l + S)
      ∧ LaneResult s (exec (.imuls d a sb y z q) s) d q last (markedS [(z, sb)]) (fun l => A l * S)
      ∧ LaneResult s (exec (.bcast d sb z q) s) d q [] (markedS [(z, sb)]) (fun _ => S)

/-- R92, R97 to R100: selection and movement between lanes. SEL acts in every issuing lane. The prefixes run over the
acting lanes in ascending order. -/
def Obligations.LaneSelectionMovesAndPrefixes : Prop :=
  ∀ (d a b : VReg) (k : BitVec 5) (y z : Bool) (q : Fin 4) (s : State),
    let A := s.grp.lane a
    let B := s.grp.lane b
    let last := marked [(y, a)]
    let upto := fun l => (s.grp.actors q).filter (fun j => decide (j ≤ l))
    LaneResult s (exec (.sel d a b y z q) s) d 0 (marked [(y, a), (z, b)]) []
        (fun l => if s.grp.getK (kq q) l then A l else B l)
      ∧ LaneResult s (exec (.shfl d a b y z q) s) d q (marked [(y, a), (z, b)]) [] (fun l => A ((B l).toNat % 32))
      ∧ decodeWord (0x24 * 2 ^ 25 + d.val * 2 ^ 18 + a.val * 2 ^ 11 + b.val * 2 ^ 4 + y.toNat * 2 ^ 3 + z.toNat * 2 ^ 2 + q.val)
          = .ok (.shfl d a b y z q)
      ∧ LaneResult s (exec (.shfliIndex d a k y q) s) d q last [] (fun _ => A k.toNat)
      ∧ LaneResult s (exec (.shfliUp d a k y q) s) d q last [] (fun l => if k.toNat ≤ l then A (l - k.toNat) else A l)
      ∧ LaneResult s (exec (.shfliDown d a k y q) s) d q last [] (fun l => if l + k.toNat ≤ 31 then A (l + k.toNat) else A l)
      ∧ LaneResult s (exec (.shfliXor d a k y q) s) d q last [] (fun l => A (l ^^^ k.toNat))
      ∧ LaneResult s (exec (.lscanAddI32 d a y q) s) d q last []
          (fun l => (upto l).foldl (fun r j => r + A j) 0)
      ∧ (∃ f : Nat → Word, LaneResult s (exec (.lscanMaxI32 d a y q) s) d q last [] f
          ∧ ∀ l, l < 32 → s.grp.acts q l = true → (∃ j ∈ upto l, f l = A j) ∧ ∀ j ∈ upto l, (A j).toInt ≤ (f l).toInt)
      ∧ (∃ f : Nat → Word, LaneResult s (exec (.lscanMinI32 d a y q) s) d q last [] f
          ∧ ∀ l, l < 32 → s.grp.acts q l = true → (∃ j ∈ upto l, f l = A j) ∧ ∀ j ∈ upto l, (f l).toInt ≤ (A j).toInt)

/-- R69, R89, R90: ICMP, NCMP and ICMPI write the acting bits of a predicate and raise no flag; FCMP raises nv for a
signalling operand only. The last clause
says what the integer conditions of R41 are. -/
def Obligations.LaneComparisons : Prop :=
  ∀ (p : KReg) (c : Cond) (a b : VReg) (im : BitVec 8) (y z : Bool) (q : Fin 4) (s : State),
    let A := s.grp.lane a
    let B := s.grp.lane b
    let last := marked [(y, a), (z, b)]
    CompareResult s (exec (.icmp p c a b y z q) s) p q last (fun l => (testS c (A l) (B l), .none))
      ∧ CompareResult s (exec (.ncmp p c a b y z q) s) p q last (fun l => (testN c (A l) (B l), .none))
      ∧ CompareResult s (exec (.icmpi p c a im y q) s) p q (marked [(y, a)])
          (fun l => (testS c (A l) (im.signExtend 32), .none))
      ∧ CompareResult s (exec (.fcmp p c a b y z q) s) p q last (fun l =>
          (fTest c (s.grp.in32 (A l)) (s.grp.in32 (B l)),
            .invalid ((s.grp.in32 (A l)).isSnan || (s.grp.in32 (B l)).isSnan)))
      ∧ (∀ u v : Word,
          testS .eq u v = decide (u = v) ∧ testS .ne u v = decide (u ≠ v)
            ∧ testS .lt u v = decide (u.toInt < v.toInt) ∧ testS .le u v = decide (u.toInt ≤ v.toInt)
            ∧ testS .gt u v = decide (v.toInt < u.toInt) ∧ testS .ge u v = decide (v.toInt ≤ u.toInt)
            ∧ testN .eq u v = decide (u = v) ∧ testN .ne u v = decide (u ≠ v)
            ∧ testN .lt u v = decide (u.toNat < v.toNat) ∧ testN .le u v = decide (u.toNat ≤ v.toNat)
            ∧ testN .gt u v = decide (v.toNat < u.toNat) ∧ testN .ge u v = decide (v.toNat ≤ u.toNat))

/-! ### Floating-point lane instructions -/

/-- R88, R93, R94: FP32 arithmetic. Each result is the exact value of the operands read under cr.fpcr.fz, rounded once. -/
def Obligations.LaneFloatArithmetic : Prop :=
  ∀ (d a b : VReg) (sb : SReg) (y z : Bool) (q : Fin 4) (s : State),
    let g := s.grp
    let A := fun l => g.in32 (g.lane a l)
    let B := fun l => g.in32 (g.lane b l)
    let D := fun l => g.in32 (g.lane d l)
    let S := g.in32 ((g.getS sb).setWidth 32)
    let last := marked [(y, a), (z, b)]
    FpResult s (exec (.fadd d a b y z q) s) d q last [] (fun l => g.out32 (fAdd g.rm (A l) (B l)))
      ∧ FpResult s (exec (.fsub d a b y z q) s) d q last [] (fun l => g.out32 (fAdd g.rm (A l) (B l).negate))
      ∧ FpResult s (exec (.fmul d a b y z q) s) d q last [] (fun l => g.out32 (fMul (A l) (B l)))
      ∧ FpResult s (exec (.ffma d a b y z q) s) d q last [] (fun l => g.out32 (fFma g.rm (A l) (B l) (D l)))
      ∧ FpResult s (exec (.fmuls d a sb y z q) s) d q (marked [(y, a)]) (markedS [(z, sb)])
          (fun l => g.out32 (fMul (A l) S))
      ∧ FpResult s (exec (.ffmas d a sb y z q) s) d q (marked [(y, a)]) (markedS [(z, sb)])
          (fun l => g.out32 (fFma g.rm (A l) S (D l)))
      ∧ FpResult s (exec (.fmin d a b y z q) s) d q last []
          (fun l => let r := g.minmax fp32 false (g.lane a l).toNat (g.lane b l).toNat; (BitVec.ofNat 32 r.1, r.2))
      ∧ FpResult s (exec (.fmax d a b y z q) s) d q last []
          (fun l => let r := g.minmax fp32 true (g.lane a l).toNat (g.lane b l).toNat; (BitVec.ofNat 32 r.1, r.2))

/-- R103, R104: the approximation functions, FRND and the conversions between FP32 and integers.
Which precision the approximations have is the model's reading (log entry 41). -/
def Obligations.LaneFloatFunctions : Prop :=
  ∀ (d a : VReg) (y : Bool) (q : Fin 4) (s : State),
    let g := s.grp
    let X := fun l => g.in32 (g.lane a l)
    let last := marked [(y, a)]
    FpResult s (exec (.frcp d a y q) s) d q last [] (fun l => g.out32 (fRcp (X l)))
      ∧ FpResult s (exec (.frsq d a y q) s) d q last [] (fun l => g.out32 (fRsq (X l)))
      ∧ FpResult s (exec (.fexp2 d a y q) s) d q last [] (fun l => g.out32 (fExp2 (X l)))
      ∧ FpResult s (exec (.flog2 d a y q) s) d q last [] (fun l => g.out32 (fLog2 (X l)))
      ∧ FpResult s (exec (.fsin d a y q) s) d q last [] (fun l => g.out32 (fSin (X l)))
      ∧ FpResult s (exec (.fcos d a y q) s) d q last [] (fun l => g.out32 (fCos (X l)))
      ∧ FpResult s (exec (.frnd d a y q) s) d q last [] (fun l => g.out32 (fRnd g.rm (X l)))
      ∧ FpResult s (exec (.cvtfi d a y q) s) d q last [] (fun l => fToInt g.rm (X l))
      ∧ FpResult s (exec (.cvtfiz d a y q) s) d q last [] (fun l => fToInt .rz (X l))
      ∧ FpResult s (exec (.cvtif d a y q) s) d q last [] (fun l => g.out32 (fOfInt (g.lane a l).toInt))
      ∧ FpResult s (exec (.cvtnf d a y q) s) d q last [] (fun l => g.out32 (fOfInt (g.lane a l).toNat))

/-- R91, R95, R96, R100, R105 to R109: packed halves, packing and unpacking, and the FP32 prefix sum, in which each step
rounds the sum of the running value and the next acting lane. -/
def Obligations.LanePackedAndConversions : Prop :=
  ∀ (d a b : VReg) (y z : Bool) (q : Fin 4) (s : State),
    let g := s.grp
    let A := g.lane a
    let B := g.lane b
    let D := g.lane d
    let X := fun l => g.in32 (A l)
    let H := fun (w : Word) h => fp16.input g.fz (half w h)
    let two := fun (f : Nat → Nat × Flags) => (BitVec.ofNat 32 ((f 0).1 + 65536 * (f 1).1), (f 0).2.or (f 1).2)
    let last := marked [(y, a), (z, b)]
    FpResult s (exec (.hadd2 d a b y z q) s) d q last []
        (fun l => two (fun h => fp16.deliver g.rm g.fz (fAdd g.rm (H (A l) h) (H (B l) h))))
      ∧ FpResult s (exec (.hsub2 d a b y z q) s) d q last []
        (fun l => two (fun h => fp16.deliver g.rm g.fz (fAdd g.rm (H (A l) h) (H (B l) h).negate)))
      ∧ FpResult s (exec (.hmin2 d a b y z q) s) d q last []
        (fun l => two (fun h => g.minmax fp16 false (half (A l) h) (half (B l) h)))
      ∧ FpResult s (exec (.hmax2 d a b y z q) s) d q last []
        (fun l => two (fun h => g.minmax fp16 true (half (A l) h) (half (B l) h)))
      ∧ FpResult s (exec (.hclt2 d a b y z q) s) d q last []
        (fun l => two (fun h => if h = 0 then
            ((if fTest .lt (H (A l) 0) (H (B l) 0) then 1 else 0) + (if fTest .lt (H (A l) 1) (H (B l) 1) then 2 else 0),
              .invalid ((H (A l) 0).isSnan || (H (B l) 0).isSnan))
          else (0, .invalid ((H (A l) 1).isSnan || (H (B l) 1).isSnan))))
      ∧ FpResult s (exec (.hfma2 d a b y z q) s) d q last []
        (fun l => two (fun h => fp16.deliver g.rm g.fz (fFma g.rm (H (A l) h) (H (B l) h) (H (D l) h))))
      ∧ FpResult s (exec (.bfma2 d a b y z q) s) d q last []
        (fun l => two (fun h => bf16.deliver g.rm g.fz (fFma g.rm (bf16.input g.fz (half (A l) h))
          (bf16.input g.fz (half (B l) h)) (bf16.input g.fz (half (D l) h)))))
      ∧ FpResult s (exec (.pkh d a y q) s) d q (marked [(y, a)]) []
        (fun l => let r := cvtFmt fp16 g.rm g.fz (X l); (BitVec.ofNat 32 (r.1 * 2 ^ 16 + (D l).toNat / 2 ^ 16), r.2))
      ∧ FpResult s (exec (.pkbf d a y q) s) d q (marked [(y, a)]) []
        (fun l => let r := cvtFmt bf16 g.rm g.fz (X l); (BitVec.ofNat 32 (r.1 * 2 ^ 16 + (D l).toNat / 2 ^ 16), r.2))
      ∧ FpResult s (exec (.pk8e4 d a y q) s) d q (marked [(y, a)]) []
        (fun l => let r := cvtE4m3 g.rm g.fz (X l); (BitVec.ofNat 32 (r.1 * 2 ^ 24 + (D l).toNat / 2 ^ 8), r.2))
      ∧ FpResult s (exec (.pk8e5 d a y q) s) d q (marked [(y, a)]) []
        (fun l => let r := cvtFmt e5m2 g.rm g.fz (X l); (BitVec.ofNat 32 (r.1 * 2 ^ 24 + (D l).toNat / 2 ^ 8), r.2))
      ∧ FpResult s (exec (.upkhl d a y q) s) d q (marked [(y, a)]) []
        (fun l => let r := widen (fp16.input g.fz ((A l).toNat % 65536)); (BitVec.ofNat 32 r.1, r.2))
      ∧ FpResult s (exec (.upkhh d a y q) s) d q (marked [(y, a)]) []
        (fun l => let r := widen (fp16.input g.fz ((A l).toNat / 65536)); (BitVec.ofNat 32 r.1, r.2))
      ∧ FpResult s (exec (.upk8e4 d a y q) s) d q (marked [(y, a)]) []
        (fun l => let r := widen (e4m3.input g.fz ((A l).toNat % 256)); (BitVec.ofNat 32 r.1, r.2))
      ∧ FpResult s (exec (.upk8e5 d a y q) s) d q (marked [(y, a)]) []
        (fun l => let r := widen (e5m2.input g.fz ((A l).toNat % 256)); (BitVec.ofNat 32 r.1, r.2))
      ∧ LaneResult s (exec (.upkf4 d a y q) s) d q (marked [(y, a)]) []
        (fun l => BitVec.ofNat 32 (widen (e2m1.decode ((A l).toNat % 16))).1)
      ∧ (∃ f : Nat → Word × Flags, FpResult s (exec (.lscanAddF32 d a y q) s) d q (marked [(y, a)]) [] f
        ∧ ∀ l, l < 32 → g.acts q l = true →
          (∀ j, j < l → g.acts q j = false) ∧ f l =
              (if (X l).isNan then (0x7FC00000, .invalid (X l).isSnan)
                else (BitVec.ofNat 32 (if g.fz then fp32.flush (A l).toNat else (A l).toNat), .none))
            ∨ ∃ j, j < l ∧ g.acts q j = true ∧ (∀ i, j < i → i < l → g.acts q i = false)
              ∧ f l = g.out32 (fAdd g.rm (fp32.decode (f j).1.toNat) (X l)))

/-- R79 to R81, R93, R94, R103, R104: what the results of floating-point instructions are, said without the functions that compute them.
The sum, the product and the fused multiply-add of numbers, the reciprocal and the reciprocal square root are the exact value rounded
once, in each of the four directions (RoundsTo); of a result that is no smaller than 2^-126 cr.fpcr.fz changes nothing. An exact zero has the
sign of R93. FRND gives the integral value that x rounds to, with the sign of x and no flag; CVTFI, and CVTFIZ toward zero, give it as an
integer, or the nearer end of the range and nv, and nx where it is not exact.
With cr.fpcr.fz = 0 rounding down delivers the greatest FP32 value that is not above the exact value,
and rounding up the least that is not below it; a value that has an encoding is delivered exactly, in every direction and
without a flag. What the special operands give does not depend on the direction: a NaN that is delivered is the canonical one,
and a signalling operand raises nv. -/
def Obligations.RoundingAndSpecialValues : Prop :=
  (∀ (g : Group) (a b d : FVal),
    let zero := fun (n : Bool) => ((if n then 0x80000000 else 0 : Word), Flags.none)
    let small := fun (gap : FVal → Int) => 0 < gap (.num false 1 (-126)) ∧ gap (.num true 1 (-126)) < 0
    let rounded := fun (gap : FVal → Int) (r : Word × Flags) => (g.fz = false ∨ ¬ small gap) → RoundsTo g.rm gap r.1 r.2
    let sum := fun (x y : FVal) (r : Word × Flags) =>
      let v := sumOf 0 x y
      (v.isZero = false → rounded (fun z => z.diff v) r)
        ∧ (v.isZero = true → r = zero (if x.isZero = true ∧ y.isZero = true ∧ x.isNeg = y.isNeg then x.isNeg else decide (g.rm = .rd)))
    (a.isNum = true → b.isNum = true → sum a b (g.out32 (fAdd g.rm a b))
        ∧ ((productOf a b).isZero = false → rounded (fun z => z.diff (productOf a b)) (g.out32 (fMul a b)))
        ∧ ((productOf a b).isZero = true → g.out32 (fMul a b) = zero (xor a.isNeg b.isNeg))
        ∧ (d.isNum = true → sum (productOf a b) d (g.out32 (fFma g.rm a b d))))
      ∧ ∀ c, c < 2 ^ 32 → fp32.decode c = a → a.isNum = true →
        (a.isZero = false → rounded (overRcp a) (g.out32 (fRcp a)))
          ∧ (a.isZero = false → a.isNeg = false → rounded (overRsq a) (g.out32 (fRsq a)))
          ∧ (a.isZero = false → a.isNeg = true → g.out32 (fRsq a) = (0x7FC00000, .invalid true))
          ∧ ∀ V : Int,
            (IntRounds g.rm a V → let r := g.out32 (fRnd g.rm a)
              r.2 = .none ∧ r.1.getLsbD 31 = a.isNeg ∧ (fp32.decode r.1.toNat).isNum = true
                ∧ (fp32.decode r.1.toNat).diff (.num (decide (V < 0)) V.natAbs 0) = 0)
            ∧ ∀ rm : Rm, IntRounds rm a V → fToInt rm a =
                if 2 ^ 31 - 1 < V then (0x7FFFFFFF, .invalid true) else if V < -2 ^ 31 then (0x80000000, .invalid true)
                else (BitVec.ofInt 32 V, { Flags.none with nx := decide (a.diff (.num (decide (V < 0)) V.natAbs 0) ≠ 0) }))
    ∧ ((∀ (n : Bool) (m : Nat) (e : Int),
    let x : FVal := .num n m e
    let dn := fp32.decode (fp32.round .rd false n m e).1
    let up := fp32.decode (fp32.round .ru false n m e).1
    dn.diff x ≤ 0 ∧ 0 ≤ up.diff x
      ∧ ∀ c, c < 2 ^ 32 → (fp32.decode c).isNan = false →
          ((fp32.decode c).diff x ≤ 0 → (fp32.decode c).diff dn ≤ 0) ∧ (0 ≤ (fp32.decode c).diff x → 0 ≤ (fp32.decode c).diff up))
    ∧ ∀ (rm : Rm) (c : Nat) (n : Bool) (m : Nat) (e : Int), c < 2 ^ 32 → fp32.decode c = .num n m e →
        fp32.round rm false n m e = (c, .none))
    ∧ ∀ (g : Group) (x : FVal) (n : Bool) (e : Int),
    let nan : Word := 0x7FC00000
    let zero : FVal := .num n 0 e
    let inf : FVal := .inf n
    let nv : Flags := .invalid true
    let dz : Flags := { Flags.none with dz := true }
    let signed : Word → Word := fun w => if n then w ||| 0x80000000 else w
    (∀ sn, g.out32 (fAdd g.rm (.nan sn) x) = (nan, .invalid (sn || x.isSnan))
        ∧ g.out32 (fAdd g.rm x (.nan sn)) = (nan, .invalid (x.isSnan || sn))
        ∧ g.out32 (fMul (.nan sn) x) = (nan, .invalid (sn || x.isSnan))
        ∧ g.out32 (fRcp (.nan sn)) = (nan, .invalid sn) ∧ g.out32 (fRsq (.nan sn)) = (nan, .invalid sn)
        ∧ g.out32 (fExp2 (.nan sn)) = (nan, .invalid sn) ∧ g.out32 (fLog2 (.nan sn)) = (nan, .invalid sn)
        ∧ g.out32 (fSin (.nan sn)) = (nan, .invalid sn) ∧ g.out32 (fCos (.nan sn)) = (nan, .invalid sn)
        ∧ g.out32 (fRnd g.rm (.nan sn)) = (nan, .invalid sn) ∧ fToInt g.rm (.nan sn) = (0, nv))
      ∧ g.out32 (fAdd g.rm inf (.inf (!n))) = (nan, nv)
      ∧ g.out32 (fMul zero (.inf n)) = (nan, nv) ∧ g.out32 (fMul inf zero) = (nan, nv)
      ∧ g.out32 (fFma g.rm zero inf x) = (nan, nv)
      ∧ g.out32 (fRcp zero) = (signed 0x7F800000, dz) ∧ g.out32 (fRcp inf) = (signed 0, .none)
      ∧ g.out32 (fRsq zero) = (signed 0x7F800000, dz) ∧ g.out32 (fRsq (.inf false)) = (0, .none)
      ∧ g.out32 (fRsq (.inf true)) = (nan, nv)
      ∧ g.out32 (fExp2 (.inf false)) = (0x7F800000, .none) ∧ g.out32 (fExp2 (.inf true)) = (0, .none)
      ∧ g.out32 (fLog2 zero) = (0xFF800000, dz) ∧ g.out32 (fLog2 (.inf false)) = (0x7F800000, .none)
      ∧ g.out32 (fLog2 (.inf true)) = (nan, nv)
      ∧ g.out32 (fSin inf) = (nan, nv) ∧ g.out32 (fCos inf) = (nan, nv)
      ∧ g.out32 (fSin zero) = (signed 0, .none) ∧ g.out32 (fCos zero) = (0x3F800000, .none)
      ∧ fToInt g.rm (.inf false) = (0x7FFFFFFF, nv) ∧ fToInt g.rm (.inf true) = (0x80000000, nv)

/-! ### Uniform instructions -/

/-- R111 to R115: the functions of UALU, in which a divisor of 0 gives all ones and the dividend; the immediate majors; and
MOVW, which writes one quarter and keeps or clears the others. -/
def Obligations.UniformArithmetic : Prop :=
  (∀ (d a b : SReg) (y z : Bool) (s : State),
    let A := s.grp.getS a
    let B := s.grp.getS b
    let last := markedS [(y, a), (z, b)]
    let R := fun (o : Out) (x : DWord) => UniformResult s o d [] last x
    R (exec (.add d a b y z) s) (A + B) ∧ R (exec (.sub d a b y z) s) (A - B) ∧ R (exec (.mul d a b y z) s) (A * B)
      ∧ R (exec (.mulh d a b y z) s) (BitVec.ofInt 64 (A.toInt * B.toInt / 2 ^ 64))
      ∧ R (exec (.nmulhUniform d a b y z) s) (BitVec.ofNat 64 (A.toNat * B.toNat / 2 ^ 64))
      ∧ R (exec (.andUniform d a b y z) s) (A &&& B) ∧ R (exec (.orUniform d a b y z) s) (A ||| B)
      ∧ R (exec (.xorUniform d a b y z) s) (A ^^^ B) ∧ R (exec (.andnUniform d a b y z) s) (A &&& ~~~B)
      ∧ R (exec (.shlUniform d a b y z) s) (if B.toNat < 64 then A <<< B.toNat else 0)
      ∧ R (exec (.shrUniform d a b y z) s) (if B.toNat < 64 then A >>> B.toNat else 0)
      ∧ R (exec (.sarUniform d a b y z) s) (BitVec.ofInt 64 (A.toInt / 2 ^ B.toNat))
      ∧ R (exec (.min d a b y z) s) (if A.toInt ≤ B.toInt then A else B)
      ∧ R (exec (.max d a b y z) s) (if A.toInt ≤ B.toInt then B else A)
      ∧ R (exec (.nminUniform d a b y z) s) (if A.toNat ≤ B.toNat then A else B)
      ∧ R (exec (.nmaxUniform d a b y z) s) (if A.toNat ≤ B.toNat then B else A)
      ∧ R (exec (.seq d a b y z) s) (flag64 (decide (A = B))) ∧ R (exec (.sne d a b y z) s) (flag64 (decide (A ≠ B)))
      ∧ R (exec (.slt d a b y z) s) (flag64 (decide (A.toInt < B.toInt)))
      ∧ R (exec (.sltn d a b y z) s) (flag64 (decide (A.toNat < B.toNat)))
      ∧ R (exec (.sdiv d a b y z) s) (if B = 0 then 0xFFFFFFFFFFFFFFFF else BitVec.ofInt 64 (A.toInt.tdiv B.toInt))
      ∧ R (exec (.ndiv d a b y z) s) (if B = 0 then 0xFFFFFFFFFFFFFFFF else BitVec.ofNat 64 (A.toNat / B.toNat))
      ∧ R (exec (.srem d a b y z) s) (if B = 0 then A else BitVec.ofInt 64 (A.toInt - A.toInt.tdiv B.toInt * B.toInt))
      ∧ R (exec (.nrem d a b y z) s) (if B = 0 then A else BitVec.ofNat 64 (A.toNat % B.toNat))
      ∧ UniformResult s (exec (.popcUniform d a y) s) d [] (markedS [(y, a)])
          (BitVec.ofNat 64 ((List.range 64).filter A.getLsbD).length)
      ∧ UniformResult s (exec (.clzUniform d a y) s) d [] (markedS [(y, a)])
          (BitVec.ofNat 64 (if A = 0 then 64 else 63 - A.toNat.log2)))
    ∧ ∀ (d a : SReg) (im : BitVec 13) (n : BitVec 6) (w : BitVec 16) (qr : Fin 4) (keep : Bool) (s : State),
    let A := s.grp.getS a
    let I : DWord := im.signExtend 64
    let R := fun (o : Out) (x : DWord) => UniformResult s o d [] [] x
    R (exec (.addi d a im) s) (A + I) ∧ R (exec (.andiUniform d a im) s) (A &&& I)
      ∧ R (exec (.oriUniform d a im) s) (A ||| I) ∧ R (exec (.xoriUniform d a im) s) (A ^^^ I)
      ∧ R (exec (.shliUniform d a n) s) (A <<< n.toNat) ∧ R (exec (.shriUniform d a n) s) (A >>> n.toNat)
      ∧ R (exec (.sariUniform d a n) s) (A.sshiftRight n.toNat)
      ∧ R (exec (.slti d a im) s) (flag64 (decide (A.toInt < I.toInt)))
      ∧ ∃ x : DWord, R (exec (.movw d qr w keep) s) x ∧ ∀ i, i < 64 → x.getLsbD i =
          if i / 16 = qr.val then w.getLsbD (i % 16) else keep && (s.grp.getS d).getLsbD i

/-- R117 to R119, R139: moves from lanes to a uniform register. BALLOT gathers one bit of every issuing lane. REDL runs over the
issuing set; REDL.add.f32 leaves what LSCAN.add.f32 would leave in the highest issuing lane, zero-extended, and raises the flags
of every step. -/
def Obligations.LanesToUniform : Prop :=
  (∀ (d : SReg) (a : VReg) (n : Fin 32) (y : Bool) (s : State),
    let g := s.grp
    let A := g.lane a
    let R := fun (o : Out) (x : DWord) => UniformResult s o d (marked [(y, a)]) [] x
    R (exec (.vget d a n y) s) ((A n.val).setWidth 64)
      ∧ (∃ x : DWord, R (exec (.ballot d a n y) s) x
          ∧ ∀ i, i < 64 → x.getLsbD i = (decide (i < 32) && g.issuing i && (A i).getLsbD n.val))
      ∧ decodeWord (0xA2000000 + d.val * 2 ^ 19 + a.val * 2 ^ 12 + n.val * 2 ^ 7 + y.toNat * 2 ^ 6) = .ok (.ballot d a n y)
      ∧ R (exec (.redlAddI32 d a y) s) ((g.issuers.foldl (fun r l => r + A l) 0).signExtend 64)
      ∧ (g.issuers ≠ [] →
          (∃ x : Word, R (exec (.redlMinI32 d a y) s) (x.signExtend 64) ∧ (∃ l ∈ g.issuers, x = A l)
              ∧ ∀ l ∈ g.issuers, x.toInt ≤ (A l).toInt)
            ∧ (∃ x : Word, R (exec (.redlMaxI32 d a y) s) (x.signExtend 64) ∧ (∃ l ∈ g.issuers, x = A l)
              ∧ ∀ l ∈ g.issuers, (A l).toInt ≤ x.toInt)
            ∧ R (exec (.redlAnd d a y) s) ((g.issuers.foldl (fun r l => r &&& A l) 0xFFFFFFFF).setWidth 64)
            ∧ UniformResult s (exec (.elect d) s) d [] [] (BitVec.ofNat 64 (g.issuers.headD 0)))
      ∧ R (exec (.redlOr d a y) s) ((g.issuers.foldl (fun r l => r ||| A l) 0).setWidth 64))
    ∧ ∀ (d : SReg) (a : VReg) (y : Bool) (s : State) (l : Nat),
    s.grp.issuers.getLast? = some l →
    Answers (exec (.redlAddF32 d a y) s) (fun t =>
      OnlyGroup s t ∧ PcsAdvance s.grp t.grp
        ∧ t.grp = { s.grp with v := t.grp.v, s := t.grp.s, pcs := t.grp.pcs, fpsr := t.grp.fpsr, fpw := t.grp.fpw }
        ∧ (∀ r, r ∉ marked [(y, a)] → t.grp.getV r = s.grp.getV r) ∧ (∀ r, r ≠ d → t.grp.getS r = s.grp.getS r)
        ∧ ∀ (e : VReg) (u : State), exec (.lscanAddF32 e a false 0) s = .next u →
            t.grp.getS d = (if d.val = 63 then 0 else (u.grp.lane e l).setWidth 64) ∧ t.grp.fpsr = u.grp.fpsr)

/-- R39, R69, R117, R120, R121: VPUT writes one lane whatever the active mask; KMOV moves between bit 0 of the issuing lanes
and a predicate; KOPS write all 32 bits of a predicate, k0 staying all ones, or a uniform register. -/
def Obligations.PredicatesAndLaneWrites : Prop :=
  ∀ (p ka kb : KReg) (a : VReg) (d sa : SReg) (n : Fin 32) (y : Bool) (s : State),
    let g := s.grp
    let K := fun (o : Out) (x : BitVec 32) => Answers o (fun t =>
      OnlyGroup s t ∧ PcsAdvance g t.grp ∧ t.grp = { g with k := t.grp.k, pcs := t.grp.pcs }
        ∧ (∀ r, r ≠ p → t.grp.kBits r = g.kBits r)
        ∧ t.grp.kBits p = if p.val = 0 then BitVec.allOnes 32 else x)
    K (exec (.kand p ka kb) s) (g.kBits ka &&& g.kBits kb) ∧ K (exec (.kor p ka kb) s) (g.kBits ka ||| g.kBits kb)
      ∧ K (exec (.kxor p ka kb) s) (g.kBits ka ^^^ g.kBits kb) ∧ K (exec (.kandn p ka kb) s) (g.kBits ka &&& ~~~(g.kBits kb))
      ∧ K (exec (.knot p ka) s) (~~~(g.kBits ka)) ∧ K (exec (.kfroms p sa) s) ((g.getS sa).setWidth 32)
      ∧ UniformResult s (exec (.ktos d ka) s) d [] [] ((g.kBits ka).setWidth 64)
      ∧ Answers (exec (.kmovFromLane a p y) s) (fun t =>
          OnlyGroup s t ∧ PcsAdvance g t.grp ∧ t.grp = { g with v := t.grp.v, k := t.grp.k, pcs := t.grp.pcs }
            ∧ (∀ r, r ∉ marked [(y, a)] → t.grp.getV r = g.getV r) ∧ (∀ r, r ≠ p → t.grp.kBits r = g.kBits r)
            ∧ ∀ l, l < 32 → t.grp.getK p l =
                if p.val = 0 then true else if g.issuing l then (g.lane a l).getLsbD 0 else g.getK p l)
      ∧ LaneResult s (exec (.kmovToLane a p) s) a 0 [] [] (fun l => if g.getK p l then 1 else 0)
      ∧ Answers (exec (.vput d a n) s) (fun t =>
          LaneFrame s t a [] []
            ∧ ∀ l, l < 32 → t.grp.lane a l = if l = n.val then (g.getS d).setWidth 32 else g.lane a l)

/-- R145: RNXT steps the generator, a multiplication by x modulo P, and returns a word of the new state; its word. -/
def Obligations.GeneratorStep : Prop :=
  ∀ (d : SReg) (s : State),
    let g := s.grp
    let next := (g.gen <<< 1) ^^^ (if g.gen.getLsbD 127 then 0x87 else 0)
    decodeWord (0xD4000000 + d.val * 2 ^ 19) = .ok (.rnxt d)
      ∧ Answers (exec (.rnxt d) s) (fun t =>
        OnlyGroup s t ∧ PcsAdvance g t.grp ∧ t.grp = { g with s := t.grp.s, gen := next, pcs := t.grp.pcs }
          ∧ (∀ r, r ≠ d → t.grp.getS r = g.getS r)
          ∧ t.grp.getS d = if d.val = 63 then 0 else
              BitVec.ofNat 64 (next.toNat / 2 ^ 32 % 2 ^ 32 ^^^ next.toNat / 2 ^ 96))

/-! ### Control instructions -/

/-- R122 to R125: branches, calls and jumps move the issuing lanes. A branch with uni = 1 does so when every active lane is
at P and, for BK.each, the issuing lanes agree (R62). That the target of B, BS, BK and CALL is taken modulo 2^52 where P + 4 × offset
leaves the range of a program counter is the model's choice, which no rule states (DESIGN CHOICE, log entry 85, on R12). -/
def Obligations.BranchesMoveIssuingLanes : Prop :=
  ∀ (u : Bool) (c : BsCond) (m : BkMode) (k : KReg) (a d : SReg) (y : Bool) (x20 : BitVec 20) (x19 : BitVec 19)
    (x15 : BitVec 15) (s : State),
    let g := s.grp
    let tgt := fun (x : Int) => g.pc + BitVec.ofInt 52 (4 * x)
    let V := g.getS a
    let fits := V.toNat % 4 = 0 ∧ V.toNat < 2 ^ 52
    (u = true → ∀ l, l < 32 → g.isActive l = true → g.lanePc l = g.pc) →
    BranchResult s (exec (.b u x20) s) (fun _ => tgt x20.toInt)
      ∧ (let taken := match c with
          | .eq => V.toInt = 0
          | .ne => V.toInt ≠ 0
          | .lt => V.toInt < 0
          | .ge => 0 ≤ V.toInt
          | .ltn => False
          | .gen => True
        (taken → BranchResult s (exec (.bs u c a x15) s) (fun _ => tgt x15.toInt))
          ∧ (¬ taken → BranchResult s (exec (.bs u c a x15) s) (fun _ => g.pc + 4)))
      ∧ (let anyBit := ∃ l ∈ g.issuers, g.getK k l = true
        let all := ∀ l ∈ g.issuers, g.getK k l = true
        (u = true → m = .each → all ∨ ¬ anyBit) →
        (m ≠ .each →
            ((match m with | .any => anyBit | .all => all | .none => ¬ anyBit | .each => True) →
              BranchResult s (exec (.bk u m k x19) s) (fun _ => tgt x19.toInt))
            ∧ (¬ (match m with | .any => anyBit | .all => all | .none => ¬ anyBit | .each => True) →
              BranchResult s (exec (.bk u m k x19) s) (fun _ => g.pc + 4)))
          ∧ (m = .each → BranchResult s (exec (.bk u m k x19) s) (fun l => if g.getK k l then tgt x19.toInt else g.pc + 4)))
      ∧ Answers (exec (.call u x20) s) (fun t => OnlyGroup s t ∧ t.grp = { g with pcs := t.grp.pcs, s := t.grp.s }
          ∧ PcsMoved g t.grp (fun _ => tgt x20.toInt) ∧ t.grp.getS 62 = (g.pc + 4).setWidth 64
          ∧ ∀ r, r ≠ 62 → t.grp.getS r = g.getS r)
      ∧ (fits →
          (∀ i ∈ [Instr.jr a y, .jrReturn a y],
            Answers (exec i s) (fun t => OnlyGroup s t ∧ t.grp = { g with pcs := t.grp.pcs, s := t.grp.s }
              ∧ PcsMoved g t.grp (fun _ => V.setWidth 52) ∧ ∀ r, r ∉ markedS [(y, a)] → t.grp.getS r = g.getS r))
          ∧ Answers (exec (.jrCall d a y) s) (fun t => OnlyGroup s t ∧ t.grp = { g with pcs := t.grp.pcs, s := t.grp.s }
              ∧ PcsMoved g t.grp (fun _ => V.setWidth 52)
              ∧ t.grp.getS d = (if d.val = 63 then 0 else (g.pc + 4).setWidth 64)
              ∧ ∀ r, r ≠ d → r ∉ markedS [(y, a)] → t.grp.getS r = g.getS r))

/-- R50, R62, R125, R140, R142, R332: where control instructions trap, and what taking the trap leaves. TRAP stands at its
own word; SYSC has its lanes past it, but for a SYSC of a team that is halting already, which reports nothing and is issued again
(R332). -/
def Obligations.ControlTrapsArePrecise : Prop :=
  ∀ (c : BitVec 13) (m : BkMode) (k : KReg) (a d : SReg) (y : Bool) (x20 : BitVec 20) (x19 : BitVec 19)
    (x15 : BitVec 15) (cs : BsCond) (s : State),
    let g := s.grp
    let V := g.getS a
    s.cur.2 < 18 →
    (0x100 ≤ c.toNat → TrapTaken s (exec (.trap c) s) c.toNat 1 0 0)
      ∧ (c.toNat < 0x100 → TrapTaken s (exec (.trap c) s) 0x01 0 0 0)
      ∧ (s.team.trap = none →
          Answers (exec (.sysc c) s) (fun t => OnlyTeam s t ∧ t.grp = { g with pcs := t.grp.pcs, status := .trapped }
            ∧ PcsAdvance g t.grp ∧ t.team = { s.team with trap := reportOf s 0 2 0 c.toNat }))
      ∧ (s.team.trap ≠ none → TrapTaken s (exec (.sysc c) s) 0 2 0 c.toNat)
      ∧ ((∃ l, l < 32 ∧ g.isActive l = true ∧ g.lanePc l ≠ g.pc) →
          TrapTaken s (exec (.b true x20) s) 0x06 0 0 0 ∧ TrapTaken s (exec (.call true x20) s) 0x06 0 0 0
            ∧ TrapTaken s (exec (.bs true cs a x15) s) 0x06 0 0 0 ∧ TrapTaken s (exec (.bk true m k x19) s) 0x06 0 0 0)
      ∧ ((∃ l ∈ g.issuers, g.getK k l = true) → (∃ l ∈ g.issuers, g.getK k l = false) →
          TrapTaken s (exec (.bk true .each k x19) s) 0x06 0 0 0)
      ∧ (∀ i ∈ [Instr.jr a y, .jrReturn a y, .jrCall d a y],
          (V.toNat % 4 ≠ 0 → TrapTaken s (exec i s) 0x01 0 0 0)
            ∧ (V.toNat % 4 = 0 → 2 ^ 52 ≤ V.toNat → TrapTaken s (exec i s) 0x04 0 V.toNat 0))

/-- R61, R66, R138, R139: NOP moves on; HALT takes the issuing lanes off the active mask, and a group whose mask is empty has
ended and has released its lane registers (no sibling waiting at a boundary that this would complete); a side sequencer that halts is
halted, its registers
undefined. -/
def Obligations.HaltAndNop : Prop :=
  ∀ (s : State),
    let g := s.grp
    BranchResult s (exec .nop s) (fun _ => g.pc + 4)
      ∧ (s.cur.2 < 16 → (∀ a, a < s.team.ngrp → a ≠ s.cur.2 → (s.agent s.cur.1 a).standing = none) →
          Answers (exec .halt s) (fun t => OnlyGroup s t
            ∧ t.grp = { g with pcs := t.grp.pcs, active := t.grp.active, status := t.grp.status, v := t.grp.v }
            ∧ PcsAdvance g t.grp ∧ (t.grp.status ≠ .ended → t.grp.v = g.v)
            ∧ (∀ l, l < 32 → t.grp.isActive l = (g.isActive l && !g.issuing l))
            ∧ t.grp.status = if allLanes.all (fun l => !g.isActive l || g.issuing l) then .ended else g.status))
      ∧ (16 ≤ s.cur.2 →
          Answers (exec .halt s) (fun t => OnlyGroup s t
            ∧ t.grp = { g with pcs := t.grp.pcs, s := t.grp.s, status := .ended, seqSt := 2 }))

/-- R131, R132, R133: an ARRIVE of an agent whose window stores are performed is counted unless the count is saturated;
WAITB lowers a count that is not 0 and is served in the order of issue, and otherwise waits; an arrival that was held is
counted once the count allows, in the counts of the restart point too: it is another's, and stands though the phase is abandoned (R328).
Each of these completes, under conditions on the state and its operands alone: ARRIVE, WAITB,
BARRIER_ARRIVAL_HELD_COUNTED. -/
def Obligations.HardwareBarriers : Prop :=
  ∀ (h : Fin 8) (t : Nat) (s : State),
    let x := s.team
    let n := x.count h
    let first := (x.hbq.find? (fun p => p.1 == h)).getD (h, s.cur.2)
    (s.grp.stores = [] → n < 65535 →
        Answers (exec (.arrive h) s) (fun t => OnlyTeam s t ∧ t.grp = { s.grp with pcs := t.grp.pcs } ∧ PcsAdvance s.grp t.grp
          ∧ t.team = { x with hb := t.team.hb } ∧ t.team.count h = n + 1 ∧ ∀ j, j ≠ h → t.team.count j = x.count j))
      ∧ (1 ≤ n → first = (h, s.cur.2) →
        Answers (exec (.waitb h) s) (fun t => OnlyTeam s t
          ∧ t.grp = { s.grp with pcs := t.grp.pcs, status := .run } ∧ PcsAdvance s.grp t.grp
          ∧ t.team = { x with hb := t.team.hb, hbq := x.hbq.erase (h, s.cur.2) } ∧ t.team.count h = n - 1
          ∧ ∀ j, j ≠ h → t.team.count j = x.count j))
      ∧ (n = 0 ∨ first ≠ (h, s.cur.2) →
        Answers (exec (.waitb h) s) (fun t => OnlyTeam s t ∧ t.grp = { s.grp with status := .waitb }
          ∧ (h, s.cur.2) ∈ t.team.hbq ∧ t.team = { x with hbq := t.team.hbq }))
      ∧ (let z := s.teamOf t
        ∀ p, z.hbHeld.find? (fun p => p.1 == h) = some p → z.status = .placed → z.count h < 65535 →
          Answers (exec (.barrierArrivalHeldCounted t h) s) (fun u => u = { s with teams := u.teams }
            ∧ (∀ v, v ≠ t → u.teamOf v = s.teamOf v)
            ∧ u.teamOf t = { z with hb := (u.teamOf t).hb, hbHeld := z.hbHeld.erase p, restHb := (u.teamOf t).restHb }
            ∧ (u.teamOf t).count h = z.count h + 1 ∧ (∀ j, j ≠ h → (u.teamOf t).count j = z.count j)
            ∧ ∀ i, i < 8 → vget 0 (u.teamOf t).restHb i = vget 0 z.restHb i + if i = h.val then 1 else 0))

/-- R127 to R129: a group whose active lanes stand together arrives at PHASE or CBAR and waits there; the arrival that is
the team's last begins the boundary if all waiting groups stand at the same word, and raises 0x06 if they do not. Bad
carry-set fields raise 0x01, lanes apart 0x06. -/
def Obligations.BoundaryArrivals : Prop :=
  ∀ (i : Instr) (cbar e : Bool) (c : BitVec 8) (s : State),
    i = (if cbar then .cbar e c else .phase e c) →
    let g := s.grp
    let imm := c.toNat + if e then 256 else 0
    let here := (cbar, imm, g.pc.toNat)
    let others := (s.liveGroups s.cur.1).filter (fun a => decide (a ≠ s.cur.2))
    let valid := if e then c = 0 else c.toNat < s.team.kernel.carry.length
    let apart := ∃ l, l < 32 ∧ g.isActive l = true ∧ g.lanePc l ≠ g.pc
    let mine := s.cur.2 ∈ s.liveGroups s.cur.1
    s.cur.2 < 16 → g.status = .run →
    (¬ valid → TrapTaken s (exec i s) 0x01 0 0 0)
      ∧ (valid → apart → TrapTaken s (exec i s) 0x06 0 0 0)
      ∧ (valid → ¬ apart → g.tickets = [] → g.stores = [] → mine → s.team.begun = none →
        ((∃ a ∈ others, (s.agent s.cur.1 a).standing = none) →
          Answers (exec i s) (fun t => OnlyTeam s t ∧ t.grp = { g with status := .boundary cbar imm }
            ∧ t.team = { s.team with atB := false }))
        ∧ ((∀ a ∈ others, (s.agent s.cur.1 a).standing = some here) → s.team.unpub = [] →
            (s.gridOf s.team.grid).failing = none →
          Answers (exec i s) (fun t => OnlyTeam s t ∧ t.grp = { g with status := .boundary cbar imm }
            ∧ t.team = { s.team with begun := some (cbar && s.team.w * s.team.h != 1), got := 0, atB := false }))
        ∧ ((∀ a ∈ others, (s.agent s.cur.1 a).standing ≠ none) → (∃ a ∈ others, (s.agent s.cur.1 a).standing ≠ some here) →
          Answers (exec i s) (fun t => OnlyTeam s t ∧ t.grp = { g with status := .trapped }
            ∧ t.team = { s.team with trap := reportOf s 0x06 0 0 0, atB := false })))

/-- R70, R127, R129, R130, R227, R235, R236: a PHASE boundary completes. The core's CT becomes the larger of CT and the times
returned, plus 1; the team's stable marks go; every waiting group stands at its own P + 4 with the registers of the carry set
kept; barrier counts, the active masks and the floating-point environment persist. A CBAR boundary completes for the whole
cluster at once, in each of its teams as a PHASE does, but that every core of it sets CT to one more than the largest time among
them.
Each of these completes, under conditions on the state and its operands alone: PHASE_BOUNDARY_COMPLETE,
CBAR_BOUNDARY_COMPLETE. -/
def Obligations.BoundariesJoinTime : Prop :=
  (∀ (t imm : Nat) (s : State),
    let x := s.teamOf t
    let live := s.liveGroups t
    let n := Nat.max (s.coreOf x.core).ct x.got + 1
    let carry := x.kernel.carrySet (csetOf imm)
    s.boundaryReady t false = true → x.pubTrap = none → x.request = none → (s.gridOf x.grid).failing = none →
    s.dev.rebase = false → n < 2 ^ 31 →
    live ≠ [] → (∀ a ∈ live, ∃ pc, (s.agent t a).standing = some (false, imm, pc)) →
    Answers (exec (.phaseBoundaryComplete t) s) (fun u =>
      (u.coreOf x.core).ct = n ∧ (∀ k ∈ (u.coreOf x.core).copies, t ∉ k.stable)
        ∧ (∀ c, c ≠ x.core → u.coreOf c = s.coreOf c) ∧ SameMem s u
        ∧ (u.teamOf t).phase = x.phase + 1 ∧ (u.teamOf t).begun = none ∧ (u.teamOf t).hb = x.hb
        ∧ (∀ v, v ≠ t → u.teamOf v = s.teamOf v)
        ∧ (∀ a ∈ live, let g := s.agent t a
            let h := u.agent t a
            PcsAdvance g h ∧ h.active = g.active ∧ h.status = .run ∧ h.fpcr = g.fpcr ∧ h.fpsr = g.fpsr ∧ h.gen = g.gen
              ∧ (∀ r, .v r ∈ carry → h.getV r = g.getV r) ∧ (∀ r, .s r ∈ carry → h.getS r = g.getS r)
              ∧ (∀ r, .k r ∈ carry → h.kBits r = g.kBits r))))
    ∧ ∀ (cl : Nat) (imm : Nat → Nat) (s : State),
    let all := s.teamKeys.filter (fun t => (s.teamOf t).cluster == cl && (s.teamOf t).handles.isNone
      && (s.teamOf t).status != .ended)
    let times := all.map (fun t => Nat.max (s.coreOf (s.teamOf t).core).ct (s.teamOf t).got)
    all ≠ [] → all.Nodup → (∀ t ∈ all, s.boundaryReady t true = true ∧ (s.teamOf t).pubTrap = none ∧ (s.teamOf t).request = none
      ∧ (s.gridOf (s.teamOf t).grid).failing = none ∧ (s.teamOf t).ngrp ≤ 16 ∧ s.liveGroups t ≠ []
      ∧ ∀ a ∈ s.liveGroups t, ∃ pc, (s.agent t a).standing = some (true, imm t, pc)) →
    s.dev.rebase = false → (∀ n ∈ times, n + 1 < 2 ^ 31) →
    Answers (exec (.cbarBoundaryComplete cl) s) (fun u => ∃ j, j ∈ times ∧ (∀ n ∈ times, n ≤ j)
      ∧ (∀ t ∈ all, (u.coreOf (s.teamOf t).core).ct = j + 1 ∧ (u.teamOf t).phase = (s.teamOf t).phase + 1
          ∧ (u.teamOf t).begun = none ∧ (u.teamOf t).hb = (s.teamOf t).hb
          ∧ (∀ k ∈ (u.coreOf (s.teamOf t).core).copies, t ∉ k.stable)
          ∧ ∀ a ∈ s.liveGroups t, let g := s.agent t a
            let h := u.agent t a
            let carry := (s.teamOf t).kernel.carrySet (csetOf (imm t))
            PcsAdvance g h ∧ h.active = g.active ∧ h.status = .run ∧ h.fpcr = g.fpcr ∧ h.fpsr = g.fpsr ∧ h.gen = g.gen
              ∧ (∀ r, .v r ∈ carry → h.getV r = g.getV r) ∧ (∀ r, .s r ∈ carry → h.getS r = g.getS r)
              ∧ (∀ r, .k r ∈ carry → h.kBits r = g.kBits r))
      ∧ (∀ t, t ∉ all → u.teamOf t = s.teamOf t ∧ ∀ a, a < 32 → u.agent t a = s.agent t a) ∧ SameMem s u)

/-- R134, R227, R231: with nothing outstanding a fence of every kind and scope completes, one of system scope when no publication
of the team is unacknowledged; an acquire or full fence ends the team's view: no copy stays stable for it, and its loads take no
renewal that was asked for before. A release with unpublished bytes sends each line that holds some to its home
and waits.
That a later load takes no renewal asked for before the view point (`fromOf l = nextId`) is the model's choice, a reading (DEDUCED, log
entry 15). -/
def Obligations.FencesPublishAndRenewTheView : Prop :=
  ∀ (sc : Scope) (s : State),
    let x := s.team
    let done := fun (t : State) => t.grp = { s.grp with pcs := t.grp.pcs } ∧ PcsAdvance s.grp t.grp ∧ SameMem s t
      ∧ ∀ u, u ≠ s.cur.1 → t.teamOf u = s.teamOf u
    (Quiet s → s.dev.rebase = false → (sc = .system → x.pubs = []) →
        Answers (exec (.fenceRelease sc) s) (fun t => done t ∧ t.cores = s.cores ∧ t.net = s.net)
          ∧ (∀ i ∈ [Instr.fenceAcquire sc, .fenceFull sc], Answers (exec i s) (fun t => done t ∧ t.net = s.net
              ∧ (∀ l, t.team.fromOf l = s.net.nextId) ∧ (∀ k ∈ t.core.copies, s.cur.1 ∉ k.stable)
              ∧ ∀ c, c ≠ x.core → t.coreOf c = s.coreOf c)))
      ∧ (s.grp.status = .run → s.grp.stores = [] → x.pubTrap = none → x.remTrap = [] → x.unpub ≠ [] →
          s.closedUnpub s.cur.1 = none → s.absentUnpub s.cur.1 = [] → (sc = .device ∨ sc = .system) →
          ∀ i ∈ [Instr.fenceRelease sc, .fenceFull sc], Answers (exec i s) (fun t =>
            (∃ ids, t.grp = { s.grp with status := .fence ids }) ∧ SameMem s t ∧ t.team.unpub = []
              ∧ ∀ l ∈ x.unpubLines, ∃ r ∈ t.net.reqs, r.team = s.cur.1 ∧ r.va = l ∧ r.kind = .publish (x.unpubOf l)))

/-- R135: SPIN with nothing outstanding checks its address and asks the line's home for a renewal, at which it waits; the
renewal ends it (RepliesReachTheCore states how it completes there). On a page that keeps no copies it advances CT by 1 and is
complete: SPIN completes so, under conditions on the state and its operands alone. A misaligned address raises 0x03.
What SPIN does on a page that keeps no copies, UNCACHED or REMOTE, is the model's choice, which no rule states (DEDUCED, log entry
16). -/
def Obligations.SpinRenewsItsLine : Prop :=
  ∀ (a : SReg) (x : BitVec 11) (s : State),
    let va := s.grp.uniAddr a .b64 x
    Quiet s → s.dev.rebase = false → s.cur.2 < 18 →
    (va % 8 ≠ 0 → TrapTaken s (exec (.spin a x) s) 0x03 0 va 0)
      ∧ (va % 8 = 0 → s.chkGlobal s.cur.1 va .load = .ok →
        ((s.attrAt s.cur.1 va = .leased ∨ s.attrAt s.cur.1 va = .hosted) →
          Answers (exec (.spin a x) s) (fun t => t.grp = { s.grp with status := .spin s.net.nextId } ∧ SameMem s t
            ∧ ∃ r ∈ t.net.reqs, r.id = s.net.nextId ∧ r.va = va / 128 * 128 ∧ r.kind = .renew true ∧ r.team = s.cur.1))
        ∧ ((s.attrAt s.cur.1 va = .uncached ∨ s.attrAt s.cur.1 va = .remote) → s.core.ct + 1 < 2 ^ 31 →
          Answers (exec (.spin a x) s) (fun t => t.grp = { s.grp with pcs := t.grp.pcs } ∧ PcsAdvance s.grp t.grp
            ∧ SameMem s t ∧ t.core.ct = s.core.ct + 1)))

/-- R136, R137: FORK starts each sequencer that it names once it is idle, with s0 the value given and every other register 0, and is
done when all have started; a sequencer without a program raises 0x01. REND releases the named ones once none of them runs. -/
def Obligations.SideSequencerForkAndJoin : Prop :=
  ∀ (a : SReg) (m : SideMask) (s : State),
    let t := s.cur.1
    let named := match m with | .fore => [16] | .hind => [17] | .both => [16, 17]
    let prog := fun n => if n = 16 then s.team.kernel.fore else s.team.kernel.hind
    let started := fun (u : State) (n : Nat) => (u.agent t n).seqSt = 1 ∧ (u.agent t n).status = .run ∧ (u.agent t n).pc = 0
      ∧ ∀ r : SReg, (u.agent t n).getS r = if r.val = 0 then s.grp.getS a else 0
    let frame := fun (u : State) => u = { s with groups := u.groups, teams := u.teams }
      ∧ (∀ v, v ≠ t → u.teamOf v = s.teamOf v) ∧ u.team = { s.team with used := u.team.used }
      ∧ ∀ v b, agentKey v b ≠ agentKey t s.cur.2 → (∀ n ∈ named, agentKey v b ≠ agentKey t n) → u.agent v b = s.agent v b
    s.cur.2 < 16 →
    (∀ left : List Nat, (s.grp.status = .run ∧ left = named) ∨ (s.grp.status = .fork left ∧ (∀ n ∈ left, n ∈ named)) →
        (∀ n ∈ named, prog n ≠ 0xFFFFFFFF) →
        ((∃ n ∈ left, s.seqFree t n = true) →
          Answers (exec (.fork a m) s) (fun u => frame u ∧ (∀ n ∈ left, s.seqFree t n = true → started u n)
            ∧ (∀ n ∈ named, (n ∈ left → s.seqFree t n = false) → u.agent t n = s.agent t n)
            ∧ ((∀ n ∈ left, s.seqFree t n = true) → PcsAdvance s.grp u.grp ∧ u.grp = { s.grp with pcs := u.grp.pcs, status := .run })
            ∧ ((∃ n ∈ left, s.seqFree t n = false) →
              u.grp = { s.grp with status := .fork (left.filter (fun n => !s.seqFree t n)) })))
        ∧ ((∀ n ∈ left, s.seqFree t n = false) → exec (.fork a m) s = .next s))
      ∧ ((∃ n ∈ named, prog n = 0xFFFFFFFF) → TrapTaken s (exec (.fork a m) s) 0x01 0 0 0)
      ∧ ((∀ n ∈ named, (s.agent t n).seqSt ≠ 1) →
        Answers (exec (.rend m) s) (fun u => frame u ∧ PcsAdvance s.grp u.grp ∧ u.grp = { s.grp with pcs := u.grp.pcs } ∧ ∀ n ∈ named, u.agent t n = { s.agent t n with seqSt := 0 }))

/-! ### System instructions -/

/-- R53 to R55, R138, R143: the unprivileged control registers. MFC gives each its contents; an unassigned index, an MTC of a
read-only one and an MTC with a reserved bit set raise 0x01 and change nothing. MTC of cr.fpcr and cr.fpsr writes them. On a side
sequencer MFC of cr.grp reads 0x10 or 0x11 and of cr.fpcr and cr.fpsr 0, that of an index of 0x020 or above raises 0x02, and
the word of an MTC raises 0x01 as it issues. -/
def Obligations.UnprivilegedControlRegisters : Prop :=
  ∀ (d : SReg) (x : BitVec 12) (s : State),
    let t := s.team
    let V := (s.grp.getS d)
    let table : List (Nat × DWord) := [(0x000, BitVec.ofNat 64 (s.core.ct % 2 ^ 32)), (0x001, BitVec.ofNat 64 s.dev.tbgen),
      (0x002, s.grp.fpcr), (0x003, s.grp.fpsr), (0x004, BitVec.ofNat 64 t.lbase), (0x005, BitVec.ofNat 64 t.rank),
      (0x006, BitVec.ofNat 64 s.cur.2), (0x007, BitVec.ofNat 64 t.ngrp),
      (0x008, BitVec.ofNat 64 ((t.py * t.w + t.px) + t.px * 256 + t.py * 4096)), (0x009, BitVec.ofNat 64 (t.w + t.h * 16)),
      (0x00A, BitVec.ofNat 64 (t.core % 144 + t.core / 144 * 256)), (0x00B, BitVec.ofNat 64 (s.dev.dom * 1024 + s.dev.mem)),
      (0x00C, BitVec.ofNat 64 (s.gridOf t.grid).node), (0x00D, BitVec.ofNat 64 (s.gridOf t.grid).attempt),
      (0x00E, BitVec.ofNat 64 t.param), (0x00F, BitVec.ofNat 64 t.lswin)]
    (s.cur.2 = 16 ∨ s.cur.2 = 17 →
      (∀ p ∈ table, x.toNat = p.1 → UniformResult s (exec (.mfc d x) s) d [] [] (if p.1 = 2 ∨ p.1 = 3 then 0 else p.2))
        ∧ (0x10 ≤ x.toNat → x.toNat < 0x20 → TrapTaken s (exec (.mfc d x) s) 0x01 0 0 0)
        ∧ (0x20 ≤ x.toNat → TrapTaken s (exec (.mfc d x) s) 0x02 0 0 0)
        ∧ ∀ (rest : List Turn) (m : State) (bs : List Byte), s = { m with agenda := rest, cur := s.cur } →
          m.agenda = .issue s.cur.1 s.cur.2 :: rest → s.mayIssue s.cur.1 s.cur.2 = true → s.fetchFirst s.cur.1 s.cur.2 = none →
          s.dev.rebase = false → s.grp.pc.toNat < 0x4000 → s.grp.outs = [] →
          decodeBytes (s.sideBytes s.cur.1 s.cur.2 s.grp.pc.toNat) = .ok (.mtc d x, bs) → TrapTaken s (step m) 0x01 0 0 0)
      ∧ (s.cur.2 < 16 →
    (∀ p ∈ table, x.toNat = p.1 → UniformResult s (exec (.mfc d x) s) d [] [] p.2)
      ∧ (0x10 ≤ x.toNat → x.toNat < 0x20 → TrapTaken s (exec (.mfc d x) s) 0x01 0 0 0)
      ∧ (x.toNat = 2 → V.toNat < 2 ^ 8 → Answers (exec (.mtc d x) s) (fun u =>
          OnlyGroup s u ∧ PcsAdvance s.grp u.grp ∧ u.grp = { s.grp with pcs := u.grp.pcs, fpcr := V }))
      ∧ (x.toNat = 3 → V.toNat < 2 ^ 5 → Answers (exec (.mtc d x) s) (fun u =>
          OnlyGroup s u ∧ PcsAdvance s.grp u.grp ∧ u.grp = { s.grp with pcs := u.grp.pcs, fpsr := V }))
      ∧ ((x.toNat = 2 ∧ 2 ^ 8 ≤ V.toNat) ∨ (x.toNat = 3 ∧ 2 ^ 5 ≤ V.toNat) ∨ (x.toNat < 0x20 ∧ x.toNat ≠ 2 ∧ x.toNat ≠ 3) →
          TrapTaken s (exec (.mtc d x) s) 0x01 0 0 0))

/-- R54, R143, R340: the privileged control registers. An agent that is no supervisor takes 0x02 at every index from 0x020
on; a supervisor reads and writes them. A write of a mask starts the retirement of each core whose bit is cleared and the
return of each whose bit is set; one of cr.l1size starts a change, one of cr.preempt a request; one with a reserved bit set
raises 0x01 and changes nothing, as does an unassigned or read-only index.
Three clauses are the model's choice: that cr.cocoon shows the partitions of both dies and the moves that are queued (DEDUCED, log
entry 26), and that what a write starts is a turn of its own on the agenda (DESIGN CHOICE, log entries 1 and 2). -/
def Obligations.PrivilegedControlRegisters : Prop :=
  ∀ (d : SReg) (x : BitVec 12) (s : State),
    let V := s.grp.getS d
    let n := V.toNat
    let R := fun (v : DWord) => UniformResult s (exec (.mfc d x) s) d [] [] v
    let W := fun (p : State → Prop) => Answers (exec (.mtc d x) s) (fun u => PcsAdvance s.grp u.grp
      ∧ u.grp = { s.grp with pcs := u.grp.pcs } ∧ SameMem s u ∧ u.teams = s.teams ∧ p u)
    let D := fun (v : Dev) => W (fun u => u = { s with groups := u.groups, dev := v })
    let bad := TrapTaken s (exec (.mtc d x) s) 0x01 0 0 0
    s.cur.2 < 16 → 0x20 ≤ x.toNat →
    (s.team.sup = false →
        TrapTaken s (exec (.mfc d x) s) 0x02 0 0 0 ∧ TrapTaken s (exec (.mtc d x) s) 0x02 0 0 0)
      ∧ (s.team.sup = true →
        (x.toNat = 0x20 → R s.dev.ctxtab ∧ (n % 2 ^ 16 = 0 → n < 2 ^ 52 → D { s.dev with ctxtab := V })
            ∧ (n % 2 ^ 16 ≠ 0 ∨ 2 ^ 52 ≤ n → bad))
        ∧ (x.toNat = 0x21 → R (BitVec.ofNat 64 (s.core.l1 + if s.core.l1next = [] then 0 else 2 ^ 63)) ∧ (3 ≤ n → bad)
            ∧ (n < 3 → W (fun u => u.core.l1next = s.core.l1next ++ [n] ∧ u.dev = s.dev
              ∧ .auto (.carveOutChange s.team.core) ∈ u.agenda)))
        ∧ (∀ j, j < 5 → x.toNat = 0x22 + j →
            R (vget 0 s.dev.cmask j) ∧ (j = 4 → 2 ^ 32 ≤ n → bad)
            ∧ ((j = 4 → n < 2 ^ 32) → W (fun u => u.dev = { s.dev with cmask := u.dev.cmask } ∧ u.cores = s.cores
              ∧ (∀ i, i < 5 → vget 0 u.dev.cmask i = if i = j then V else vget 0 s.dev.cmask i)
              ∧ ∀ i, i < 64 → let was := (vget 0 s.dev.cmask j).getLsbD i
                  (was = true → V.getLsbD i = false → .auto (.coreRetire (64 * j + i)) ∈ u.agenda)
                    ∧ (was = false → V.getLsbD i = true → .auto (.coreReturn (64 * j + i)) ∈ u.agenda))))
        ∧ (x.toNat = 0x27 → R s.dev.wdog ∧ D { s.dev with wdog := V })
        ∧ (x.toNat = 0x28 → R s.dev.dlim ∧ D { s.dev with dlim := V })
        ∧ (x.toNat = 0x29 → R s.dev.quant ∧ D { s.dev with quant := V })
        ∧ (x.toNat = 0x2A → R (BitVec.ofNat 64 (match s.team.handles with
            | some _ => s.team.trecVA
            | none => 0)) ∧ bad)
        ∧ (x.toNat = 0x2B → R 0 ∧ (n / 4 % 2 ^ 14 ≠ 0 → bad)
            ∧ (let asid := n / 2 ^ 16 % 2 ^ 16
              let node := n / 2 ^ 32
              n / 4 % 2 ^ 14 = 0 → (s.team.ctx.sup = true ∨ asid = s.team.asid →
                  W (fun u => u.dev = s.dev ∧ u.agenda = s.agenda ++ [.auto (if n % 4 = 0 then .preemptSchedulerChoice asid node
                    else if n % 4 = 1 then .preemptDrain asid node else if n % 4 = 2 then .preemptSave asid node
                    else .preemptFlush asid node)]))
                ∧ (s.team.ctx.sup = false → asid ≠ s.team.asid → TrapTaken s (exec (.mtc d x) s) 0x02 0 0 0)))
        ∧ (x.toNat = 0x2C → (∃ v : DWord, R v ∧ ∀ p, p < 8 →
              v.getLsbD p = ((s.dieAt 0).cocoon == some p || (s.dieAt 1).cocoon == some p)
                ∧ v.getLsbD (8 + p) = s.dev.moves.any (fun m => m.1 == p)) ∧ (16 ≤ n → bad)
            ∧ (n < 16 → D { s.dev with moves := s.dev.moves ++ [(n % 8, decide (8 ≤ n))] }))
        ∧ (0x2D ≤ x.toNat → bad ∧ TrapTaken s (exec (.mfc d x) s) 0x01 0 0 0))

/-- R146, R147: RJMP leaves the state that as many RNXT as s(sa) says would leave; RDRAW leaves G unchanged and returns what
RNXT would return after n + 1 steps from the seed of a granted handle, and raises 0x02 for any other handle.
That a seed whose bytes cannot be read is 0x09 is a reading (DEDUCED, log entry 90). -/
def Obligations.GeneratorJumpsAndDraws : Prop :=
  ∀ (d a b : SReg) (s : State),
    let g := s.grp
    let next := fun (x : BitVec 128) => (x <<< 1) ^^^ (if x.getLsbD 127 then 0x87 else 0)
    let at_ := s.team.ctx.seeds + 16 * (g.getS a).toNat
    let lost := (g.getS a).toNat < s.team.ctx.nseed ∧ s.badVa s.team.ctx.l1pa at_ 16 = true
    Answers (exec (.rjmp a) s) (fun t => OnlyGroup s t ∧ PcsAdvance g t.grp
        ∧ t.grp = { g with gen := Nat.repeat next (g.getS a).toNat g.gen, pcs := t.grp.pcs })
      ∧ (s.cur.2 < 18 → lost → TrapTaken s (exec (.rdraw d a b) s) 0x09 0 at_ 0)
      ∧ (∀ seed, ¬ lost → s.seedOf (g.getS a).toNat = some seed →
          let x := Nat.repeat next ((g.getS b).toNat + 1) seed
          UniformResult s (exec (.rdraw d a b) s) d [] [] (BitVec.ofNat 64 (x.toNat / 2 ^ 32 % 2 ^ 32 ^^^ x.toNat / 2 ^ 96)))
      ∧ (s.cur.2 < 18 → ¬ lost → s.seedOf (g.getS a).toNat = none → TrapTaken s (exec (.rdraw d a b) s) 0x02 0 0 0)

/-- R148, R149: PGREQ asks once for an absent page and never waits; a resident page makes it have no effect, an address with no
mapping raises 0x04, one on the way to which a table line cannot be read 0x09 (R56). LAUNCH and NTOK of a mapped, writable record at a
multiple of 128, with nothing outstanding, post one
request to the graph engine and go on; a misaligned address raises 0x03. -/
def Obligations.RequestsArePosted : Prop :=
  (∀ (a : SReg) (s : State),
    let va := (s.grp.getS a).toNat
    let x := s.team
    s.cur.2 < 18 →
    (s.walk x.ctx.l1pa va = none →
        TrapTaken s (exec (.pgreq a) s) (if s.walkLost x.ctx.l1pa va = true then 0x09 else 0x04) 0 va 0)
      ∧ (∀ l, s.walk x.ctx.l1pa va = some l →
        Answers (exec (.pgreq a) s) (fun t => t.grp = { s.grp with pcs := t.grp.pcs } ∧ PcsAdvance s.grp t.grp
          ∧ t = { s with groups := t.groups, net := t.net }
          ∧ t.net = { s.net with pageRq := t.net.pageRq }
          ∧ (l.rs = true → t.net.pageRq = s.net.pageRq)
          ∧ (l.rs = false → (x.asid, l.page va) ∈ t.net.pageRq ∧ ∀ p ∈ s.net.pageRq, p ∈ t.net.pageRq))))
    ∧ ∀ (launch : Bool) (i : Instr) (a : SReg) (s : State),
    i = (if launch then .launch a else .ntok a) →
    let va := (s.grp.getS a).toNat
    Quiet s → s.cur.2 < 18 →
    (va % 128 ≠ 0 → TrapTaken s (exec i s) 0x03 0 va 0)
      ∧ (va % 128 = 0 → s.chkGlobal s.cur.1 va .store = .ok → s.attrAt s.cur.1 va ≠ .remote →
        Answers (exec i s) (fun t => t.grp = { s.grp with pcs := t.grp.pcs } ∧ PcsAdvance s.grp t.grp ∧ SameMem s t
          ∧ t.net = { s.net with graphRq := s.net.graphRq ++ [(launch, s.team.asid, va, (s.gridOf s.team.grid).gi)] }
          ∧ t.dev = s.dev ∧ t.cores = s.cores ∧ ∀ u, u ≠ s.cur.1 → t.teamOf u = s.teamOf u))

/-- R141, R324, R333, R336: TRET outside a supervisor team raises 0x02. In a handler team that has not resumed its team yet, a trap
record with legal edits makes the trapped team runnable with those edits installed: lane PCs, active masks, cr.fpsr and cr.fpcr of
each group, spc and sst of each side sequencer that has a program, and s0 to s62 of the reporting agent; a group whose mask is 0 has
ended. Its record shows a team saved between boundaries, with no trap record. A record that is none, that has been resumed, or one
of whose edits R336 refuses raises 0x01 and installs nothing.
How the record is read is a reading (DEDUCED, log entry 25), and that its header is rewritten as TRET resumes the team is the model's
choice (DESIGN CHOICE, log entry 24). -/
def Obligations.TretResumesTheTrappedTeam : Prop :=
  ∀ (s : State),
    let t := s.cur.1
    let rd := fun o => s.drain.loadedQuad t s.cur.2 (s.drain.trec t + o)
    let lane := fun (a l : Nat) => rd (0x40 + 0x120 * a + 8 * l)
    let mask := fun (a : Nat) => rd (0x40 + 0x120 * a + 0x100) % 2 ^ 32
    let fpsr := fun (a : Nat) => rd (0x40 + 0x120 * a + 0x108)
    let fpcr := fun (a : Nat) => rd (0x40 + 0x120 * a + 0x110)
    let spc := fun (a : Nat) => rd (0x1440 + 0x20 * (a - 16))
    let sst := fun (a : Nat) => rd (0x1440 + 0x20 * (a - 16) + 8) % 256
    s.cur.2 < 16 →
    (s.team.sup = false → TrapTaken s (exec .tret s) 0x02 0 0 0)
      ∧ (s.team.sup = true → s.grp.stores = [] → (s.team.handles = none ∨ s.team.resumed = true ∨ s.team.trecVA = 0) →
          TrapTaken s (exec .tret s) 0x01 0 0 0)
      ∧ (∀ u, s.team.sup = true → s.team.handles = some u → s.team.resumed = false → (s.teamOf u).status = .trapped →
          s.team.trecVA ≠ 0 → s.grp.stores = [] → u ≠ t → (s.teamOf u).ngrp ≤ 16 → (∀ r, (s.teamOf u).trap = some r → r.agent < 18) →
          let x := s.teamOf u
          let src := (x.trap.map (·.agent)).getD 0
          let has := fun (a : Nat) => (if a = 16 then x.kernel.fore else x.kernel.hind) ≠ 0xFFFFFFFF
          let legal := (∀ a, a < x.ngrp → fpcr a < 2 ^ 8 ∧ fpsr a < 2 ^ 5
              ∧ ∀ l, l < 32 → (mask a).testBit l = true → lane a l % 4 = 0 ∧ lane a l < 2 ^ 52)
            ∧ ∀ a, (a = 16 ∨ a = 17) → sst a ≤ 2 ∧ (sst a = 1 → (s.agent u a).seqSt ≠ 0 ∧ spc a % 4 = 0 ∧ spc a < 0x4000)
          (legal →
            Answers (exec .tret s) (fun r => PcsAdvance s.grp r.grp ∧ r.grp = { s.grp with pcs := r.grp.pcs }
              ∧ (r.teamOf u).status = .saved ∧ (r.teamOf u).trap = none
              ∧ (s.dev.rebase = r.dev.rebase → r.team = { s.team with resumed := true })
              ∧ (∀ a, a < x.ngrp → let g := s.agent u a
                  let h := r.agent u a
                  (∀ l, l < 32 → h.lanePc l = BitVec.ofNat 52 (lane a l)) ∧ h.active = BitVec.ofNat 32 (mask a)
                    ∧ h.fpsr = BitVec.ofNat 64 (fpsr a) ∧ h.fpcr = BitVec.ofNat 64 (fpcr a) ∧ h.k = g.k ∧ h.gen = g.gen
                    ∧ (mask a = 0 ↔ h.status = .ended) ∧ (mask a ≠ 0 → h.v = g.v) ∧ (a ≠ src → h.s = g.s))
              ∧ (∀ a, (a = 16 ∨ a = 17) → has a → let h := r.agent u a
                  h.pc = BitVec.ofNat 52 (spc a) ∧ h.seqSt = sst a ∧ h.status = (if sst a = 1 then .run else .ended))
              ∧ (∀ i : SReg, i.val < 63 → (r.agent u src).getS i = BitVec.ofNat 64 (rd (0x1240 + 8 * i.val)))
              ∧ (x.recVA = 0 → SameMem s r)
              ∧ ∀ pa l, x.recVA ≠ 0 → x.late = [] → s.mem.wf = true → (∀ i, i < 64 → s.walk x.ctx.l1pa (x.recVA + i) = some l
                  ∧ l.phys (x.recVA + i) = pa + i ∧ s.homeGone (pa + i) = false) →
                r.mem.read (pa + 2) = 1 ∧ ∀ i, i < 8 → r.mem.read (pa + 0x10 + i) = 0))
          ∧ (¬ legal → TrapTaken s (exec .tret s) 0x01 0 0 0))

/-! ### Loads, stores and atomics -/

/-- R75, R226, R284, R285, R116: global and parameter-space loads whose bytes are all at hand, each the team's own latest or
that of a copy it may read, on lines of which the team awaits no atomic, complete at issue: the destination holds the bytes, least
significant first and zero-extended,
four registers for a 16-byte access. Parameter space is global memory from cr.param on. A byte of which the team holds none of its
own comes from a copy of its core only if that copy is stable for the team, or is the line's latest there with a lease that has not
ended, CT being at most its rts, or HOSTED and not invalidated (R226, R227, R255). -/
def Obligations.GlobalLoadsOfKnownBytes : Prop :=
  (∀ (t a va : Nat) (b : Byte) (s : State), s.ownByte t a va = none → s.cachedByte t a va = some b →
    let c := s.coreOf (s.teamOf t).core
    ∃ k ∈ c.copies, k.asid = (s.teamOf t).asid ∧ k.line = lineOf va ∧ k.data[va % 128]? = some b
      ∧ (t ∈ k.stable ∨ k.latest = true ∧ (k.leaf.attr = .hosted ∨ c.ct ≤ k.rts)))
    ∧ ∀ (i : Instr) (sp : Space) (base : Nat) (d a : VReg) (sb e : SReg) (w : LSize) (v : Sys2Proof.USize) (x : BitVec 11) (y : Bool)
    (q : Fin 4) (s : State),
    sp = .global ∧ base = 0 ∨ sp = .param ∧ base = s.team.param →
    let g := s.grp
    let known := fun (va n : Nat) => (s.attrAt s.cur.1 (base + va) = .leased ∨ s.attrAt s.cur.1 (base + va) = .hosted)
      ∧ s.atomicAway s.cur.1 (lineOf (base + va)) = false
      ∧ ∀ j, j < n → (s.cachedByte s.cur.1 s.cur.2 (base + va + j)).isSome = true
    let byte := fun (va j : Nat) => (s.cachedByte s.cur.1 s.cur.2 (base + va + j)).getD 0
    let kept := fun (t : State) => t = { s with groups := t.groups, cores := t.cores, fresh := t.fresh }
      ∧ (∀ u c, agentKey u c ≠ agentKey s.cur.1 s.cur.2 → t.agent u c = s.agent u c)
      ∧ (∀ c, c ≠ s.team.core → t.coreOf c = s.coreOf c) ∧ t.core = { s.core with copies := t.core.copies } ∧ SameMem s t
      ∧ PcsAdvance g t.grp
    g.status = .run →
    ((i = if sp = .global then .ldg d a sb w y q else .ldk d a sb w y q) →
        s.judge sp .load (g.accesses a sb q (lsizeBytes w)) = .ok →
        (∀ l ∈ g.actors q, known (g.laneAddr a sb l) (lsizeBytes w)) →
        Answers (exec i s) (fun t => kept t ∧ LanesLoaded g t.grp d w q (marked [(y, a)]) (fun l => byte (g.laneAddr a sb l))))
      ∧ ((i = if sp = .global then .ldgs e sb v x else .ldks e sb v x) →
        s.judge sp .load [{ lane := 0, va := g.uniAddr sb v x, n := usizeBytes v }] = .ok →
        known (g.uniAddr sb v x) (usizeBytes v) →
        Answers (exec i s) (fun t => kept t ∧ t.grp = { g with pcs := t.grp.pcs, s := t.grp.s }
          ∧ (∀ r, r ≠ e → t.grp.getS r = g.getS r)
          ∧ t.grp.getS e = if e.val = 63 then 0 else
              BitVec.ofNat 64 (natLE ((List.range (usizeBytes v)).map (byte (g.uniAddr sb v x))))))

/-- R64, R75, R226: a load of a LEASED or HOSTED page with a byte missing, which no atomic or publication of its team holds back
(R72, R75), issues all the same: its lanes move on, its
destination is pending, and a renewal of each line with a missing byte is on its way to the line's home. -/
def Obligations.GlobalLoadsThatMissDoNotBlock : Prop :=
  ∀ (d a : VReg) (sb e : SReg) (w : LSize) (v : Sys2Proof.USize) (x : BitVec 11) (y : Bool) (q : Fin 4) (s : State),
    let g := s.grp
    let cached := fun (va : Nat) => s.attrAt s.cur.1 va = .leased ∨ s.attrAt s.cur.1 va = .hosted
    let missing := fun (va n : Nat) => ∃ j, j < n ∧ s.cachedByte s.cur.1 s.cur.2 (va + j) = none
    let waits := fun (t : State) (dst : OutDest) => PcsAdvance g t.grp ∧ SameMem s t ∧ t.teams = s.teams
      ∧ t.grp.k = g.k ∧ t.grp.status = g.status ∧ ∃ o ∈ t.grp.outs, o ∉ g.outs ∧ o.dest = dst ∧ o.id = t.net.nextId - 1
    g.status = .run → (∀ o ∈ g.outs, o.id < s.net.nextId) → (∀ l, s.team.fromOf l ≤ s.net.nextId) →
    (s.judge .global .load (g.accesses a sb q (lsizeBytes w)) = .ok →
        s.loadHeld .global (g.accesses a sb q (lsizeBytes w)) = false → (∀ l ∈ g.actors q, cached (g.laneAddr a sb l)) →
        (∃ l ∈ g.actors q, missing (g.laneAddr a sb l) (lsizeBytes w)) →
        Answers (exec (.ldg d a sb w y q) s) (fun t => waits t (.lane d (w == .x4))
          ∧ (∀ l ∈ g.actors q, missing (g.laneAddr a sb l) (lsizeBytes w) →
              t.renewing s.cur.1 (lineOf (g.laneAddr a sb l)) = true)
          ∧ ∀ r, r ∉ marked [(y, a)] → t.grp.getV r = g.getV r))
      ∧ (s.judge .global .load [{ lane := 0, va := g.uniAddr sb v x, n := usizeBytes v }] = .ok →
        s.loadHeld .global [{ lane := 0, va := g.uniAddr sb v x, n := usizeBytes v }] = false →
        cached (g.uniAddr sb v x) → missing (g.uniAddr sb v x) (usizeBytes v) →
        Answers (exec (.ldgs e sb v x) s) (fun t => waits t (.uni e) ∧ t.renewing s.cur.1 (lineOf (g.uniAddr sb v x)) = true
          ∧ t.grp.v = g.v ∧ t.grp.s = g.s))

/-- R216, R238, R263, R284, R285, R116: window and cluster-window loads of resident pages, with no window store of the agent left
to perform, complete at issue with the window's bytes and mark the pages as accessed; LDLT reads its 4 KiB block transposed. -/
def Obligations.WindowLoads : Prop :=
  ∀ (d a : VReg) (sb e : SReg) (w : LSize) (v : Sys2Proof.USize) (x : BitVec 11) (y : Bool) (q : Fin 4) (s : State),
    let g := s.grp
    let n := lsizeBytes w
    let byte := fun (sp : Space) (va j : Nat) => (s.teamOf (s.windowOf sp va).1).ls.read ((s.windowOf sp va).2 + j)
    let block := fun (va : Nat) => va / 4096 * 4096 + va / 4 % 32 * 128 + va % 4096 / 128 * 4 + va % 4
    let loaded := fun (o : Out) (at_ : Nat → Nat × Nat) (f : Nat → Nat → Byte) => Answers o (fun t => WindowFrame s t
      ∧ PcsAdvance g t.grp ∧ LanesLoaded g t.grp d w q (marked [(y, a)]) f
      ∧ ∀ l ∈ g.actors q, PagesMarked s t (at_ l).1 (at_ l).2 n)
    g.status = .run → (∀ p ∈ g.stores, p.target = .global) →
    (s.judge .window .load (g.accesses a sb q n) = .ok →
        loaded (exec (.ldl d a sb w y q) s) (fun l => (s.cur.1, g.laneAddr a sb l)) (fun l => byte .window (g.laneAddr a sb l)))
      ∧ (s.judge .cluster .load (g.accesses a sb q n) = .ok →
        loaded (exec (.ldw d a sb w y q) s) (fun l => s.windowOf .cluster (g.laneAddr a sb l))
          (fun l => byte .cluster (g.laneAddr a sb l)))
      ∧ (w ≠ .x4 → (∀ l ∈ g.actors q, g.laneAddr a sb l % n = 0
            ∧ s.chkBytes s.cur.1 (block (g.laneAddr a sb l)) n (g.laneAddr a sb l) .load
              (s.chkWindow s.cur.1 (block (g.laneAddr a sb l)) (g.laneAddr a sb l)) = .ok) →
        loaded (exec (.ldlt d a sb w y q) s) (fun l => (s.cur.1, block (g.laneAddr a sb l)))
          (fun l => byte .window (block (g.laneAddr a sb l))))
      ∧ (s.judge .window .load [{ lane := 0, va := g.uniAddr sb v x, n := usizeBytes v }] = .ok →
        Answers (exec (.ldls e sb v x) s) (fun t => WindowFrame s t ∧ PcsAdvance g t.grp
          ∧ t.grp = { g with s := t.grp.s, pcs := t.grp.pcs } ∧ (∀ r, r ≠ e → t.grp.getS r = g.getS r)
          ∧ t.grp.getS e = (if e.val = 63 then 0 else
              BitVec.ofNat 64 (natLE ((List.range (usizeBytes v)).map (byte .window (g.uniAddr sb v x)))))
          ∧ PagesMarked s t s.cur.1 (g.uniAddr sb v x) (usizeBytes v)))

/-- R281, R282: LDGP writes 0 and sets kp in the lanes whose page is absent, and loads in the others, whose kp bits it
clears; with every byte of those at hand it completes at issue. It does not wait for a page. -/
def Obligations.ProbeLoadReportsAbsentPages : Prop :=
  ∀ (d a : VReg) (sb : SReg) (p : KReg) (q : Fin 4) (s : State),
    let g := s.grp
    let va := g.laneAddr a sb
    let chk := fun l => s.chk .global s.cur.1 (va l) 4 .probe
    p.val ≠ 0 → g.status = .run →
    (∀ l ∈ g.actors q, (∃ b, chk l = .absent b) ∨ chk l = .ok
      ∧ (s.attrAt s.cur.1 (va l) = .leased ∨ s.attrAt s.cur.1 (va l) = .hosted)
      ∧ s.atomicAway s.cur.1 (lineOf (va l)) = false
      ∧ ∀ j, j < 4 → (s.cachedByte s.cur.1 s.cur.2 (va l + j)).isSome = true) →
    Answers (exec (.ldgp d a sb p q) s) (fun t => SameMem s t ∧ t.teams = s.teams ∧ t.net = s.net ∧ PcsAdvance g t.grp
      ∧ t.grp = { g with v := t.grp.v, k := t.grp.k, pcs := t.grp.pcs }
      ∧ (∀ r, r ≠ d → t.grp.getV r = g.getV r) ∧ (∀ r, r ≠ p → t.grp.kBits r = g.kBits r)
      ∧ ∀ l, l < 32 →
        (g.acts q l = false → t.grp.lane d l = g.lane d l ∧ t.grp.getK p l = g.getK p l)
          ∧ (g.acts q l = true → (∃ b, chk l = .absent b) → t.grp.lane d l = 0 ∧ t.grp.getK p l = true)
          ∧ (g.acts q l = true → chk l = .ok → t.grp.getK p l = false ∧ t.grp.lane d l =
              BitVec.ofNat 32 (natLE ((List.range 4).map (fun j => (s.cachedByte s.cur.1 s.cur.2 (va l + j)).getD 0)))))

/-- R75, R229, R238, R284, R285, R116: a store issues, in ascending order of its lanes, one store of the low bytes of its
source at each lane's address, and goes on; until it is performed it changes no byte of memory, of a window or of what the
team holds unpublished. -/
def Obligations.StoresIssueInLaneOrder : Prop :=
  ∀ (d a : VReg) (sb e : SReg) (w : LSize) (v : Sys2Proof.USize) (x : BitVec 11) (y : Bool) (q : Fin 4) (s : State),
    let g := s.grp
    let xs := g.accesses a sb q (lsizeBytes w)
    let ua := g.uniAddr sb v x
    let cached := fun (va : Nat) => s.attrAt s.cur.1 va = .leased ∨ s.attrAt s.cur.1 va = .hosted
    let issued := fun (o : Out) (l : List PStore) => Answers o (fun t => OnlyTeam s t ∧ PcsAdvance g t.grp
      ∧ t.grp = { g with v := t.grp.v, pcs := t.grp.pcs, stores := g.stores ++ l }
      ∧ (∀ r, r ∉ marked [(y, a)] → t.grp.getV r = g.getV r)
      ∧ t.team = { s.team with used := t.team.used })
    let target := fun (sp : Space) (va : Nat) (bs : List Byte) => match sp with
      | .global => ({ id := s.net.nextId, target := .global, addr := va, bytes := bs } : PStore)
      | _ => { id := s.net.nextId, target := .window (s.windowOf sp va).1, addr := (s.windowOf sp va).2, bytes := bs }
    let lanes := fun (sp : Space) => (g.actors q).map (fun l => target sp (g.laneAddr a sb l) (g.storeData d w l))
    let uni := fun (sp : Space) => [target sp ua (bytesLE (usizeBytes v) (g.getS e).toNat)]
    (s.judge .global .store xs = .ok → (∀ l ∈ g.actors q, cached (g.laneAddr a sb l)) →
        issued (exec (.stg d a sb w y q) s) (lanes .global))
      ∧ (s.judge .window .store xs = .ok → issued (exec (.stl d a sb w y q) s) (lanes .window))
      ∧ (s.judge .cluster .store xs = .ok → issued (exec (.stw d a sb w y q) s) (lanes .cluster))
      ∧ (s.judge .global .store [{ lane := 0, va := ua, n := usizeBytes v }] = .ok → cached ua →
        issued (exec (.stgs e sb v x) s) (uni .global))
      ∧ (s.judge .window .store [{ lane := 0, va := ua, n := usizeBytes v }] = .ok →
        issued (exec (.stls e sb v x) s) (uni .window))

/-- R75, R229, R238: performing an issued store, with no earlier one of the agent to the same target and no earlier access of its
group that may still be
refused, on a core that runs. A global store becomes
the team's unpublished bytes, which its later loads read, and no byte of memory changes; a store to a window whose pages
are resident is there at once, and no other byte of that window or of another changes.
That a store is performed at a turn of its own is the model's choice (log entry 10), and that it waits for earlier accesses that may
be refused a reading (DEDUCED, log entry 17). -/
def Obligations.StoresArePerformed : Prop :=
  ∀ (t a n : Nat) (p : PStore) (rest : List Turn) (s : State),
    let l := (s.agent t a).stores
    s.agenda = .perform t a n :: rest → l[n]? = some p → s.onCore t = true → (s.agent t a).settled p = true →
    (∀ r ∈ l.take n, r.target ≠ p.target) → (∀ u, (s.teamOf u).ls.wf = true) →
    (p.target = .global → Answers (step s) (fun r => SameMem s r ∧ r.agenda = rest
        ∧ (r.agent t a).stores = l.eraseIdx n
        ∧ (∀ u, (r.teamOf u).ls = (s.teamOf u).ls)
        ∧ (∀ i, i < p.bytes.length → pairAt (r.teamOf t).unpub (p.addr + i) = p.bytes[i]?)
        ∧ (∀ b, (b < p.addr ∨ p.addr + p.bytes.length ≤ b) → pairAt (r.teamOf t).unpub b = pairAt (s.teamOf t).unpub b)
        ∧ ∀ u, u ≠ t → (r.teamOf u).unpub = (s.teamOf u).unpub))
      ∧ (∀ u, p.target = .window u → (s.teamOf u).status = .placed →
          (pagesOf p.addr p.bytes.length).all (s.pageIn u) = true →
          Answers (step s) (fun r => SameMem s r ∧ r.agenda = rest ∧ (r.agent t a).stores = l.eraseIdx n
            ∧ (∀ i, i < p.bytes.length → some ((r.teamOf u).ls.read (p.addr + i)) = p.bytes[i]?)
            ∧ (∀ b, (b < p.addr ∨ p.addr + p.bytes.length ≤ b) → (r.teamOf u).ls.read b = (s.teamOf u).ls.read b)
            ∧ (∀ z, z ≠ u → z ≠ t → r.teamOf z = s.teamOf z)
            ∧ (u ≠ t → r.teamOf t = { s.teamOf t with used := (r.teamOf t).used }) ∧ r.lines = s.lines ∧ r.net = s.net ∧ r.dev = s.dev))

/-- R239, R286 to R289: a global atomic on pages that are not REMOTE, with no store of the agent left to perform and nothing
unpublished, sends one request per acting lane in ascending order to the homes of its words, with vd (for cas vd and
vd + 1) as the operands, and goes on with its destination pending. UATOM sends one on a 64-bit word. No byte changes yet. -/
def Obligations.GlobalAtomicsAreSentHome : Prop :=
  ∀ (op : AOp) (d a : VReg) (sb e b c : SReg) (y z : Bool) (q : Fin 4) (sc : UScope) (s : State),
    let g := s.grp
    let va := g.laneAddr a sb
    let vu := (g.getS b).toNat
    let sent := fun (t : State) (l : List (Nat × ReqKind)) =>
      t.net.reqs.map (fun r => (r.team, r.agent, r.va, r.kind))
        = s.net.reqs.map (fun r => (r.team, r.agent, r.va, r.kind)) ++ l.map (fun p => (s.cur.1, s.cur.2, p.1, p.2))
    let kept := fun (t : State) => SameMem s t ∧ PcsAdvance g t.grp ∧ t.lines = s.lines ∧ t.dev = s.dev
      ∧ (∀ u, u ≠ s.cur.1 → t.teamOf u = s.teamOf u) ∧ t.team.unpub = [] ∧ t.grp.v = g.v ∧ t.grp.k = g.k
    let ins := match op with
      | .add => some (Instr.atomgAddI32 d a sb q)
      | .fadd => some (.atomgAddF32 d a sb q)
      | .min => some (.atomgMinI32 d a sb q)
      | .max => some (.atomgMaxI32 d a sb q)
      | .or => some (.atomgOr d a sb q)
      | .xchg => some (.atomgXchg d a sb q)
      | .cas => some (.atomgCas d a sb q)
      | _ => none
    let uins := match op with
      | .add => some (Instr.uatomAdd e b c y z sc)
      | .min => some (.uatomMin e b c y z sc)
      | .max => some (.uatomMax e b c y z sc)
      | .and => some (.uatomAnd e b c y z sc)
      | .or => some (.uatomOr e b c y z sc)
      | .xor => some (.uatomXor e b c y z sc)
      | .xchg => some (.uatomXchg e b c y z sc)
      | .cas => some (.uatomCas e b c y z sc)
      | .fadd => none
    g.status = .run → g.stores = [] → s.team.unpub = [] →
    (s.judge .global .atomic (g.accesses a sb q 4) = .ok → (∀ l ∈ g.actors q, s.attrAt s.cur.1 (va l) ≠ .remote) →
        ∀ i, ins = some i → Answers (exec i s) (fun t => kept t ∧ t.grp.s = g.s
          ∧ sent t ((g.actors q).map (fun l => (va l,
              .atomic op 4 ((g.lane d l).setWidth 64) ((g.lane (vplus d 1) l).setWidth 64) l)))
          ∧ (g.actors q ≠ [] → ∃ o ∈ t.grp.outs, o.dest = .laneOld d (op == .cas))))
      ∧ (s.chkUatom vu sc = .ok → s.attrAt s.cur.1 vu ≠ .remote →
        ∀ i, uins = some i → Answers (exec i s) (fun t => kept t
          ∧ (∀ r, r ∉ markedS [(y, b), (z, c)] → t.grp.getS r = g.getS r)
          ∧ sent t [(vu, .atomic op 8 (if op = .cas then g.getS e else g.getS c) (g.getS c) 0)]
          ∧ ∃ o ∈ t.grp.outs, o.dest = .uniOld e))
      ∧ ((∀ l ∈ g.actors q, s.chkDadd (va l) = .ok) →
        Answers (exec (.atomgDaddF32 d a sb q) s) (fun t => kept t ∧ t.grp.s = g.s
          ∧ (g.actors q = [] → t.grp.outs = g.outs) ∧ (g.actors q ≠ [] → ∃ o, t.grp.outs = g.outs ++ [o] ∧ o.dest = .taken)
          ∧ sent t ((g.actors q).map (fun l => (va l, .dadd (g.lane d l) (s.team.rank * 512 + s.cur.2 * 32 + l)
              (vget 0 g.daddQ l) (s.team.phase + 1))))
          ∧ ∀ l, l < 32 → vget 0 t.grp.daddQ l = vget 0 g.daddQ l + if g.acts q l then 1 else 0))

/-- R74, R238, R287, R288: an atomic on window words of resident pages, with no window store of the agent left to perform,
acts lane after lane in ascending order: each lane gets the word as the lanes before it left it, and leaves the function
of it and its operands that R287 gives; no other byte of any window changes. -/
def Obligations.WindowAtomicsActInLaneOrder : Prop :=
  (∀ old b c : Nat, old < 2 ^ 32 → b < 2 ^ 32 → c < 2 ^ 32 →
    let sg := fun (v : Nat) => (BitVec.ofNat 32 v).toInt
    atomNew .add 4 old b c = (old + b) % 2 ^ 32 ∧ atomNew .fadd 4 old b c = add32 old b
      ∧ atomNew .min 4 old b c = (if sg b < sg old then b else old) ∧ atomNew .max 4 old b c = (if sg old < sg b then b else old)
      ∧ atomNew .and 4 old b c = old &&& b ∧ atomNew .or 4 old b c = old ||| b ∧ atomNew .xor 4 old b c = old ^^^ b
      ∧ atomNew .xchg 4 old b c = b ∧ atomNew .cas 4 old b c = (if old = b then c else old))
    ∧ ∀ (op : AOp) (cl : Bool) (d a : VReg) (sb : SReg) (q : Fin 4) (s : State),
      let g := s.grp
      let sp : Space := if cl then .cluster else .window
      let ins := match op with
        | .add => some (if cl then Instr.atomwAddI32 d a sb q else .atomlAddI32 d a sb q)
        | .fadd => some (if cl then .atomwAddF32 d a sb q else .atomlAddF32 d a sb q)
        | .min => some (if cl then .atomwMinI32 d a sb q else .atomlMinI32 d a sb q)
        | .max => some (if cl then .atomwMaxI32 d a sb q else .atomlMaxI32 d a sb q)
        | .and => some (if cl then .atomwAnd d a sb q else .atomlAnd d a sb q)
        | .or => some (if cl then .atomwOr d a sb q else .atomlOr d a sb q)
        | .xchg => some (if cl then .atomwXchg d a sb q else .atomlXchg d a sb q)
        | .cas => some (if cl then .atomwCas d a sb q else .atomlCas d a sb q)
        | .xor => none
      let steps := wordSteps op (fun u o => (s.teamOf u).ls.read o) ((g.actors q).map (fun l =>
        (l, s.windowOf sp (g.laneAddr a sb l), (g.lane d l).toNat, (g.lane (vplus d 1) l).toNat)))
      (∀ p ∈ g.stores, p.target = .global) → (∀ u, (s.teamOf u).ls.wf = true) →
      s.judge sp .atomic (g.accesses a sb q 4) = .ok →
      ∀ i, ins = some i → Answers (exec i s) (fun t => SameMem s t ∧ PcsAdvance g t.grp ∧ t.net = s.net
        ∧ t.grp = { g with v := t.grp.v, pcs := t.grp.pcs } ∧ (∀ r, r ≠ d → t.grp.getV r = g.getV r)
        ∧ (∀ l, l < 32 → g.acts q l = false → t.grp.lane d l = g.lane d l)
        ∧ (∀ p ∈ steps.1, t.grp.lane d p.1 = BitVec.ofNat 32 p.2) ∧ steps.1.map (·.1) = g.actors q
        ∧ ∀ u o, (t.teamOf u).ls.read o = steps.2 u o)

/-! ### Matrix instructions -/

/-- R193, R194, R198, R204, R205: MCFG with legal words and MMZ leave a tile with an empty window configured and clear; MLINT
gives its counters in two registers, zeros of a tile that is not configured. A window that is not empty is waited for; words that are
not legal raise 0x0B. A matrix
instruction in a cluster of odd width raises 0x0A; one waits while another team holds the array; and one that finds it free
takes it, every tile unconfigured and clear and the activation table zero, before it acts: that it does so before its own checks,
and so keeps the array after a trap, is the model's choice, log entry 58. -/
def Obligations.TilesAreTakenAndConfigured : Prop :=
  (∀ (a b d : SReg) (c : Fin 4) (p : Bool) (s : State),
    let T := s.tile c.val
    let cleared := fun (o : Out) (pw cw : DWord) => Answers o (fun t => TileFrame s t c.val
      ∧ (t.tile c.val).pleat = pw ∧ (t.tile c.val).cfg = cw ∧ (t.tile c.val).x = 0 ∧ (t.tile c.val).window = []
      ∧ (∀ r n, (t.tile c.val).elem r n = { o0 := [], o1 := [], o2 := [], s := 0, c := 0 })
      ∧ (∀ i, i < 4 → vget 0 (t.tile c.val).lint i = 0) ∧ (t.tile c.val).darn = 0
      ∧ ∀ r, r < 32 → vget (0, 0) (t.tile c.val).side r = (0xFF800000, 0))
    s.cur.2 < 16 → HoldsArray s p →
    (pleatOk (s.grp.getS a) = true → configOk c.val (s.grp.getS b) = true → T.window = [] →
        cleared (exec (.mcfg a b c) s) (s.grp.getS a) (s.grp.getS b))
      ∧ (pleatOk (s.grp.getS a) = false ∨ configOk c.val (s.grp.getS b) = false →
        TrapTaken s (exec (.mcfg a b c) s) 0x0B 0 0 0)
      ∧ (T.window = [] → cleared (exec (.mmz c p) s) T.pleat T.cfg)
      ∧ (T.window = [] → Answers (exec (.mlint d c) s) (fun t => ArrayFrame s t ∧ t.cores = s.cores
          ∧ t.grp = { s.grp with s := t.grp.s, pcs := t.grp.pcs }
          ∧ ∀ r : SReg,
              let n := fun (i : Nat) => if T.pleat = 0 then 0 else vget 0 T.lint i
              t.grp.getS r = if r.val = 63 then 0
              else if r = splus d 1 then BitVec.ofNat 64 (n 2 + 2 ^ 32 * n 3)
              else if r = d then BitVec.ofNat 64 (n 0 + 2 ^ 32 * n 1) else s.grp.getS r))
      ∧ (T.window ≠ [] → exec (.mmz c p) s = .next s ∧ exec (.mlint d c) s = .next s))
    ∧ ∀ (i : Instr) (a b d : SReg) (c : Fin 4) (va vb : VReg) (x : SReg) (p l f : Bool) (s : State),
    i ∈ [Instr.mcfg a b c, .mmz c p, .mma c va vb x p l f, .mmax c va vb x p l f, .mlint d c, .mdrain c va vb p,
      .msmx c va p, .msave a c, .mload a c, .mtbl a] →
    (s.cur.2 < 16 → s.team.w % 2 = 1 → TrapTaken s (exec i s) 0x0A 0 0 0)
      ∧ (∀ t, s.team.w % 2 = 0 → s.team.px % 2 = 0 → s.core.holder = some t → t ≠ s.cur.1 → exec i s = .next s)
      ∧ (s.team.w % 2 = 0 → s.team.px % 2 = 0 → s.core.holder = none → s.frozen = false →
        ∃ s1, s1 = { s with cores := s1.cores } ∧ (∀ k, k ≠ s.team.core → s1.coreOf k = s.coreOf k)
          ∧ s1.core = { s.core with holder := some s.cur.1, tiles := s1.core.tiles, table := List.replicate 64 (0, 0) }
          ∧ (∀ j, j < 4 → (s1.tile j).pleat = 0 ∧ (s1.tile j).window = [] ∧ (s1.tile j).cols = 64
              ∧ ∀ r n, (s1.tile j).elem r n = Elem.zero)
          ∧ exec i s = exec i s1)

/-- R186, R187, R201: MMA and MMAX of the tile's class. The expected step is folded at once; one ahead of it by at most 8
waits in the window, with its operand registers read, while the window has room for it (what a ninth does is the model's choice,
log entry 77); one further ahead is waited for; a repeated or past one, a tile not
configured and the wrong class raise 0x0B. After the expected step the steps of the window that have become expected are folded
in turn. R175, R176, R180 to R185: what folding computes is said of Tile.fold by the sums of the pleat tree, level by level. -/
def Obligations.StepsEnterTheReorderWindow : Prop :=
  (ProductsAreExact ∧ FrameUnits ∧ LevelSums ∧ PushesGoUp ∧ StepsFold ∧ FinishCloses)
  ∧ ∀ (narrow : Bool) (i : Instr) (c : Fin 4) (a b : VReg) (x : SReg) (p l f : Bool) (s : State),
    i = (if narrow then .mmax c a b x p l f else .mma c a b x p l f) →
    let T := s.tile c.val
    let na := blockRegs (pAfmt T.pleat)
    let nb := blockRegs (pBfmt T.pleat) * (if p then 2 else 1)
    let idx := (s.grp.getS x).toNat % 65536
    let ahead := (idx + 65536 - T.x) % 65536
    let w : WStep := { idx := idx, pair := p, last := l, first := f,
                       a := (List.range na).map (fun j => s.grp.getV (vplus a j)),
                       b := (List.range nb).map (fun j => s.grp.getV (vplus b j)) }
    let legal := T.pleat ≠ 0 ∧ narrow = decide (pClass T.pleat = .narrow) ∧ a.val + na ≤ 128 ∧ b.val + nb ≤ 128
    s.cur.2 < 16 → HoldsArray s p →
    (legal → (∀ v ∈ T.window, v.idx ≠ idx) →
        (ahead = 0 → T.window = [] → Answers (exec i s) (fun t => TileFrame s t c.val ∧ t.tile c.val = T.fold w
            ∧ (t.tile c.val).x = if l then 0 else (T.x + 1) % 65536))
        ∧ (ahead = 0 → T.window.length ≤ 8 → Answers (exec i s) (fun t => TileFrame s t c.val
            ∧ ∃ us, FoldsOn (T.fold w) us (t.tile c.val)))
        ∧ (1 ≤ ahead → ahead ≤ 8 → T.window.length < 8 → Answers (exec i s) (fun t => TileFrame s t c.val
            ∧ t.tile c.val = { T with window := T.window ++ [w] }))
        ∧ (8 < ahead ∨ 1 ≤ ahead ∧ 8 ≤ T.window.length → ahead < 32768 → exec i s = .next s)
        ∧ (32768 ≤ ahead → TrapTaken s (exec i s) 0x0B 0 0 0))
      ∧ (legal → (∃ v ∈ T.window, v.idx = idx) → TrapTaken s (exec i s) 0x0B 0 0 0)
      ∧ (¬ legal → TrapTaken s (exec i s) 0x0B 0 0 0)

/-- R206 to R208, R210: MDRAIN writes each row's values, put through the tile's epilogue, to one lane; without one a value is
s + c. MSMX writes the probabilities of a softmax tile, keeps each row's new maximum and sum, and rescales the rows of the
output tile. Neither changes the tile's own elements. -/
def Obligations.TilesAreDrained : Prop :=
  ∀ (c : Fin 4) (a b : VReg) (p : Bool) (s : State),
    let T := s.tile c.val
    let cols := if p then 64 else 32
    let value := fun (r n : Nat) => drainValue T.pleat (T.elem r n)
    let g := s.grp
    HoldsArray s p → T.pleat ≠ 0 → T.window = [] →
    (let soft := cSoft T.cfg = true
      let bias := ¬ soft ∧ T.cfg.getLsbD 1 = true
      let sum := (vget (0, 0) (s.tile (cField T.cfg 18 17)).side)
      let after := fun (r n : Nat) => if cSoft T.cfg then value r n
        else chain T.cfg s.core.table (sum r).2 (g.lane (vplus b (n / 32)) (n % 32)) (value r n)
      (T.cfg = 0 → ∀ r n, after r n = value r n)
        ∧ (soft ∨ T.cfg.getLsbD 3 = false → a.val + cols ≤ 128 → (bias → b.val + cols / 32 ≤ 128) →
          Answers (exec (.mdrain c a b p) s) (fun t => ArrayFrame s t ∧ t.cores = s.cores
            ∧ t.grp = { g with v := t.grp.v, pcs := t.grp.pcs } ∧ RowsWritten g t.grp a 32 cols (fun r n => (after r n).toNat)))
        ∧ (∀ fmt, ¬ soft → T.cfg.getLsbD 3 = true → cField T.cfg 7 4 = fmt → fmt ∈ [0, 5, 6, 7, 9] →
          let w := elemBits fmt
          a.val + cols / (32 / w) ≤ 128 → (bias → b.val + cols / 32 ≤ 128) →
          Answers (exec (.mdrain c a b p) s) (fun t => ArrayFrame s t ∧ t.cores = s.cores
            ∧ t.grp = { g with v := t.grp.v, pcs := t.grp.pcs }
            ∧ RowsWritten g t.grp a w cols (fun r n => (encodeRow T.cfg ((List.range cols).map (after r))).getD n 0))))
      ∧ (let o := cField T.cfg 2 1
        let fmt := cField T.cfg 7 4
        let w := elemBits fmt
        let S := fun r => softRow (vget (0, 0) T.side r).1 (vget (0, 0) T.side r).2 ((List.range cols).map (value r))
        cSoft T.cfg = true → fmt ∈ [0, 1, 7, 8] → o ≠ c.val → (s.tile o).pleat ≠ 0 → (s.tile o).window = [] →
        a.val + cols / (32 / w) ≤ 128 →
        Answers (exec (.msmx c a p) s) (fun t => ArrayFrame s t ∧ t.core = { s.core with tiles := t.core.tiles }
          ∧ t.grp = { g with v := t.grp.v, pcs := t.grp.pcs }
          ∧ RowsWritten g t.grp a w cols (fun r n => encodeFp (fmtOf fmt) .rne true (val32 ((S r).p.getD n 0)))
          ∧ t.tile c.val = { T with side := (t.tile c.val).side }
          ∧ t.tile o = { s.tile o with elems := (t.tile o).elems }
          ∧ (∀ j, j < 4 → j ≠ c.val → j ≠ o → t.tile j = s.tile j)
          ∧ ∀ r, r < 32 → vget (0, 0) (t.tile c.val).side r = ((S r).m, (S r).l)
            ∧ ∀ n, n < (s.tile o).cols → (t.tile o).elem r n = match (S r).by_ with
              | some x => ((s.tile o).elem r n).rescale x
              | none => (s.tile o).elem r n))

/-- R209, R211 to R215: MSAVE stores a tile's image at an address that is a multiple of 256 and no byte besides, in one step when it
touches at most 32 pages; a longer one stores what stands in the first 32 pages and stays at its word, the array being its until it
completes. The bytes that it stores are uncorrectable no longer; MTBL raises 0x09 at the first uncorrectable byte that it meets
(R284). MLOAD of an image that is
legal makes the tile what the image says; MTBL takes 64 pairs of FP16 numbers from 256 bytes. What MLOAD accepts it gives back from
the image that MSAVE makes of it. -/
def Obligations.TileImagesAndTables : Prop :=
  (∀ (a : SReg) (c : Fin 4) (s : State),
    let va := (s.grp.getS a).toNat
    let x := s.team
    let T := s.tile c.val
    let first := 65536 - va % 2048
    let saved := fun (t : State) (n : Nat) =>
      t = { s with groups := t.groups, teams := t.teams, cores := t.cores }
        ∧ (∀ u k, agentKey u k ≠ agentKey s.cur.1 s.cur.2 → t.agent u k = s.agent u k) ∧ SameMem s t
        ∧ (∀ u, u ≠ s.cur.1 → t.teamOf u = s.teamOf u)
        ∧ t.team = { x with ls := t.team.ls, used := t.team.used, lsBad := x.lsBad.filter (fun o => decide (o < va) || decide (va + n ≤ o)) }
        ∧ (∀ j, j < 4 → t.tile j = s.tile j)
        ∧ ∀ o, t.team.ls.read o = if va ≤ o ∧ o < va + n then T.image.getD (o - va) 0 else x.ls.read o
    let sound := fun (n : Nat) => ∀ o ∈ x.lsBad, o < va ∨ va + n ≤ o
    let loaded := fun (t : State) => ArrayFrame s t ∧ t.grp = { s.grp with pcs := t.grp.pcs, hold := [] }
    HoldsArray s false → s.grp.stores = [] → s.grp.xfer = [] → x.ls.wf = true →
    (va % 256 = 0 → va + T.image.length ≤ x.window →
        (T.image.length ≤ first → PagesIn s va T.image.length →
          Answers (exec (.msave a c) s) (fun t => saved t T.image.length ∧ PcsAdvance s.grp t.grp
            ∧ t.grp = { s.grp with pcs := t.grp.pcs, hold := [], saving := false }))
        ∧ (first < T.image.length → PagesIn s va first →
          Answers (exec (.msave a c) s) (fun t => saved t first
            ∧ t.grp = { s.grp with xfer := T.image.take first, hold := [], saving := true })))
      ∧ (let size := x.ls.readLE (va + 0x2C) 4
        va % 256 = 0 → va + size ≤ x.window → size ≤ first → PagesIn s va size → sound (Nat.max size 64) →
        T.window = [] → ∀ T2, readTile c.val T.cols (x.ls.readN va size) = some T2 →
        Answers (exec (.mload a c) s) (fun t => loaded t
          ∧ t.core = { s.core with tiles := t.core.tiles, ltt := t.core.ltt }
          ∧ (∀ j, j < 4 → j ≠ c.val → t.tile j = s.tile j) ∧ t.tile c.val = T2))
      ∧ (va % 4 = 0 → va + 256 ≤ x.window → PagesIn s va 256 → sound 256 →
        Answers (exec (.mtbl a) s) (fun t => loaded t
          ∧ t.core = { s.core with table := t.core.table, ltt := t.core.ltt }
          ∧ ∀ i, i < 64 → t.core.table.getD i (0, 0) =
              (BitVec.ofNat 16 (x.ls.readLE (va + 4 * i) 2), BitVec.ofNat 16 (x.ls.readLE (va + 4 * i + 2) 2))))
      ∧ (∀ o, va % 4 = 0 → va + 256 ≤ x.window → o ∈ x.lsBad → va ≤ o → o < va + 256 → sound (o - va) →
        TrapTaken s (exec (.mtbl a) s) 0x09 0 o 0))
    ∧ ∀ (n cols : Nat) (bs : List Byte) (T : Tile), (cols = 32 ∨ cols = 64) → readTile n cols bs = some T →
        readTile n cols T.image = some { T with window := T.ordered }

/-! ### Engines -/

/-- R263, R290 to R292, R304, R305, R402: an ENG with a ticket register that is neither s63 nor pending, blocks that may be read and
are at hand, no atomic of the team being on its way to their lines, nor a store or atomic of the agent to UNCACHED ones (R75), and a
place in the engine queues its command, with the bytes of its blocks, marks the ticket register pending and goes on; the team's
count of commands rises; the pages of a window block are marked accessed. That a ticket register which awaits a load counts as pending is
the model's choice, log entry 60. LBSET sets the landing base: that it does so at its issue is the model's choice, log entry 32. A
pending ticket register or s63 raises 0x0C, a
landing base that is not a multiple of 128 below the window size, or a range past the window, 0x08. -/
def Obligations.EngineCommandsAreAccepted : Prop :=
  ∀ (fn : Nat) (i : Instr) (d a b : SReg) (s : State),
    (fn, i) ∈ [(0, Instr.copy d a), (1, .copyw d a), (2, .mcast d a), (3, .gath d a b), (4, .scat d a b), (5, .publ d a),
      (6, .qpkt d a b), (7, .puts d a b), (8, .getr d a), (9, .coll d a), (10, .lbset d a), (11, .lren d a b)] →
    let g := s.grp
    let x := s.team
    let va := (g.getS a).toNat
    let vb := if fn ∈ [3, 4, 6, 7, 11] then (g.getS b).toNat else 0
    let blocks : List (Space × Nat × Nat) := if fn = 1 then [(.cluster, va, 64)]
      else if fn = 7 then [(.global, va, 64), (.global, vb, 16)]
      else if fn ∈ [0, 2, 3, 4, 6, 8, 9] then [(.global, va, 64)] else []
    let quads := fun (k : Space × Nat × Nat) => (List.range (k.2.2 / 8)).map (fun j =>
      BitVec.ofNat 64 (natLE ((List.range 8).map (fun m => (s.blockByte k.1 (k.2.1 + (8 * j + m))).getD 0))))
    let n := va / 2 ^ 32 % 2 ^ 16
    let base := fun (v : Nat) => v % 2 ^ 22 + 2048 * n
    let inRange := (fn = 10 → va % 128 = 0 ∧ va < x.window) ∧ (fn = 11 → base va ≤ x.window ∧ base vb ≤ x.window)
    let det := decide (fn = 6) && vb.testBit 16
    let id := s.net.nextId
    let free := d.val ≠ 63 ∧ g.pendingS d = false
    s.cur.2 < 18 →
    (free → inRange → (∀ k ∈ blocks, s.chk k.1 s.cur.1 k.2.1 k.2.2 .load = .ok) →
        (∀ k ∈ blocks, ∀ j, j < k.2.2 → (s.blockByte k.1 (k.2.1 + j)).isSome = true) →
        (∀ k ∈ blocks, k.1 = .global → s.atomicAway s.cur.1 (lineOf k.2.1) = false ∧ s.homePending k.2.1 k.2.2 = false) →
        (fn ≤ 4 → (s.net.cmds.filter (fun c => c.slot.isNone && decide (c.fn ≤ 4) && c.core == x.core
          && c.stage != .deferred)).length < 32) →
        Answers (exec i s) (fun t => SameMem s t ∧ PcsAdvance g t.grp
          ∧ t.grp = { g with pcs := t.grp.pcs, tickets := g.tickets ++ [(d, id)], status := .run
                             claimQ := if det then g.claimQ + 1 else g.claimQ }
          ∧ (t.dev.rebase = s.dev.rebase → ∃ c, t.net = { s.net with cmds := s.net.cmds ++ [c], nextId := id + 1 }
            ∧ (s.dev.rebase = false → s.core.ct ≤ c.t)
            ∧ c = { id := id, fn := fn, team := s.cur.1, agent := s.cur.2, asid := x.asid, core := x.core, sd := some d
                    pkt := (blocks.map quads).getD 0 [], a := va, b := vb, desc := (blocks.map quads).getD 1 [], slot := none
                    seq := x.engCount, t := c.t, stage := .queued, shadow := [], fetched := [], await := [], lines := []
                    ref := 0, handle := 0, status := 0, count := 0, fva := 0, w := 0, vals := [], first := 0, asked := []
                    closed := [], sent := [], taken := 0 })
          ∧ t.team.engCount = x.engCount + 1 ∧ t.team.lbase = (if fn = 10 then va else x.lbase)
          ∧ (t.gridOf x.grid).claims = (s.gridOf x.grid).claims ++ (if det then
              [{ grid := x.grid, c := x.rank * 32 + s.cur.2, q := g.claimQ, cmd := id, phase := x.phase + 1 }] else [])
          ∧ ((∀ k ∈ blocks, k.1 = .global → s.attrAt s.cur.1 k.2.1 ≠ .uncached) → t.dev = s.dev
            ∧ (∀ u, u ≠ s.cur.1 → t.teamOf u = s.teamOf u) ∧ t.lines = s.lines
            ∧ (∀ c, t.coreOf c = { s.coreOf c with ltt := (t.coreOf c).ltt, copies := (t.coreOf c).copies }
              ∧ (t.coreOf c).ltt.map (fun e => { e with acc := false }) = (s.coreOf c).ltt.map (fun e => { e with acc := false })
              ∧ (fn ≠ 1 → (t.coreOf c).ltt = (s.coreOf c).ltt) ∧ (c ≠ x.core → (t.coreOf c).copies = (s.coreOf c).copies))
            ∧ (fn = 1 → PagesMarked s t (s.windowOf .cluster va).1 (s.windowOf .cluster va).2 64))))
      ∧ (¬ free → TrapTaken s (exec i s) 0x0C 0 0 0)
      ∧ (free → fn = 10 → (va % 128 ≠ 0 ∨ x.window ≤ va) → TrapTaken s (exec i s) 0x08 0 va 0)
      ∧ (free → fn = 11 → x.window < base va → TrapTaken s (exec i s) 0x08 0 va 0)

/-- R293, R294, R299, R301, R303, R307, R309, R311, R315: how commands go on. A start writes the shadow that the packet asks
for; a publication merges it at the homes with one time above every rts; a ticket gives its register the value of R293, raises
CT to W and ends the view of the destination lines; a landing writes the receiver's window and counts an arrival; a signal
counts an arrival at its barrier; a fault and a timeout end a command with their statuses and discard its shadow.
Before a start or a publication the links to the homes are up, the host has given up what it holds there, and every destination page
is there and may be written (R250, R257, R311).
The model's choices: commands have numbers of the model's own (log entry 8); the source is read at one moment, the start, and all
window pages are published in one step (log entry 30); the deferred stage and what PUBL does with it (log entry 27); the view ends
by message number (log entry 15).
Each of these completes, under conditions on the state and its operands alone: ENGINE_COMMAND_START, ENGINE_PUBLICATION,
ENGINE_COMMAND_FAULT, TICKET_COMPLETE, MCAST_LANDING, PUTS_SIGNAL, ENGINE_REMOTE_TIMEOUT. -/
def Obligations.EngineCommandsRunToTheirTickets : Prop :=
  ∀ (n : Nat) (c : Cmd) (s : State),
    s.cmdAt n = some c → n ≠ 0 →
    let x := s.teamOf c.team
    let becomes := fun (t : State) (e : Cmd) => t.cmdAt n = some e
    let mayStart := s.engineRuns c = true ∧ s.cmdReaches c (s.sourceVas c) = true ∧ s.sourceHeld c = [] ∧ s.windowsAtHand c = true
      ∧ s.ringLost c = false
    (∀ (bs : List (Nat × Byte)) (k : Nat), mayStart → c.fn = 0 → c.stage = .queued → c.await = [] → c.slot = none → s.inTurn c = true →
        (∀ p ∈ (s.agent c.team c.agent).stores, p.target = .global) → c.kind = 1 → s.refused c = false →
        pktDefer c.pkt = false →
        let rows := pktRows c.pkt (fun i => (i : Int)) (fun i => (i : Int))
        pktLayout c.pkt rows = 0 → s.walkAll c false false false rows = .going bs k →
        (∀ d ∈ s.net.cmds, d.id ≠ n → ∀ p ∈ shadowPages d.shadow, p ∉ shadowPages (s.toShadow c bs)) →
        ∀ u, (s.touchSource c k).bindShadows c.team (shadowPages (s.toShadow c bs)) = some u →
        Answers (exec (.engineCommandStart n) s) (fun t => SameMem u t ∧ t.teams = u.teams ∧ t.cores = u.cores
          ∧ ((∀ p ∈ s.toShadow c bs, p.1 = 0) → u = s.touchSource c k)
          ∧ ((pktSspace c.pkt = 0 ∨ pktSspace c.pkt = 3) → s.touchSource c k = s)
          ∧ becomes t { c with stage := .shadow, shadow := s.toShadow c bs, lines := shadowLines (s.toShadow c bs), count := k }))
      ∧ (mayStart → c.fn = 5 → c.stage = .queued → c.await = [] → c.slot = none → s.inTurn c = true →
        (∀ p ∈ (s.agent c.team c.agent).stores, p.target = .global) →
        let h := c.a / 2 ^ 48 % 256
        let found := s.net.cmds.find? (fun e => e.sameOwner c && e.stage == .deferred && e.handle == h && h != 0);
        (∀ d, found = some d → s.cmdAt d.id = some d → d.id ≠ n →
            Answers (exec (.engineCommandStart n) s) (fun t => SameMem s t ∧ becomes t { c with stage := .published, ref := d.id }
              ∧ t.cmdAt d.id = some { d with stage := .shadow, status := 0, ref := d.id }))
          ∧ (found = none →
            Answers (exec (.engineCommandStart n) s) (fun t => SameMem s t
              ∧ becomes t { c with stage := .complete, status := 0x05, fva := 0, count := 0, shadow := [] })))
      ∧ (c.stage = .shadow → c.fn ≠ 6 → c.kind = 1 → c.await = [] → s.publishBlocked c = false → pktBar c.pkt < 128 →
        s.engineRuns c = true → s.cmdReaches c (shadowLines c.shadow) = true → s.shadowGranules c c.shadow = [] →
        s.engChkAll c 0 true false (c.shadow.map (fun y => y.2.1)) = .ok →
        (∀ y ∈ c.shadow, y.1 = 0 ∧ (s.gridOf x.grid).declares y.2.1 = false
          ∧ ∃ l, s.walk (s.cmdL1 c) y.2.1 = some l ∧ l.attr ≠ .remote ∧ s.homeGone (l.phys y.2.1) = false) →
        s.mem.wf = true → s.dev.rebase = false →
        let at_ := c.shadow.filterMap (fun y => (s.walk (s.cmdL1 c) y.2.1).map (fun l => (l.phys y.2.1, y.2.2)))
        Answers (exec (.enginePublication n) s) (fun t => ∃ w,
          becomes t { c with w := w, shadow := [], stage := .complete, lines := shadowLines c.shadow, first := 0 }
          ∧ (∀ pa, t.mem.read pa = (pairAt at_.reverse pa).getD (s.mem.read pa))
          ∧ (t.dev.rebase = false → ∀ p ∈ at_, (s.hline (lineOf p.1)).rts < w
            ∧ w ≤ (t.hline (lineOf p.1)).wts ∧ w ≤ (t.hline (lineOf p.1)).rts
            ∧ ((∀ e ∈ (s.noteWalks (s.cmdL1 c) (c.shadow.map (fun y => y.2.1))).dev.mtb, ∀ q ∈ at_, lineOf q.1 ∉ e.tables) →
              s.lines.length + at_.length < sliceLines →
              (t.hline (lineOf p.1)).wts = w ∧ (t.hline (lineOf p.1)).rts = w))))
      ∧ (∀ d : SReg, s.engineRuns c = true → c.stage = .complete → (c.kind = 7 → c.first ≠ 1) → c.ref = 0 → c.slot = none → c.sd = some d → x.status = .placed → x.request = none → pktRing c.pkt = 0 →
        c.status ≠ 0x01 → c.status ≠ 0x0B → c.id = n → s.arrivalsCounted n = true → s.dev.rebase = false →
        Nat.max (s.coreOf x.core).ct c.w < 2 ^ 31 → (d, n) ∈ (s.agent c.team c.agent).tickets →
        Answers (exec (.ticketComplete n) s) (fun t => SameMem s t ∧ (∀ e ∈ t.net.cmds, e.id ≠ n)
          ∧ (t.agent c.team c.agent).getS d = (if d.val = 63 then 0 else BitVec.ofNat 64
              ((if c.status = 0 then 0 else 2 ^ 63) + c.status * 2 ^ 56 + c.count % 2 ^ 48))
          ∧ (∀ p ∈ (t.agent c.team c.agent).tickets, p.2 ≠ n)
          ∧ (t.coreOf x.core).ct = Nat.max (s.coreOf x.core).ct c.w
          ∧ (∀ l ∈ c.lines, s.net.nextId ≤ (t.teamOf c.team).fromOf l)
          ∧ ∀ k ∈ (t.coreOf x.core).copies, k.line ∈ c.lines → c.team ∉ k.stable))
      ∧ (∀ pos u, c.stage = .shadow → c.kind = 2 → s.engineRuns c = true → pos ∈ c.await → s.publishBlocked c = false →
        s.member c.team pos = some u → (s.teamOf u).status = .placed → (s.teamOf u).ls.wf = true →
        (∀ p ∈ c.await, ∃ v, s.member c.team p = some v ∧ (s.teamOf v).status ≠ .ended) →
        let h : Fin 8 := ⟨pktBar c.pkt % 8, Nat.mod_lt _ (by decide)⟩
        let mine := (c.shadow.filter (fun y => y.1 == u + 1)).map (fun y => (y.2.1, y.2.2))
        (∀ y ∈ mine, s.pageIn u (y.1 / 2048) = true) → (s.teamOf u).count h < 65535 →
        Answers (exec (.mcastLanding n pos) s) (fun t => SameMem s t
          ∧ becomes t { c with shadow := c.shadow.filter (fun y => y.1 != u + 1), await := c.await.erase pos
                               stage := if c.await.erase pos = [] then .complete else .shadow }
          ∧ (∀ o, (t.teamOf u).ls.read o = (pairAt mine.reverse o).getD ((s.teamOf u).ls.read o))
          ∧ (t.teamOf u).count h = (s.teamOf u).count h + 1 ∧ (∀ j, j ≠ h → (t.teamOf u).count j = (s.teamOf u).count j)
          ∧ ∀ v, v ≠ u → t.teamOf v = s.teamOf v))
      ∧ (∀ u, c.stage = .published → c.kind = 5 → c.await = [] → pq c.desc 0 % 4 = 2 → pktBar c.pkt < 128 →
        pq c.desc 0 / 2 ^ 32 % 2 ^ 19 = s.devNum →
        s.signalTeam c.asid (pq c.desc 1 / 2 ^ 32) (pq c.desc 1 % 2 ^ 32) = some u →
        let h : Fin 8 := ⟨pq c.desc 0 / 2 ^ 8 % 8, Nat.mod_lt _ (by decide)⟩
        (s.teamOf u).status = .placed → (s.teamOf u).count h < 65535 →
        Answers (exec (.putsSignal n) s) (fun t => SameMem s t ∧ becomes t { c with stage := .complete }
          ∧ (t.teamOf u).count h = (s.teamOf u).count h + 1 ∧ ∀ v, v ≠ u → t.teamOf v = s.teamOf v))
      ∧ (∀ fva, c.stage = .shadow → c.fn ≠ 6 → c.kind ≠ 7 → c.first ≠ 3 → c.landed = false →
        let verify := (pq c.pkt 0).testBit 27
        (verify = true ∨ pktZfill c.pkt = false →
          Answers (exec (.engineCommandFault n 1 fva) s) (fun t => t = { s with net := t.net } ∧ t.net.reqs = s.net.reqs
            ∧ becomes t { c with stage := .complete, status := 0x01, fva := fva, shadow := [], await := []
                                 count := if pktZfill c.pkt then c.count else s.writtenBefore c (lineOf fva) }))
        ∧ (verify = false → pktZfill c.pkt = true → exec (.engineCommandFault n 1 fva) s = .next s))
      ∧ (∀ r ∈ s.net.remote, s.awake = true → r.id ∈ c.await → c.stage ≠ .complete → c.stage ≠ .deferred → c.kind ≠ 2 → c.kind ≠ 7 →
        Answers (exec (.engineRemoteTimeout n) s) (fun t => t = { s with net := t.net }
          ∧ (∀ q ∈ s.net.remote, q.id ∉ c.await → q ∈ t.net.remote)
          ∧ (∀ q ∈ t.net.remote, q ∈ s.net.remote ∧ q.id ∉ c.await ∨ (c.first = 2 ∨ c.first = 3) ∧ q.kind = .discard n)
          ∧ ∃ fva, becomes t { c with stage := .complete, status := 0x07, fva := fva, shadow := [], await := []
                                      count := c.written }))

/-- R315, R369, R381, R383, R384, R393: a bulk engine takes the next filled slot of a ring, clears its kind byte, raises ridx by 1 and
queues its packet; the host has given up what it holds there. A collective that waits for its partners keeps the values that a partner
sends, and sends what they let it, each once and with its digest; it writes its shadow once its outputs are known and its partners have
taken what it sent. A partner with another digest, and a shard that is not expected from elsewhere, end it with status 0x05, a partner
that does not answer with 0x07, one that ended with an error with that error; its own partners are told. No message comes or goes while
every station of the fabric is down or in D3hot, in which no wait ends. The model's choices: a message is judged by the tables kept from
the start, and values of another length end the collective as another digest does (log entry 28); a slot that cannot be read is taken and
ends with 0x01 (log entry 90); a value is answered by the partner that takes it, and the root's result answers for it (log entry 92).
Each of these completes, under conditions on the state and its operands alone: QUEUE_SLOT_SERVE, COLLECTIVE_MESSAGE,
COLLECTIVE_PARTNER_TIMEOUT. -/
def Obligations.QueuesAndCollectives : Prop :=
  (∀ (asid hdr slot idx : Nat) (pkt : List DWord) (s : State),
    hdr ≠ s.asidCrt asid → s.pollHeld asid hdr = [] → s.nextSlot asid hdr = some (slot, idx, pkt) →
    s.headerHeld (s.asidL1 asid) hdr = [] → s.headerHeld (s.asidL1 asid) slot = [] →
    let l1 := s.asidL1 asid
    Answers (exec (.queueSlotServe asid hdr) s) (fun t => ∃ c, t.net.cmds.getLast? = some c
      ∧ (∀ ls lr, s.mem.wf = true → s.walk l1 slot = some ls → s.homeGone (ls.phys slot) = false →
        (∀ j, j < 8 → s.walk l1 (hdr + 8 + j) = some lr ∧ s.homeGone (lr.phys (hdr + 8 + j)) = false
          ∧ (let s1 := (s.publishJ l1 none [(slot, 0)]).1
            s1.walk l1 (hdr + 8 + j) = some lr ∧ s1.homeGone (lr.phys (hdr + 8 + j)) = false)) →
        let writes := (ls.phys slot, (0 : Byte)) :: (List.range 8).map (fun j =>
          (lr.phys (hdr + 8 + j), BitVec.ofNat 8 ((idx + 1) % 2 ^ 64 / 256 ^ j)))
        ∀ pa, t.mem.read pa = (pairAt writes.reverse pa).getD (s.mem.read pa))
      ∧ (t.dev.rebase = s.dev.rebase → t.net.cmds = s.net.cmds ++ [c]) ∧ c.pkt = pkt
      ∧ c.slot = some (hdr, idx) ∧ c.asid = asid ∧ c.sd = none ∧ t.groups = s.groups
      ∧ (pkt ≠ [] → c.stage = .queued ∧ c.status = 0) ∧ (pkt = [] → c.stage = .complete ∧ c.status = 0x01 ∧ c.fva = slot)))
    ∧ ∀ (n shard : Nat) (vals : List DWord) (ok : Bool) (c : Cmd) (s : State),
      s.cmdAt n = some c → c.kind = 7 → c.stage = .shadow →
      let me := s.devNum
      let up := collPat c ≠ 2 ∧ shard < collS c ∧ collDev c shard ≠ me ∧ collParent c shard ≠ 0xFFFF
        ∧ collDev c (collParent c shard) = me
      let down := collPat c != 0 && shard == collRoot c && collDev c shard != me
      let legal := ok = true ∧ (up ∨ down = true) ∧ vals.length = collN c
      let ended := fun (o : Out) (st : Nat) => Answers o (fun t => t = { s with net := t.net, dev := t.dev }
        ∧ t.dev = { s.dev with out := s.dev.out ++ if s.fabricUp then [Output.collectiveEnd (collId c) st] else [] }
        ∧ t.cmdAt n = some { c with stage := .complete, status := st, fva := 0, shadow := [], await := [], count := c.written
                                    first := if 8 < c.desc.length then 1 else 0 })
      let goes := fun (o : Out) (e : Cmd) =>
        let new := (collSends e me).filter (fun p => !e.sent.contains p.1)
        let e2 := { e with sent := e.sent ++ new.map (·.1) }
        let known := collReady e me = true ∧ (e2.sent.length ≤ e2.taken ∨ (Tab.find? e2.vals 131072).isSome = true)
        let bs := if collWants e me then collBytes e me ((collResult e me).getD []) else []
        let sends := fun (t : State) => t = { s with net := t.net, dev := t.dev }
          ∧ t.dev = { s.dev with out := s.dev.out ++ new.map (fun p => Output.collective (collId c) p.1 p.2 (collDigest c)) }
        (¬ known → Answers o (fun t => sends t ∧ t.cmdAt n = some { e2 with await := [1] }))
          ∧ (known → s.engChkAll e2 0 true false (bs.map (·.1)) = .ok →
            Answers o (fun t => sends t ∧ t.cmdAt n = some { e2 with await := [], shadow := bs.map (fun b => (0, b.1, b.2)), count := bs.length }))
      let c1 := { c with vals := Tab.set c.vals (if down then 131072 else shard) vals }
      let message := exec (.collectiveMessage n shard vals ok) s
      (s.fabricUp = true → legal → c.await ≠ [] → goes message c1)
        ∧ (s.fabricUp = true → legal → c.await = [] → message = .next s)
        ∧ (s.fabricUp = true → ¬ legal → ended message 0x05)
        ∧ (s.fabricUp = false → message = .next s)
        ∧ (s.fabricUp = true → c.await = [1] → c.taken < c.sent.length →
          goes (exec (.collectivePartnerTimeout n (some 0)) s) { c with taken := c.taken + 1 })
        ∧ (s.awake = false → ∀ st, exec (.collectivePartnerTimeout n st) s = .next s)
        ∧ (s.awake = true → c.await = [1] → ended (exec (.collectivePartnerTimeout n none) s) 0x07)
        ∧ ∀ st, s.awake = true → 1 ≤ st → st ≤ 0x0A → (c.await = [1] ∨ st = 0x05) → ended (exec (.collectivePartnerTimeout n (some st)) s) st

/-! ### Homes and replies -/

/-- R220, R224, R226, R231, R234, R239, R255, R284, R392: requests at their homes. HOME_RENEWAL extends the lease and returns the line
with its times, whichever line leaves the slice to make room; HOME_PUBLICATION merges its bytes by mask with a time above rts and
above the sender's CT; HOME_ATOMIC leaves the function of the old word and its operands and returns the old word;
UNCACHED_ACCESS_AT_HOME returns a load's bytes, which its destination registers then hold, and raises CT to wts, or merges a store's bytes;
DADD_UPDATE_ARRIVAL holds a deterministic update; what a store or an update leaves outstanding is done with it. Each takes its request
and no other. A line that fails its CRC is poisoned: a renewal and an atomic of it
are refused with 0x09, a publication is merged all the same.
The model's choices: requests are named by their place in a list (log entry 8); whether a line is intact is an operand of the event
(log entry 14); UNCACHED_ACCESS_AT_HOME performs the access and delivers its reply in one event (log entry 18).
Each of these completes, under conditions on the state and its operands alone: HOME_RENEWAL, HOME_PUBLICATION,
HOME_ATOMIC, UNCACHED_ACCESS_AT_HOME, DADD_UPDATE_ARRIVAL. -/
def Obligations.HomesServeRequests : Prop :=
  ∀ (n : Nat) (r : Req) (l : Leaf) (s : State),
    s.net.reqs[n]? = some r → s.reqReady n = true → s.mem.wf = true → s.dev.rebase = false →
    s.tagOf r.team (lineOf r.va) = none → l.phys r.va % 128 = r.va % 128 →
    let pa := lineOf (l.phys r.va)
    let h := s.hline pa
    let w := Nat.max r.ct (h.rts + 1)
    let inc := s.incOf pa
    let near := fun (k : Nat) => ∀ j, j < k → s.walk (s.l1Of r.team) (r.va + j) = some l ∧ l.phys (r.va + j) = l.phys r.va + j
    -- the write drops no translation, and its slice has room for the line
    let plain := (l.attr = .hosted → pa ∉ s.walkLines (s.l1Of r.team) r.va ∧ ∀ e ∈ s.dev.mtb, pa ∉ e.tables)
      ∧ s.lines.length < sliceLines
    let free := fun (a k : Nat) => s.writeFirst r l pa a k = none
    let failed := fun (t : State) => (t.hline pa).poison = .whole ∧ t.dev.crcerr = Nat.min (s.dev.crcerr + 1) (2 ^ 32 - 1)
    -- a line that has just failed its CRC holds no entry of the tables by which its bytes are found
    let apart := fun (ok : Bool) => ok = true ∨ pa ∉ s.walkLines (s.l1Of r.team) r.va
    let g := s.agent r.team r.agent
    let mine := fun (t : State) => (∀ u a, agentKey u a ≠ agentKey r.team r.agent → t.agent u a = s.agent u a)
    -- the first access of the agent that waits for `k` bytes from the address of the request on is given these bytes
    let given := fun (t : State) (k lane : Nat) (old : Bool) (byte : Nat → Byte) => (∀ o ∈ g.outs, o.bad = []) →
      ∀ o, g.outs.find? (fun o => o.wants r.va k lane old) = some o → Filled g (t.agent r.team r.agent) (fun q y =>
        if q.id = o.id ∧ r.va ≤ y.va ∧ y.va < r.va + k ∧ (old = true → y.lane = lane) then some (byte (y.va - r.va)) else none)
    let takes := fun (t : State) => t.net.reqs = s.net.reqs.eraseIdx n ∧ t.groups = s.groups
    let others := fun (t : State) => ∀ q, q ≠ pa → t.hline q = s.hline q
    let taken := fun (t : State) => takes t ∧ others t
    let replies := fun (t : State) (k : RepKind) => ∃ q, t.net.reps.getLast? = some q ∧ q.id = r.id ∧ q.core = r.core
      ∧ q.team = r.team ∧ q.agent = r.agent ∧ q.va = r.va ∧ q.kind = k
    let leaves := fun (t : State) (f : Nat → Byte) => ∀ a, t.mem.read a = f a
    let timed := fun (t : State) => (t.hline pa).wts = w ∧ (t.hline pa).rts = w
    (∀ spin p, r.kind = .renew spin → s.atHome r false = .here l p → r.va % 128 = 0 → s.hostFirst l p 128 false = none →
        (∀ victim : Option Nat, let s1 := s.evictHome p victim
          let old := s1.hline p
          let rts := if l.attr = .hosted then old.rts else Nat.max old.rts (Nat.max r.ct old.wts + l.lease)
          rts < 2 ^ 31 → Answers (exec (.homeRenewal n victim true) s) (fun t => takes t ∧ (∀ q, q ≠ p → t.hline q = s1.hline q)
            ∧ SameMem s t ∧ t.cores = s.cores ∧ t.teams = s.teams ∧ (t.hline p).wts = old.wts ∧ (t.hline p).rts = rts
            ∧ replies t (.renewed (s.mem.readN p 128) old.wts rts l (s.incOf p) spin)))
        ∧ ∀ victim : Option Nat, Answers (exec (.homeRenewal n victim false) s) (fun t => takes t ∧ SameMem s t
            ∧ (t.hline p).poison = .whole ∧ t.dev.crcerr = Nat.min (s.dev.crcerr + 1) (2 ^ 32 - 1) ∧ replies t (.failed 0x09 false)))
      ∧ (∀ bs ok, r.kind = .publish bs → s.atHome r true = .here l pa → r.va % 128 = 0 → bs ≠ [] → (∀ b ∈ bs, b.1 < 128) →
        near 128 → (let lo := pa + (bs.map (·.1)).foldl Nat.min 127; free lo (pa + maxOf 0 (bs.map (·.1)) + 1 - lo)) →
        plain → apart ok → w < 2 ^ 31 →
        Answers (exec (.homePublication n ok) s) (fun t => taken t ∧ timed t
          ∧ leaves t (fun a => if pa ≤ a ∧ a < pa + 128 then (pairAt bs.reverse (a - pa)).getD (s.mem.read a) else s.mem.read a)
          ∧ replies t (.published (t.mem.readN pa 128) w l inc)
          ∧ ∀ c, c ≠ r.core → ∀ k ∈ (t.coreOf c).copies, l.attr = .hosted → k.leaf.attr = .hosted →
              lineOf (k.leaf.phys k.line) = pa → k.latest = false))
      ∧ (∀ op k b c lane, r.kind = .atomic op k b c lane → s.atHome r true = .here l pa → s.poisoned pa = false →
        (near k → 0 < k → k ≤ 8 → r.va % 128 + k ≤ 128 → free (l.phys r.va) k → plain → w < 2 ^ 31 →
          let old := s.mem.readLE (l.phys r.va) k
          Answers (exec (.homeAtomic n true) s) (fun t => taken t ∧ timed t
            ∧ leaves t (fun a => if l.phys r.va ≤ a ∧ a < l.phys r.va + k then
                BitVec.ofNat 8 (atomNew op k old b.toNat c.toNat / 256 ^ (a - l.phys r.va)) else s.mem.read a)
            ∧ replies t (.atomic (t.mem.readN pa 128) w l inc (bytesLE k old) lane)))
        ∧ Answers (exec (.homeAtomic n false) s) (fun t => takes t ∧ SameMem s t ∧ failed t
            ∧ replies t (.failedOp 0x09 k lane true)))
      ∧ ((s.teamOf r.team).status = .placed → (s.teamOf r.team).core = r.core →
        s.replying s.net.reps r.core (s.reqSlice r) = false →
        let up := fun (t : State) (v : Nat) => (t.coreOf r.core).ct = Nat.max (s.coreOf r.core).ct v
        (∀ k lane p, r.kind = .uload k lane → s.atHome r false = .here l p →
            (∀ o ∈ (s.agent r.team r.agent).outs, o.bad = []) →
            Nat.max (s.coreOf r.core).ct (s.hline p).wts < 2 ^ 31 →
            Answers (exec (.uncachedAccessAtHome n true) s) (fun t => t.net.reqs = s.net.reqs.eraseIdx n ∧ SameMem s t
              ∧ t.lines = s.lines ∧ up t (s.hline p).wts ∧ mine t
              ∧ given t (Nat.min k (128 - r.va % 128)) lane false (fun j => s.mem.read (p + r.va % 128 + j))
              ∧ ∀ o, (s.agent r.team r.agent).outs.find? (fun o => o.wants r.va (Nat.min k (128 - r.va % 128)) lane false) = some o →
                ∀ q ∈ (t.agent r.team r.agent).outs, q.id = o.id → ∀ y ∈ q.slots, r.va ≤ y.va →
                  y.va < r.va + Nat.min k (128 - r.va % 128) → y.val.isSome = true))
          ∧ (∀ bs lane ok, r.kind = .ustore bs lane → s.atHome r true = .here l pa → near bs.length → bs ≠ [] → plain → apart ok →
            (∀ o ∈ g.outs, o.bad = []) → r.va % 128 + bs.length ≤ 128 → Nat.max (s.coreOf r.core).ct w < 2 ^ 31 →
            Answers (exec (.uncachedAccessAtHome n ok) s) (fun t => t.net.reqs = s.net.reqs.eraseIdx n ∧ mine t ∧ others t ∧ timed t
              ∧ up t w ∧ given t bs.length lane true (fun j => bs.getD j 0)
              ∧ leaves t (fun a => if l.phys r.va ≤ a ∧ a < l.phys r.va + bs.length then bs.getD (a - l.phys r.va) 0
                  else s.mem.read a))))
      ∧ (∀ u i q ph, r.kind = .dadd u i q ph → s.atHome r true = .here l pa → h.held.length < 16 → s.lines.length < sliceLines →
        (s.gridOf (s.teamOf r.team).grid).failing = none → s.cocooned r.team = false → (∀ o ∈ g.outs, o.bad = []) →
        Answers (exec (.daddUpdateArrival n) s) (fun t => t.net.reqs = s.net.reqs.eraseIdx n ∧ mine t ∧ others t ∧ SameMem s t
          ∧ given t 4 (i % 32) true (fun j => BitVec.ofNat 8 (u.toNat / 256 ^ j))
          ∧ (t.hline pa).held = h.held ++ [{ grid := (s.teamOf r.team).grid, i := i, q := q, team := r.team, phase := ph
                                             line := lineOf r.va, off := r.va % 128, u := u }]))

/-- R135, R226, R227, R228, R231, R239, R331: replies at the core. CT rises to the time returned. A renewal brings its line,
readable until its lease ends, and completes the loads of the view that awaited it: their destination registers then hold its bytes, and
every other register what it held; an atomic's destination holds the old word; the one that a SPIN waits for completes the
SPIN: CT rises by 1 more, the view of its line ends and its lanes move on; a publication is acknowledged and its line replaces
the core's copies; an atomic ends the team's view. For a team that is away a reply goes to its late-reply table.
The model's choices: replies are named by their place in a list (log entry 8); a view is told by message numbers, and a renewal
completes the loads that asked no later (log entry 15); a SPIN ends in RENEWAL_REPLY (log entry 16).
Each of these completes, under conditions on the state and its operands alone: RENEWAL_REPLY, PUBLICATION_REPLY,
ATOMIC_REPLY, LATE_REPLY. A SPIN of a cached page completes with its RENEWAL_REPLY. -/
def Obligations.RepliesReachTheCore : Prop :=
  ∀ (n : Nat) (r : Rep) (s : State),
    s.net.reps[n]? = some r → s.repReady n = true → s.dev.rebase = false →
    let x := s.teamOf r.team
    let g := s.agent r.team r.agent
    let up := fun (t : State) (v : Nat) => (t.coreOf r.core).ct = Nat.max (s.coreOf r.core).ct v
    let gone := fun (t : State) => SameMem s t ∧ t.net.reqs = s.net.reqs ∧ t.net.reps.length + 1 = s.net.reps.length
    let brings := fun (t : State) (data : List Byte) (wts rts : Nat) => r.gone = false → ∃ k ∈ (t.coreOf r.core).copies,
      k.latest = true ∧ k.asid = r.asid ∧ k.line = lineOf r.va ∧ k.data = data ∧ k.wts = wts ∧ k.rts = rts
    let filled := fun (t : State) (data : List Byte) => ∀ a ∈ x.agents, ∀ o ∈ (t.agent r.team a).outs, ∀ y ∈ o.slots,
      o.cached = true → lineOf y.va = r.va → y.since ≤ r.id → y.va - r.va < data.length → y.val.isSome = true
    let clean := ∀ a, ∀ o ∈ (s.agent r.team a).outs, o.bad = []
    let loads := fun (t : State) (data : List Byte) => ∀ a ∈ x.agents, Filled (s.agent r.team a) (t.agent r.team a) (fun o y =>
      if o.cached = true ∧ lineOf y.va = r.va ∧ y.since ≤ r.id then data[y.va - r.va]? else none)
    (x.status = .placed → x.core = r.core → (s.inL1 r.core).length < l1Lines (s.coreOf r.core).l1 →
        (∀ data wts rts l inc, r.kind = .renewed data wts rts l inc false → clean → Nat.max (s.coreOf r.core).ct wts < 2 ^ 31 →
            Answers (exec (.renewalReply n none) s) (fun t => gone t ∧ up t wts ∧ brings t data wts rts ∧ t.teams = s.teams
              ∧ filled t data ∧ loads t data))
          ∧ (∀ data wts rts l inc, r.kind = .renewed data wts rts l inc true → clean → g.status = .spin r.id →
            Nat.max (s.coreOf r.core).ct wts + 1 < 2 ^ 31 →
            Answers (exec (.renewalReply n none) s) (fun t => gone t ∧ up t (Nat.max (s.coreOf r.core).ct wts + 1)
              ∧ PcsAdvance g (t.agent r.team r.agent) ∧ (t.agent r.team r.agent).status = .run
              ∧ (∀ k ∈ (t.coreOf r.core).copies, k.line = r.va → r.team ∉ k.stable)
              ∧ s.net.nextId ≤ (t.teamOf r.team).fromOf r.va ∧ ∀ u, u ≠ r.team → t.teamOf u = s.teamOf u))
          ∧ (∀ data w l inc, r.kind = .published data w l inc → Nat.max (s.coreOf r.core).ct w < 2 ^ 31 →
            Answers (exec (.publicationReply n) s) (fun t => gone t ∧ up t w ∧ brings t data w w ∧ t.groups = s.groups
              ∧ (∀ p, p ∈ (t.teamOf r.team).pubs ↔ p ∈ x.pubs ∧ p.id ≠ r.id) ∧ (t.teamOf r.team).got = Nat.max x.got w))
          ∧ (∀ data w l inc old lane, r.kind = .atomic data w l inc old lane → clean → x.request = none → Nat.max (s.coreOf r.core).ct w < 2 ^ 31 →
            Answers (exec (.atomicReply n) s) (fun t => gone t ∧ up t w ∧ (l.attr ≠ .uncached → brings t data w w)
              ∧ (∀ a, (t.teamOf r.team).fromOf a = s.net.nextId) ∧ (∀ k ∈ (t.coreOf r.core).copies, r.team ∉ k.stable)
              ∧ ∀ o, g.outs.find? (fun o => o.wants r.va old.length lane true) = some o → Filled g (t.agent r.team r.agent) (fun q y =>
                if q.id = o.id ∧ r.va ≤ y.va ∧ y.lane = lane then old[y.va - r.va]? else none))))
      ∧ (∀ data wts rts l inc, r.kind = .renewed data wts rts l inc false → x.status ≠ .placed →
        Nat.max (s.coreOf r.core).ct wts < 2 ^ 31 →
        Answers (exec (.lateReply n) s) (fun t => t.net.reps.length + 1 = s.net.reps.length
          ∧ (x.recVA = 0 → SameMem s t) ∧ (∃ es, (t.teamOf r.team).late = x.late ++ es) ∧ filled t data ∧ loads t data
          ∧ (t.dev.rebase = false → up t wts ∧ (t.teamOf r.team).ct = Nat.max x.ct wts
            ∧ ∀ u, u ≠ r.team → t.teamOf u = s.teamOf u)))

/-- R220 to R222, R230, R245, R246: a forced visibility point first publishes what the team holds and then ends its view and
empties its overflow area; a grid boundary applies the updates of its phases, in ascending (i, q), one after another, to each
word; during a rebase a core that holds no team adjusts, by 2^30 and once, with the replies on their way to it and the times that
its teams have gathered, and when every core has adjusted the rebase is over, no line being left unconverted. From when it publishes
on, a team at a forced point is marked so that it is not flushed (R329). The model's choices: a view is told by message numbers (log
entry 15); that replies on their way to a core, and the times gathered, fall with its CT, those of a cocooned team apart, is an
inference that R245 and R246 do not state (log entry 7).
Each of these completes, under conditions on the state and its operands alone: FORCED_VISIBILITY_POINT, GRID_BOUNDARY,
REBASE_ADJUST_TIMEOUT, REBASE_COMPLETE. -/
def Obligations.BoundariesAndRebases : Prop :=
  (∀ (t : Nat) (s : State),
    let x := s.teamOf t
    x.forced = true → s.onCore t = true → x.trap = none → x.pubTrap = none → s.dev.rebase = false →
    (x.unpub = [] → x.pubs = [] → Answers (exec (.forcedVisibilityPoint t) s) (fun u => SameMem s u
        ∧ (u.teamOf t).used.release = true ∧ (u.teamOf t).forced = false ∧ (u.teamOf t).ovf = [] ∧ (∀ l, (u.teamOf t).fromOf l = s.net.nextId)
        ∧ (∀ k ∈ (u.coreOf x.core).copies, t ∉ k.stable) ∧ (∀ v, v ≠ t → u.teamOf v = s.teamOf v) ∧ u.groups = s.groups))
      ∧ (x.unpub ≠ [] → s.closedUnpub t = none → s.absentUnpub t = [] →
        Answers (exec (.forcedVisibilityPoint t) s) (fun u => SameMem s u ∧ (u.teamOf t).used.release = true ∧ (u.teamOf t).unpub = []
          ∧ ∀ l ∈ x.unpubLines, ∃ r ∈ u.net.reqs, r.team = t ∧ r.va = l ∧ r.kind = .publish (x.unpubOf l))))
    ∧ (∀ (gr line : Nat) (l : Leaf) (s : State),
      let g := s.gridOf gr
      let n := g.bound + 1
      let due := (s.heldOf gr).filter (fun d => decide (d.phase ≤ n))
      0 < g.teams → g.failing = none → g.reached n = true → g.claims = [] → s.mem.wf = true →
      (∀ r ∈ s.net.reqs, (s.teamOf r.team).grid = gr → ∀ u i q p, r.kind = .dadd u i q p → n < p) →
      ((∃ r, r < g.teams ∧ n ≤ Tab.get 0 g.done r) ∨ due ≠ []) →
      (∀ d ∈ due, d.line = line ∧ d.off % 4 = 0 ∧ d.off < 128) → g.declaresLine line = false →
      s.homeGone (l.phys line) = false →
      (∀ j, j < 128 → s.walk g.ctx.l1pa (line + j) = some l ∧ l.phys (line + j) = l.phys line + j) → l.phys line % 128 = 0 →
      Answers (exec (.gridBoundary gr) s) (fun t => (t.gridOf gr).bound = n
        ∧ (∀ d ∈ t.heldOf gr, d ∈ s.heldOf gr ∧ n < d.phase)
        ∧ (∀ a, (∀ d ∈ due, a < l.phys line + d.off ∨ l.phys line + d.off + 4 ≤ a) → t.mem.read a = s.mem.read a)
        ∧ ∀ d ∈ due, ∃ us : List Dadd, us.Perm (due.filter (fun e => e.off == d.off))
          ∧ us.Pairwise (fun e f => e.i < f.i ∨ e.i = f.i ∧ e.q ≤ f.q)
          ∧ t.mem.readLE (l.phys line + d.off) 4
              = (us.foldl (fun v e => add32 v e.u.toNat) (s.mem.readLE (l.phys line + d.off) 4)) % 2 ^ 32))
    ∧ ∀ (c : Nat) (s : State), s.dev.rebase = true →
      ((s.coreOf c).gen ≠ s.genBit → (∀ t ∈ s.teamKeys, (s.teamOf t).core ≠ c ∨ (s.teamOf t).status ≠ .placed) →
          Answers (exec (.rebaseAdjustTimeout c) s) (fun t =>
            t = { s with cores := t.cores, teams := t.teams, net := { s.net with reps := t.net.reps } }
            ∧ (t.coreOf c).ct = (s.coreOf c).ct - 2 ^ 30 ∧ (t.coreOf c).gen = s.genBit
            ∧ (∀ k, k ≠ c → t.coreOf k = s.coreOf k)
            ∧ (∀ u, t.teamOf u = { s.teamOf u with
                got := if (s.teamOf u).core = c ∧ s.cocooned u = false then (s.teamOf u).got - 2 ^ 30 else (s.teamOf u).got })
            ∧ t.net.reps = s.net.reps.map (fun r => if r.core = c ∧ s.cocooned r.team = false then { r with kind := r.kind.mapTimes (· - 2 ^ 30) } else r)
            ∧ exec (.rebaseAdjustTimeout c) t = .next t))
        ∧ ((∀ k ∈ Tab.keys s.cores, s.coreAdjusted k = true) →
          Answers (exec .rebaseComplete s) (fun t => t.dev.rebase = false ∧ t.dev.tbgen = s.dev.tbgen
            ∧ (∀ p ∈ t.lines, p.2.gen = s.genBit) ∧ t.groups = s.groups
            ∧ ((∀ u ∈ s.teamKeys, (s.teamOf u).status ≠ .atBoundary) → SameMem s t ∧ t.dev = { s.dev with rebase := false }
              ∧ ∀ u, t.teamOf u = { s.teamOf u with got := (t.teamOf u).got })))

/-! ### Links, dies, the host and the fabric -/

/-- R248, R250 to R253, R389: bridge links sleep, wake, retrain and fail; a die that has lost both its paths fences itself; one
that is declared dead fails the grids of its teams, which are gone, refuses the requests sent to it with 0x09 and loses every
copy of its lines; one that rejoins has the next incarnation, M and CT 0, and lines that read as poisoned. A write of DIERST resets a
die while the firmware is up, the device is in D0 and the host's traffic is taken (R387, R389, R393). The model's choices: what is
answered with 0x09 and what is dropped
when a die dies (log entry 48); a failed retrain of link 1 or 2 plans DIE_DECLARED_DEAD whatever path remains (log entry 42).
Each of these completes, under conditions on the state and its operands alone: LINK_WAKE, LINK_WAKE_TIMEOUT,
LINK_RETRAIN_FAILURE, DIE_SELF_FENCE, DIE_DECLARED_DEAD, DIE_REJOIN, DIE_RESET, BRIDGE_LINK_SLEEP, BRIDGE_LINK_UP,
BRIDGE_LINK_DOWN. -/
def Obligations.LinksAndDies : Prop :=
  ∀ (l : Fin 3) (d : Fin 2) (s : State),
    let L := s.linkAt l.val
    let X := s.dieAt d.val
    let goes := fun (i : Instr) (k : Link) =>
      Answers (exec i s) (fun t => t = { s with dev := { s.dev with links := vset s.dev.links l.val k } })
    let back := fun (t : State) => (t.dieAt d.val).alive = true ∧ (t.dieAt d.val).fenced = false
      ∧ (t.dieAt d.val).inc = X.inc + 1 ∧ (t.dieAt d.val).stale = true ∧ SameMem s t
      ∧ (∀ i, i < 32 → vget 0 t.dev.memo i = if i / 16 = d.val then 0 else vget 0 s.dev.memo i)
      ∧ ∀ c, dieOf c = d.val → (t.coreOf c).ct = 0 ∧ (t.coreOf c).copies = []
    let dead := fun (t : State) => (t.dieAt d.val).alive = false ∧ (t.dieAt d.val).fenced = true ∧ SameMem s t
      ∧ (∀ u ∈ s.teamKeys, ((s.teamOf u).status = .placed ∨ (s.teamOf u).status = .cocooned) → dieOf (s.teamOf u).core = d.val →
          (t.teamOf u).status = .ended
            ∧ ((Tab.find? s.grids (s.teamOf u).grid).isSome = true → (t.gridOf (s.teamOf u).grid).failing ≠ none))
      ∧ (∀ c, ∀ k ∈ (t.coreOf c).copies, k.homedOn d.val = false)
      ∧ (∀ r ∈ t.net.reqs, r ∈ s.net.reqs ∧ s.reqSlice r / 16 ≠ d.val ∧ dieOf r.core ≠ d.val)
      ∧ ∀ r ∈ s.net.reqs, s.reqSlice r / 16 = d.val → dieOf r.core ≠ d.val →
          ∃ q ∈ t.net.reps, q.id = r.id ∧ q.team = r.team ∧ q.va = r.va ∧ q.kind = r.kind.refusal 0x09
    (L = .asleep → s.heldFor l.val = true → goes (.linkWake l) .waking)
      ∧ (L = .waking → goes (.linkWakeTimeout l) .retraining)
      ∧ (L = .up → s.net.reqs = [] → s.net.reps = [] → s.net.snoops = [] → goes (.bridgeLinkSleep l) .asleep)
      ∧ (L = .waking ∨ L = .retraining → goes (.bridgeLinkUp l) .up)
      ∧ (L = .up → goes (.bridgeLinkDown l) .retraining)
      ∧ (L = .retraining → Answers (exec (.linkRetrainFailure l) s) (fun t => t.linkAt l.val = .down
          ∧ t = { s with dev := { s.dev with links := t.dev.links }, agenda := t.agenda }
          ∧ (l.val = 1 → .auto (.dieDeclaredDead 0) ∈ t.agenda) ∧ (l.val = 2 → .auto (.dieDeclaredDead 1) ∈ t.agenda)))
      ∧ (s.linkAt (1 + d.val) = .down → (s.linkAt 0 = .down ∨ s.linkAt (2 - d.val) = .down) →
        Answers (exec (.dieSelfFence d) s) (fun t => t = { s with dev := { s.dev with dies := t.dev.dies } }
          ∧ t.dieAt d.val = { X with fenced := true } ∧ t.dieAt (1 - d.val) = s.dieAt (1 - d.val)))
      ∧ (X.alive = true → (s.linkAt (1 + d.val) = .down ∨ X.fenced = true) → Answers (exec (.dieDeclaredDead d) s) dead)
      ∧ (X.alive = false → X.inc < 65535 → Answers (exec (.dieRejoin d) s) back)
      ∧ (X.alive = false → 65535 ≤ X.inc → exec (.dieRejoin d) s = .next s)
      ∧ (s.barOpen = true → X.inc < 65535 → Answers (exec (.dieReset d) s) (fun t => back t
          ∧ ∀ pa, isDevicePa pa = true → homeDie pa = d.val → t.poisoned pa = true))
      ∧ ((s.dev.rdy = false ∨ s.dev.power = false ∨ s.dev.d3 = true ∨ s.dev.hostUp = false ∨ s.dev.hostShut = true) →
        exec (.dieReset d) s = .next s)

/-- R250, R251, R254 to R258, R386, R387, R392, R393: a write of the host is merged at its homes at the ingress time, above every rts of
its lines, and takes the cores' copies, but a home that is gone takes nothing; a read returns what is merged there, marked where a
line is poisoned, and leaves the granules held by the host; the answer to a snoop, over a path that is up, merges modified data
and gives the granule back; a lost link poisons the granules that the host held, and no other, takes the copies of host memory, and shuts
the host's traffic out until it commits its decoder again. In D3hot neither host nor link is waited for.
The model's choices: window, granules and host lines are cleared at the failure itself (log entry 50); a granule that is lost reads as
poisoned until it, or its line, is written whole (log entry 13).
Each of these completes, under conditions on the state and its operands alone: HOST_WRITE, HOST_READ, HOST_LINK_FAILURE,
HOST_LINK_RETRAINED, HDM_DECODER_COMMIT, BACK_INVALIDATE_RESPONSE, CXL_CACHE_RESPONSE. -/
def Obligations.HostAccessesAreCoherent : Prop :=
  ∀ (pa len : Nat) (data : List Byte) (own : Bool) (s : State),
    let U := 0x10000000
    let put := fun (t : State) (a : Nat) (bs : List Byte) =>
      ∀ k, t.mem.read k = if a ≤ k ∧ k < a + bs.length then bs.getD (k - a) 0 else s.mem.read k
    let dropped := fun (t : State) (n : Nat) => ∀ c, ∀ k ∈ (t.coreOf c).copies, k.leaf.attr = .hosted →
      (∃ j, j < n ∧ lineOf (k.leaf.phys k.line) = lineOf (pa + j)) → k.latest = false
    s.mem.wf = true → s.dev.rebase = false →
    (isHostPa pa = false → s.hostServed = true → s.hostRange pa data.length = true →
        Answers (exec (.hostWrite pa data) s) (fun t => t.groups = s.groups
          ∧ (∀ k, t.mem.read k = if pa ≤ k ∧ k < pa + data.length ∧ s.homeGone k = false then data.getD (k - pa) 0 else s.mem.read k)
          ∧ (∀ c, ∀ k ∈ (t.coreOf c).copies, k.leaf.attr = .hosted → (∃ j, j < data.length ∧ s.homeGone (pa + j) = false
            ∧ lineOf (k.leaf.phys k.line) = lineOf (pa + j)) → k.latest = false)
          ∧ (t.dev.rebase = false → ∀ j, j < data.length → s.homeGone (pa + j) = false →
            (s.hline (lineOf (pa + j))).rts < t.dev.j
              ∧ (s.dev.mtb = [] → s.lines.length + data.length < sliceLines →
                (t.hline (lineOf (pa + j))).wts = t.dev.j ∧ (t.hline (lineOf (pa + j))).rts = t.dev.j))))
      ∧ (isHostPa pa = true → Answers (exec (.hostWrite pa data) s) (fun t => put t pa data ∧ dropped t data.length
          ∧ t.groups = s.groups ∧ t.lines = s.lines
          ∧ ∀ h, h ∈ t.dev.hostLines ↔ h ∈ s.dev.hostLines ∧ ∀ j, j < data.length → h ≠ lineOf (pa + j)))
      ∧ (s.hostServed = true → s.hostRange pa len = true →
        Answers (exec (.hostRead pa len own) s) (fun t => SameMem s t ∧ (own = true → dropped t len) ∧ (own = false → t.cores = s.cores)
          ∧ (∃ bad, t.dev.out = s.dev.out ++ [.hostData pa (s.mem.readN pa len) bad]
            ∧ (bad = true ↔ ∃ j, j < len ∧ (s.homeGone (pa + j) = true ∨ s.poisonedIn (pa + j) 1 = true)))
          ∧ ∀ j, j < len → Tab.get 0 t.dev.gran ((pa + j) / 64 * 64) = if own then 2 else 1))
      ∧ (∀ inv, s.net.snoops.find? (fun p => p.1 == pa) = some (pa, inv) → s.hostServed = true → s.pathCtl (homeOf pa) = true →
        (Answers (exec (.backInvalidateResponse pa none) s) (fun t => SameMem s t ∧ (∀ p ∈ t.net.snoops, p.1 ≠ pa)
            ∧ Tab.get 0 t.dev.gran pa = if inv then 0 else 1))
          ∧ ((∀ j, j < 64 → s.homeGone (pa + j) = false) →
            Answers (exec (.backInvalidateResponse pa (some data)) s) (fun t => put t pa (data.take 64)
              ∧ (∀ p ∈ t.net.snoops, p.1 ≠ pa) ∧ Tab.get 0 t.dev.gran pa = if inv then 0 else 1)))
      ∧ (pa ∈ s.net.hostRq → s.hostServed = true →
        Answers (exec (.cxlCacheResponse pa data) s) (fun t => put t pa (padBytes 128 data) ∧ pa ∈ t.dev.hostLines
          ∧ pa ∉ t.net.hostRq ∧ t.net.reqs = s.net.reqs ∧ t.groups = s.groups))
      ∧ (s.hostServed = true → pa % U = 0 → len % U = 0 → len ≠ 0 → pa + len ≤ 0xC000000000 →
        Answers (exec (.hdmDecoderCommit pa len) s) (fun t => t = { s with dev := { s.dev with hdm := some (pa, len), hostShut := false } }))
      ∧ (s.awake = false → exec .hostLinkFailure s = .next s)
      ∧ (s.awake = true → (∃ p ∈ s.net.snoops, s.pathCtl (homeOf p.1) = true) ∨ s.net.hostRq ≠ [] →
        Answers (exec .hostLinkFailure s) (fun t => SameMem s t ∧ t.dev.hostUp = false ∧ t.dev.hostShut = true ∧ t.dev.hdm = none ∧ t.dev.gran = []
          ∧ t.dev.hostLines = [] ∧ t.net.snoops = [] ∧ t.net.hostRq = []
          ∧ (∀ p ∈ s.dev.gran, p.2 ≠ 0 → t.poisonedIn p.1 64 = true)
          ∧ (∀ g, g % 64 = 0 → (∀ p ∈ s.dev.gran, p.2 ≠ 0 → p.1 / 64 * 64 ≠ g) → t.poisonedIn g 64 = s.poisonedIn g 64)
          ∧ ∀ c, ∀ k ∈ (t.coreOf c).copies, isHostPa k.leaf.pa = false))
      ∧ (s.dev.power = true → s.dev.rdy = true →
        Answers (exec .hostLinkRetrained s) (fun t => t = { s with dev := { s.dev with hostUp := true } }))

/-- R261, R339, R366, R369, R371, R375, R376, R390, R393: over a station that is up, the last response of a REMOTE access completes it and
the group goes on; one that does not come raises 0x09 at the access, the group's registers, lanes and flags as they were when it issued and
nothing that the group issued after it left outstanding, and a store that is not acknowledged is kept for its agent's next system fence;
in D3hot both are waited for. A response of a superseded incarnation is dropped, with every station down none is taken, and one for a
cocooned team is held. Accesses
of peers are performed at exported addresses and answered; a peer's shadow lines are held until they are to be merged, or discarded.
The first station up fixes the member number, which later ones must match.
The model's choices: a failed store is kept for the next system fence (log entry 20); the member number is taken again once no station
is up (log entry 51); what a refused access undoes (log entries 17 and 19); the messages that hold, merge and discard shadow lines
(log entry 86).
Each of these completes, under conditions on the state and its operands alone: REMOTE_RESPONSE, REMOTE_TIMEOUT,
REMOTE_ACCESS_INGRESS, FABRIC_STATION_DOWN, DEVICE_UNREACHABLE, FABRIC_STATION_UP. -/
def Obligations.FabricTraffic : Prop :=
  (∀ (n : Nat) (r : RemoteReq) (bs : List Byte) (s : State),
    s.net.remote[n]? = some r → r.agent < 18 → r.ans = none →
    let x := s.teamOf r.team
    let g := s.agent r.team r.agent
    let last := ∀ q ∈ s.net.remote.eraseIdx n, q.team ≠ r.team ∨ q.agent ≠ r.agent
    let only := fun (t : State) => SameMem s t ∧ t.net = { s.net with remote := s.net.remote.eraseIdx n }
      ∧ (∀ u a, agentKey u a ≠ agentKey r.team r.agent → t.agent u a = s.agent u a)
      ∧ ∀ u, u ≠ r.team → t.teamOf u = s.teamOf u
    let undone := fun (t : State) (o : Outst) (fva : Nat) =>
      let h := t.agent r.team r.agent
      let later := fun (team agent id : Nat) => team = r.team ∧ agent = r.agent ∧ o.id ≤ id
      SameMem s t ∧ h.status = .trapped ∧ h.regs = o.regs ∧ (∀ p, p ∈ h.outs ↔ p ∈ g.outs ∧ p.id < o.id)
        ∧ (∀ p, p ∈ h.stores ↔ p ∈ g.stores ∧ p.id ≤ o.id) ∧ h.tickets = g.tickets
        ∧ (t.teamOf r.team).trap = some { code := 0x09, kind := 0, agent := r.agent, fva := fva, svc := 0 }
        ∧ (∀ q, q ∈ t.net.reqs ↔ q ∈ s.net.reqs ∧ ¬ (later q.team q.agent q.id ∧ ∃ k lane, q.kind = .uload k lane))
        ∧ (∀ p, p ∈ t.net.held ↔ p ∈ s.net.held ∧ ¬ (p.1 = r.team ∧ p.2.1 = r.agent)) ∧ t.net.cmds = s.net.cmds
        ∧ (∀ u a, agentKey u a ≠ agentKey r.team r.agent → t.agent u a = s.agent u a)
        ∧ ∀ u, u ≠ r.team → t.teamOf u = s.teamOf u
    (∀ (k f : Nat) (d : SReg) (o : Outst), r.kind = .load k 0 → k ≤ 8 → bs.length = k → 0 < k → g.status = .remote [] →
        g.outs = [o] → o.remote = true → o.bad = [] → o.dest = .uni d → x.status = .placed → s.fabricUp = true →
        o.slots = (List.range k).map (fun i => { lane := 0, idx := i, va := r.va + i, val := none, since := f }) →
        Answers (exec (.remoteResponse n (.data bs)) s) (fun t => only t ∧ (t.agent r.team r.agent).pcs = g.pcs
          ∧ (t.agent r.team r.agent).status = .run ∧ (t.agent r.team r.agent).outs = []
          ∧ (t.agent r.team r.agent).getS d = (if d.val = 63 then 0 else BitVec.ofNat 64 (natLE bs))
          ∧ ∀ e, e ≠ d → (t.agent r.team r.agent).getS e = g.getS e))
      ∧ (∀ (k lane f : Nat) (d : SReg) (o : Outst), r.kind = .load k lane → 0 < k → g.status = .remote [] → last → x.trap = none →
        g.outs = [o] → o.remote = true → o.dest = .uni d → x.status = .placed → s.awake = true →
        o.slots = (List.range k).map (fun i => { lane := lane, idx := i, va := r.va + i, val := none, since := f }) →
        Answers (exec (.remoteTimeout n) s) (fun t => undone t o r.va ∧ t.net.remote = s.net.remote.eraseIdx n))
      ∧ (∀ (o : Outst) (fva : Nat), x.trap = none → undone (s.trapAccess r.team r.agent o 0x09 fva) o fva)
      ∧ (∀ ans, s.fabricUp = false ∨ ans = .stale → exec (.remoteResponse n ans) s = .next s)
      ∧ (∀ ans k lane, s.fabricUp = true → ans ≠ .stale → r.kind = .load k lane → s.cocooned r.team = true →
        Answers (exec (.remoteResponse n ans) s) (fun t => t = { s with net := { s.net with remote := t.net.remote } }
          ∧ t.net.remote[n]? = some { r with ans := some ans } ∧ ∀ m, m ≠ n → t.net.remote[m]? = s.net.remote[m]?))
      ∧ (∀ b, r.kind = .store b → s.cocooned r.team = false →
        (s.fabricUp = true →
          Answers (exec (.remoteResponse n .done) s) (fun t => only t ∧ t.teams = s.teams ∧ t.groups = s.groups)
            ∧ Answers (exec (.remoteResponse n .protection) s) (fun t => only t
              ∧ Tab.find? (t.teamOf r.team).remTrap r.agent = some (Tab.get (0x05, r.va) x.remTrap r.agent)))
          ∧ (s.awake = true → Answers (exec (.remoteTimeout n) s) (fun t => only t
            ∧ Tab.find? (t.teamOf r.team).remTrap r.agent = some (Tab.get (0x09, r.va) x.remTrap r.agent))))
      ∧ (s.awake = false → exec (.remoteTimeout n) s = .next s))
    ∧ (∀ (src tag xa n l1 va pa : Nat) (bs : List Byte) (s : State),
      s.fabricUp = true → s.mem.wf = true → (∀ p ∈ s.net.ingress, p.src ≠ src) →
      let at_ := s.ingressAt s.exportBase s.exportOn xa
      let tells := fun (t : State) (a : RemoteAnswer) => t.dev.out = s.dev.out ++ [.remoteReply src tag a] ∧ t.groups = s.groups
      (at_ n false false = .ok l1 va pa → Answers (exec (.remoteAccessIngress src tag (.load xa n)) s)
          (fun t => tells t (.data (s.mem.readN pa n)) ∧ SameMem s t))
        ∧ (at_ bs.length true false = .ok l1 va pa → (∀ j, j < bs.length → s.homeGone (pa + j) = false) → Answers (exec (.remoteAccessIngress src tag (.store xa bs)) s)
          (fun t => tells t .done ∧ ∀ k, t.mem.read k = if pa ≤ k ∧ k < pa + bs.length then bs.getD (k - pa) 0 else s.mem.read k))
        ∧ (∀ a, at_ n false false = .refused a → Answers (exec (.remoteAccessIngress src tag (.load xa n)) s)
          (fun t => tells t a ∧ SameMem s t))
        ∧ (∀ parts ws, s.landParts (s.arriving src tag (.publish parts)) = .ok ws →
          Answers (exec (.remoteAccessIngress src tag (.publish parts)) s) (fun t => tells t .done ∧ SameMem s t
            ∧ t.net.shadows = s.net.shadows ++ [s.arriving src tag (.publish parts)]))
        ∧ (∀ q of_ k ws, s.net.shadows.find? (fun k => k.src == src && k.tag == of_) = some k → s.landParts k = .ok ws →
          (∀ w ∈ ws, s.homeGone w.1 = false) →
          Answers (exec (.remoteAccessIngress src tag (.merge q of_)) s) (fun t => tells t .done
            ∧ (∀ a, t.mem.read a = (pairAt ws.reverse a).getD (s.mem.read a))
            ∧ ∀ k, k ∈ t.net.shadows ↔ k ∈ s.net.shadows ∧ ¬ (k.src = src ∧ k.tag = of_)))
        ∧ ∀ q of_, Answers (exec (.remoteAccessIngress src tag (.discard q of_)) s) (fun t => tells t .done ∧ SameMem s t
            ∧ ∀ k, k ∈ t.net.shadows ↔ k ∈ s.net.shadows ∧ ¬ (k.src = src ∧ k.tag = of_)))
    ∧ ∀ (st : Fin 8) (acc : BitVec 10) (dev : Nat) (s : State),
      (s.stationUp st.val = false → s.dev.rdy = true → s.dev.power = true →
          (((∀ j, j < 8 → s.stationUp j = false) ∨ s.dev.mem = acc.toNat) →
            Answers (exec (.fabricStationUp st acc) s) (fun t => t = { s with dev := { s.dev with stations := t.dev.stations, mem := acc.toNat } }
              ∧ ∀ j, j < 8 → t.stationUp j = if j = st.val then true else s.stationUp j))
          ∧ ((∃ j, j < 8 ∧ s.stationUp j = true) → s.dev.mem ≠ acc.toNat →
            Answers (exec (.fabricStationUp st acc) s) (fun t => t = { s with dev := { s.dev with out := s.dev.out ++ [.linkFault st.val] } })))
        ∧ Answers (exec (.fabricStationDown st) s) (fun t => t = { s with dev := { s.dev with stations := t.dev.stations } }
            ∧ ∀ j, j < 8 → t.stationUp j = if j = st.val then false else s.stationUp j)
        ∧ (s.awake = false → exec (.deviceUnreachable dev) s = .next s)
        ∧ (s.awake = true → Answers (exec (.deviceUnreachable dev) s) (fun t => (∀ r ∈ t.net.remote, r.dev = dev → r.ans ≠ none)
            ∧ ∀ r ∈ s.net.remote, r.dev = dev → r.ans = none → r.agent < 18 → (∃ b, r.kind = .store b) →
              (Tab.find? (t.teamOf r.team).remTrap r.agent).isSome = true))

/-! ### Pages and local store -/

/-- R265, R266, R268, R275, R280, R281, R317, R319: a page made resident, under the tables that the grids of its ASID run with, has RS
set in its leaf entry, which changes in nothing else but the frame, if a new one is given, and no team awaits it any longer; a closed
request leaves the page absent, and the accesses at homes that
wait for it are refused with 0x04; a collapse clears RD, and the frame at pa keeps the larger rts of the two replicas. A window
page that is filled holds the bytes of its backing copy, or zeros, and the group that stalled for it goes on, holding it until it
issues, unless the frame would be one of more than 256 that engine commands pin; a stall that lasts too long saves the team, at its
boundary if it stands at one, with the count of pages that are missing;
shadow frames, and the frames that they pin, stay.
The model's choices: RS, RD and the frame are written into the leaf entry itself (log entry 36); a closed request is remembered by
each team that awaited the page (log entry 44).
Each of these completes, under conditions on the state and its operands alone: LS_FILL_COMPLETE, LS_STALL_TIMEOUT,
PAGE_RESIDENT, READ_DUPLICATE_COLLAPSE, PAGE_REQUEST_CLOSED. -/
def Obligations.PagesComeAndGo : Prop :=
  (∀ (asid va : Nat) (l : Leaf) (p : Leaf → Bool) (s : State), s.rootLeaf asid va p = some l →
    (∃ r ∈ s.roots asid, s.walk r va = some l) ∧ (p l = false → ∀ r ∈ s.roots asid, ∀ m, s.walk r va = some m → p m = false))
    ∧ (∀ (asid va : Nat) (l : Leaf) (s : State),
    s.mem.wf = true → l.size ≠ 0x200000 →
    s.leafHeld l = [] → (∀ j, j < 8 → s.homeGone (l.at_ + j) = false) →
    let e := s.quadAt l.at_
    let rest := fun (t : State) => (∀ a, a < l.at_ ∨ l.at_ + 8 ≤ a → t.mem.read a = s.mem.read a) ∧ t.groups = s.groups
    let come := fun (t : State) (p : Nat) => ∀ u, (s.teamOf u).asid = asid → (t.teamOf u).awaits = (s.teamOf u).awaits.erase p
    let absent := s.rootLeaf asid va (fun l => !l.rs) = some l ∧ l.rs = false
    (absent → Answers (exec (.pageResident asid va none) s) (fun t => rest t ∧ come t (l.page va)
        ∧ bitOf (t.quadAt l.at_) 9 = true ∧ (∀ i, i ≠ 9 → bitOf (t.quadAt l.at_) i = bitOf e i)
        ∧ ∀ p, p ∈ t.net.pageRq ↔ p ∈ s.net.pageRq ∧ p ≠ (asid, l.page va)))
      ∧ (∀ p, absent → l.size = 0x10000 → l.attr ≠ .remote → p % 0x10000 = 0 → isDevicePa p = true →
        Answers (exec (.pageResident asid va (some p)) s) (fun t => rest t ∧ come t (l.page va)
          ∧ bitOf (t.quadAt l.at_) 9 = true ∧ t.quadAt l.at_ / 2 ^ 16 = p / 2 ^ 16
          ∧ ∀ i, i < 16 → i ≠ 9 → bitOf (t.quadAt l.at_) i = bitOf e i))
      ∧ (s.rootLeaf asid va (·.rd) = some l → l.rd = true → l.size = 0x10000 → (asid, va) ∈ s.net.collapse →
        let base := l.phys va / 0x10000 * 0x10000
        Answers (exec (.readDuplicateCollapse asid va) s) (fun t => rest t ∧ come t va ∧ (asid, va) ∉ t.net.collapse
          ∧ bitOf (t.quadAt l.at_) 8 = false ∧ (∀ i, i ≠ 8 → bitOf (t.quadAt l.at_) i = bitOf e i)
          ∧ (∀ c, ∀ k ∈ (t.coreOf c).copies, k.asid = asid → l.page k.line = va → k.leaf.rd = false)
          ∧ (t.dev.rebase = false → ∀ j, j < 512 → (s.hline (base + 128 * j)).rts ≤ (t.hline (base + 128 * j)).rts
            ∧ (s.hline (base + 0x10000 + Nat.xor (128 * j) 0x800)).rts ≤ (t.hline (base + 128 * j)).rts))))
    ∧ (∀ (asid va : Nat) (s : State), (asid, va) ∈ s.net.pageRq →
      Answers (exec (.pageRequestClosed asid va) s) (fun t => SameMem s t ∧ t.groups = s.groups
        ∧ (∀ p, p ∈ t.net.pageRq ↔ p ∈ s.net.pageRq ∧ p ≠ (asid, va))
        ∧ (∀ o b, (o, asid, va, b) ∈ s.net.gclosed → (o, asid, va, true) ∈ t.net.gclosed)
        ∧ (∀ u, (s.teamOf u).asid = asid → va ∈ (s.teamOf u).awaits → va ∈ (t.teamOf u).closed)
        ∧ ∀ r ∈ s.net.reqs, r.asid = asid → ∀ l, s.walk (s.l1Of r.team) r.va = some l → l.rs = false → l.page r.va = va →
            ∃ q ∈ t.net.reps, q.id = r.id ∧ q.team = r.team ∧ q.va = r.va ∧ q.kind = r.kind.refusal 0x04))
    ∧ (∀ (asid va : Nat) (pa : Option Nat) (l : Leaf) (s : State), s.rootLeaf asid va (fun l => !l.rs) = some l → l.rs = true →
      Answers (exec (.pageResident asid va pa) s) (fun t => SameMem s t ∧ t.groups = s.groups
        ∧ (∀ u, (s.teamOf u).asid = asid → (t.teamOf u).awaits = (s.teamOf u).awaits.erase (l.page va))
        ∧ ∀ p, p ∈ t.net.pageRq ↔ p ∈ s.net.pageRq ∧ p ≠ (asid, l.page va)))
    ∧ ∀ (t g p f : Nat) (s : State),
      let x := s.teamOf t
      let back := x.bkva + 2048 * (p + 1)
      let zero := bitOf (s.readVa x.ctx.l1pa (x.bkva + p / 8)).toNat (p % 8)
      s.onCore t = true →
      ((s.agent t g).status = .stall [(t, p)] → s.pageIn t p = false → (s.coreOf x.core).freeFrame = some f → x.ls.wf = true →
        (∀ e ∈ (s.coreOf x.core).ltt, e.shd = false) → (s.coreOf x.core).ltt.length < 4096 →
        (s.pinned t p = false ∨ s.pinCount x.core < 256) →
        Answers (exec (.lsFillComplete t g) s) (fun u => SameMem s u ∧ u.pageIn t p = true
          ∧ (∃ e ∈ (u.coreOf x.core).ltt, e.team = t ∧ e.vpage = p ∧ e.frame = f)
          ∧ u.agent t g = { s.agent t g with status := .run, hold := [(t, p)] }
          ∧ (∀ v b, agentKey v b ≠ agentKey t g → u.agent v b = s.agent v b) ∧ (∀ v, v ≠ t → u.teamOf v = s.teamOf v)
          ∧ ∀ o, (u.teamOf t).ls.read o =
              if o / 2048 = p ∧ zero = false then s.readVa x.ctx.l1pa (back + o % 2048) else x.ls.read o))
      ∧ (∀ ps, (s.agent t g).status = .stall ps → ps ≠ [] → x.trap = none →
        Answers (exec (.lsStallTimeout t g) s) (fun u => (u.teamOf t).status = (if x.atB then .atBoundary else .saved)
          ∧ (u.teamOf t).missing = (ps.filter (fun p => !s.pageIn p.1 p.2)).length ∧ (u.teamOf t).refill = ps
          ∧ ∀ e ∈ (u.coreOf x.core).ltt, e.team = t → e.shd = true ∨ s.pinned t e.vpage = true))

/-! ### Teams, traps and scheduling -/

/-- R323: the registers at launch. s0 of every group holds cr.param, sp the window size in bytes, every other uniform register
0; in a handler team s0 holds the trap record's address. Every lane is active at the entry. Beside that rule: the core's CT rises to the
team's own and to the commits of its predecessors' (R237, R342), and a handler runs with cr.sup (R335). The model's choices: a handler
team's group count and window size are its own kernel's (log entry 23), and its number is the next unused one (log entry 70).
Each of these completes, under conditions on the state and its operands alone: HANDLER_PLACE, TEAM_PLACE. -/
def Obligations.LaunchRegisters : Prop :=
  ∀ (t c : Nat) (s : State),
    let x := s.teamOf t
    let regs := fun (u : State) (k n entry s0 window : Nat) => (u.teamOf k).status = .placed ∧ (u.teamOf k).core = c ∧ ∀ a, a < n →
      (u.agent k a).status = .run ∧ (u.agent k a).active = BitVec.allOnes 32
        ∧ (∀ l, l < 32 → (u.agent k a).lanePc l = BitVec.ofNat 52 entry)
        ∧ ∀ r : SReg, (u.agent k a).getS r =
            if r.val = 0 then BitVec.ofNat 64 s0 else if r.val = 61 then BitVec.ofNat 64 window else 0
    (s.mayPlace t c = true → x.status = .queued → x.handles = none → x.late = [] →
        (s.allocate x.ctx (recSize x.lswin)).isSome = true →
        Answers (exec (.teamPlace t c) s) (fun u => regs u t x.ngrp x.kernel.entry x.param (x.lswin * 1024)
          ∧ (s.dev.rebase = false → (u.coreOf c).ct = Nat.max (s.coreOf c).ct (Nat.max (s.placeTime t) x.ct))
          ∧ ∀ v, v ≠ t → ∀ a, a < 32 → u.agent v a = s.agent v a))
      ∧ (∀ r k, x.trap = some r → (s.gridOf x.grid).hkernel = some k → x.status = .trapped → x.handles = none →
        (∀ u ∈ s.teamKeys, (s.teamOf u).handles = some t → (s.teamOf u).status = .ended ∨ (s.teamOf u).resumed = true) →
        (r.code = 0x0D → r.kind ≠ 0) → (s.gridOf x.grid).failing = none → s.coreOpen c = true → (s.coreOf c).l1next = [] →
        s.roundTurn c x.asid x.ctx.wt = true →
        let key := s.nextKey
        let s1 : State := { s.setTeamOf key (s.handlerTeam t k c key) with nextKey := key + 1 }
        s1.fits key c = true → (s1.allocate x.ctx (recSize k.lswin)).isSome = true → t ≠ key →
        Answers (exec (.handlerPlace t c) s) (fun u => regs u key k.groups k.entry x.trecVA (k.lswin * 1024)
          ∧ (u.teamOf key).handles = some t ∧ (u.teamOf key).sup = true ∧ (u.teamOf t).status = .trapped ∧ u.nextKey = key + 1))

/-- R73, R138, R332 to R335, R337, R338: a team that has trapped halts with its registers as they are, its record written where
its context keeps it, and its node fails if it has no handler; a handler that traps, or ends without a TRET, fails the node of
its team with the code that was recorded. A floating-point collection that closes, and a watchdog, which leaves a team in a hold
alone, report their traps. A misaligned access is emulated. A team whose groups have ended, with nothing outstanding, ends. The core
of the team runs (R251).
The model's choices: the record lies at recVA + 0x1000, where its header says (log entry 24); an emulation is one event (log entry 72);
a watchdog's record names the lowest group that has not ended (log entry 85).
Each of these completes, under conditions on the state and its operands alone: TEAM_END, TEAM_TRAP_HALT,
FP_TRAP_COLLECTION_CLOSE, MISALIGNED_EMULATION, WATCHDOG. -/
def Obligations.TeamsHaltAndEnd : Prop :=
  ∀ (t g : Nat) (s : State),
    let x := s.teamOf t
    let there := (Tab.find? s.grids x.grid).isSome = true
    let fails := fun (u : State) => there → (u.gridOf x.grid).failing ≠ none
    let failsAs := fun (u : State) (o : TrapInfo × Nat) => there → (s.gridOf x.grid).failing = none →
      (u.gridOf x.grid).failing = some (0, o.1.code, o.1.fva, o.2, x.rank)
    (∀ r, x.trap = some r → s.onCore t = true → x.handles = none →
        let s1 := s.saveTeam t .trapped
        let bytes := s.trapRecord t r
        let q := fun o => natLE ((bytes.drop o).take 8)
        Answers (exec (.teamTrapHalt t) s) (fun u => (u.teamOf t).status = .trapped ∧ (u.teamOf t).trap = some r
          ∧ (∀ a, a < 18 → let h := s.agent t a
              u.agent t a = { h with status := (u.agent t a).status, skid := (u.agent t a).skid, fpw := (u.agent t a).fpw
                                     xfer := (u.agent t a).xfer })
          ∧ (x.recVA ≠ 0 → (u.teamOf t).trecVA = x.recVA + 0x1000
            ∧ ∀ pa l, s1.mem.wf = true → (∀ i, i < bytes.length → s1.walk x.ctx.l1pa (x.recVA + 0x1000 + i) = some l
                ∧ l.phys (x.recVA + 0x1000 + i) = pa + i ∧ s1.homeGone (pa + i) = false) → u.mem.readN pa bytes.length = bytes)
          ∧ (r.code < 2 ^ 16 → q 0 % 2 ^ 16 = r.code) ∧ (r.fva < 2 ^ 64 → q 8 = r.fva)
          ∧ (∀ a l, a < x.ngrp → a < 16 → l < 32 → q (0x40 + 0x120 * a + 8 * l) = ((s.agent t a).lanePc l).toNat)
          ∧ ((s.gridOf x.grid).hkernel = none → fails u)))
      ∧ (∀ r v o, x.trap = some r → s.onCore t = true → x.handles = some v → x.orig = some o →
        Answers (exec (.teamTrapHalt t) s) (fun u => (u.teamOf t).status = .ended ∧ failsAs u o))
      ∧ (s.windowCloses t g = true → s.onCore t = true → x.trap = none → g < 16 →
        Answers (exec (.fpTrapCollectionClose t g) s) (fun u => u = { s with groups := u.groups, teams := u.teams }
          ∧ u.agent t g = { s.agent t g with status := .trapped } ∧ (∀ v, v ≠ t → u.teamOf v = s.teamOf v)
          ∧ u.teamOf t = { x with trap := some { code := 0x07, kind := 3, agent := g, fva := 0, svc := 0 } }))
      ∧ (s.dev.wdog ≠ 0 → s.onCore t = true → x.trap = none → s.inHold t = false →
        Answers (exec (.watchdog t) s) (fun u => u = { s with teams := u.teams } ∧ (∀ v, v ≠ t → u.teamOf v = s.teamOf v)
          ∧ u.teamOf t = { x with trap := some { code := 0x0E, kind := 4, agent := (s.liveGroups t).headD 0, fva := 0, svc := 0 } }))
      ∧ (∀ (d a : SReg) (w : Sys2Proof.USize) (o : BitVec 11),
        let h := s.agent t g
        let va := h.uniAddr a w o
        h.status = .emul → s.onCore t = true → s.fetch t g = .instr (.ldls d a w o) → (∀ p ∈ h.stores, p.target = .global) →
        s.nextGranules t g = [] → (∀ e ∈ x.lsBad, e < va ∨ va + usizeBytes w ≤ e) →
        (∀ j, j < usizeBytes w → va + j < x.window ∧ s.pageIn t ((va + j) / 2048) = true) →
        Answers (exec (.misalignedEmulation t g) s) (fun u => SameMem s u ∧ u.teams = s.teams ∧ PcsAdvance h (u.agent t g)
          ∧ (u.agent t g).status = .run ∧ (∀ r, r ≠ d → (u.agent t g).getS r = h.getS r)
          ∧ (u.agent t g).getS d = if d.val = 63 then 0 else
              BitVec.ofNat 64 (natLE ((List.range (usizeBytes w)).map (fun j => x.ls.read (va + j))))))
      ∧ (s.mayEnd t = true → ((s.gridOf x.grid).failing = none ∨ x.handles ≠ none) → (∀ a ∈ x.agents, (s.agent t a).stores = []) →
        x.unpub = [] → x.pubs = [] → x.pubTrap = none → s.allQuiet t = true →
        Answers (exec (.teamEnd t) s) (fun u => SameMem s u ∧ (u.teamOf t).status = .ended ∧ (u.teamOf t).ls = []
          ∧ (∀ h, (u.teamOf t).count h = 0) ∧ (u.coreOf x.core).holder ≠ some t
          ∧ (∀ e ∈ (u.coreOf x.core).ltt, e.team ≠ t) ∧ (∀ k ∈ (u.coreOf x.core).copies, t ∉ k.stable)
          ∧ (x.handles = none → x.rank ∈ (u.gridOf x.grid).ended)
          ∧ ∀ o, x.handles ≠ none → x.resumed = false → x.orig = some o → failsAs u o))

/-- R237, R263, R269, R270, R322, R327, R328, R330, R340, R356: a team that is placed again brings its stable copies and raises its
core's CT to its own; a cluster comes back whole, and a page list that a restore does not accept fails the node (the cause is the
model's choice, log entry 62). A request drains a team at its next boundary, saves it where it stands or flushes it to its restart
point, barrier counts included; a drain that takes too long becomes a save. A new split of a core waits until every resident team is
held at a boundary and no frame that changes sides is pinned, by an engine or by a write that is on its way. A
core that leaves service saves its teams. Half of the teams that may be stolen, nearest the tail, go to an idle neighbour.
Each of these completes, under conditions on the state and its operands alone: TEAM_PLACE, QUANT_EXPIRY,
PREEMPT_SCHEDULER_CHOICE, PREEMPT_DRAIN, PREEMPT_SAVE, PREEMPT_FLUSH, DRAIN_LIMIT_EXPIRY, CARVE_OUT_CHANGE,
CARVE_OUT_TIMEOUT, CORE_RETIRE, CORE_RETURN, TEAM_STEAL. -/
def Obligations.TeamsAreScheduled : Prop :=
  (∀ (t c : Nat) (s : State),
    let x := s.teamOf t
    (s.mayPlace t c = true → s.stranded t = false → x.status ≠ .queued →
        (s.placedWith t = [t] → s.badPages t c = false →
          Answers (exec (.teamPlace t c) s) (fun u => (u.teamOf t).status = .placed ∧ (u.teamOf t).core = c
            ∧ (u.teamOf t).missing = 0 ∧ (u.teamOf t).request = none
            ∧ (x.late = [] → (∀ a ∈ x.agents, (∀ o ∈ (s.agent t a).outs, o.bad = []) ∧ ∀ b, (s.agent t a).status = .remote b → b = []) →
              u.groups = s.groups)
            ∧ (s.dev.rebase = false → x.core = c ∨ u.dev.rebase = false →
              (u.coreOf c).ct = Nat.max (s.coreOf c).ct (Nat.max (s.placeTime t) x.ct))
            ∧ ∀ k ∈ x.kept, { k with latest := false, stable := [t] } ∈ (u.coreOf c).copies))
          ∧ (s.placedWith t = [t] → s.badPages t c = true → (Tab.find? s.grids x.grid).isSome = true →
            (s.gridOf x.grid).failing = none → Answers (exec (.teamPlace t c) s) (fun u =>
              (u.gridOf x.grid).failing = some (2, 0x0D, 0, 0, x.rank) ∧ u.teams = s.teams ∧ u.groups = s.groups))
          ∧ ((∀ us v vs, s.placedWith t = us ++ v :: vs →
              (us.foldl (fun z u => z.placeTeam u (s.coreBy t u c)) s).badPages v (s.coreBy t v c) = false) →
            Answers (exec (.teamPlace t c) s) (fun u => ∀ v ∈ s.placedWith t,
              (u.teamOf v).status = .placed ∧ (u.teamOf v).core = s.coreBy t v c)))
      ∧ (∀ v, x.status = .queued → t ∈ (s.coreOf x.core).queue → s.oldestForeign x.core x.asid = some v → (s.teamOf v).trap = none →
        s.dieLive (dieOf x.core) = true →
        Answers (exec (.quantExpiry t) s) (fun u => (u.teamOf v).status ≠ .placed ∨ (u.teamOf v).request ≠ none))
      ∧ (x.request = some 1 → s.boundaryBegun t = false → s.onCore t = true → x.trap = none →
        Answers (exec (.drainLimitExpiry t) s) (fun u => (u.teamOf t).status = (if x.atB then .atBoundary else .saved)
          ∧ (u.teamOf t).request = none
          ∧ ∀ v a, u.agent v a = if agentKey v a ∈ x.agents.map (agentKey t) then
              { s.agent v a with status := (s.agent v a).status.resumed, skid := 0, xfer := [] } else s.agent v a)))
    ∧ (∀ (asid node t : Nat) (s : State), t ∈ s.namedTeams asid node → (s.teamOf t).trap = none →
      s.dieLive (dieOf (s.teamOf t).core) = true →
      let x := s.teamOf t
      Answers (exec (.preemptSchedulerChoice asid node) s) (fun u => (u.teamOf t).status ≠ .placed ∨ (u.teamOf t).request ≠ none)
        ∧ (s.sideRuns t = false → x.atB = false →
          Answers (exec (.preemptDrain asid node) s) (fun u => (u.teamOf t).status = .placed ∧ (u.teamOf t).request = some 1))
        ∧ (s.boundaryBegun t = false → x.atB = false → Answers (exec (.preemptSave asid node) s) (fun u => (u.teamOf t).status = .saved))
        ∧ (x.atB = true → Answers (exec (.preemptSave asid node) s) (fun u => (u.teamOf t).status = .atBoundary))
        ∧ (s.boundaryBegun t = true → x.atB = false → Answers (exec (.preemptSave asid node) s) (fun u => (u.teamOf t).request = some 2))
        ∧ (∀ l, s.boundaryBegun t = false → x.atB = false → s.mayFlush t = true → s.namedTeams asid node = [t] → x.restart = some l → (l.map (·.1)).Nodup →
          Answers (exec (.preemptFlush asid node) s) (fun u => (u.teamOf t).status = .atBoundary ∧ (u.teamOf t).unpub = []
            ∧ (u.teamOf t).atB = true ∧ (∀ h, (u.teamOf t).count h = Nat.min 65535 (vget 0 x.restHb h.val))
            ∧ ∀ p ∈ l, u.agent t p.1 = p.2)))
    ∧ (∀ (c : Nat) (s : State),
      s.dieLive (dieOf c) = true →
      let goes := fun (u : State) => ∀ t ∈ s.residents c, (s.teamOf t).trap = none → s.boundaryBegun t = false →
        (s.teamOf t).atB = false → (u.teamOf t).status = .saved
      (∀ n l, (s.coreOf c).l1next = n :: l → (∀ e ∈ (s.coreOf c).ltt, e.shd = false) →
          let stand := ∀ t ∈ s.residents c, (s.teamOf t).atB = true
          let free := ∀ e ∈ s.changing c n, s.pinned e.team e.vpage = false ∧ s.targeted e.team e.vpage = false
          (stand → s.changing c n = [] → Answers (exec (.carveOutChange c) s) (fun u => u = { s with cores := u.cores }
            ∧ u.coreOf c = { s.coreOf c with l1 := n, l1next := l, copies := [] } ∧ ∀ k, k ≠ c → u.coreOf k = s.coreOf k))
          ∧ (stand → free → Answers (exec (.carveOutChange c) s) (fun u => (u.coreOf c).l1 = n ∧ (u.coreOf c).l1next = l
            ∧ (u.coreOf c).copies = [] ∧ (∀ e ∈ (u.coreOf c).ltt, l1Frames n ≤ e.frame) ∧ u.groups = s.groups
            ∧ ∀ t ∈ s.residents c, (u.teamOf t).status = .placed))
          ∧ (¬ (stand ∧ free) → exec (.carveOutChange c) s = .next s)
          ∧ Answers (exec (.carveOutTimeout c) s) goes)
        ∧ (s.inService c = false → Answers (exec (.coreRetire c) s) (fun u => goes u
            ∧ ∀ t ∈ s.residents c, (s.teamOf t).trap = none → (s.teamOf t).atB = true → (u.teamOf t).status = .atBoundary))
        ∧ (s.inService c = true → c < 288 → Answers (exec (.coreReturn c) s) (fun u => u = { s with cores := u.cores }
          ∧ (Tab.find? u.cores c).isSome = true ∧ ∀ k, (u.coreOf k).ct = (s.coreOf k).ct ∧ (u.coreOf k).copies = (s.coreOf k).copies)))
    ∧ ∀ (thief victim : Nat) (s : State),
      let q := (s.coreOf victim).queue
      let m := q.filter s.stealable
      let take := m.drop (m.length / 2)
      s.coreOpen thief = true → neighbours thief victim = true → (s.coreOf thief).queue = [] → s.residents thief = [] → m ≠ [] →
      Answers (exec (.teamSteal thief victim) s) (fun u => (u.coreOf thief).queue = take
        ∧ (u.coreOf victim).queue = q.filter (fun t => !take.contains t)
        ∧ (∀ t ∈ take, u.teamOf t = { s.teamOf t with core := thief }) ∧ (∀ t, t ∉ take → u.teamOf t = s.teamOf t)
        ∧ SameMem s u ∧ u.groups = s.groups)

/-! ### The graph engine -/

/-- R315, R342 to R347, R349, R352 to R354, R357, R364, R365: the engine takes a filled slot with its graph; once the records have been
read, an accepted graph becomes active with its READY nodes in the pool, and a refused one is over. LAUNCH fires a node in WAIT, NTOK
lowers a token count and fires at 0, and a request that finds neither is counted as
ignored. A dispatched node is RUN, with a grid of its attempt whose teams are queued by rank on the cores of their rectangles. A
commit publishes the shadows, makes the node DONE and takes a token of every successor. A failure raises the attempt count and
the cancel generation, cancels the cone, and retries while the budget lasts. A quiet graph ends and publishes its end word. A
descriptor at an address where no memory stands is a fault. Of this the following is the model's choice: that fault (log entry 67);
the bytes that a commit publishes, those of its declarations (log entry 38); a failure's steps as turns of their own, and the numbers of
graphs (log entry 56); that graphs whose records are still being read count towards the 1,024 (log entry 57); the numbers of teams and
grids (log entry 70).
Each of these completes, under conditions on the state and its operands alone: GRAPH_SUBMIT, LAUNCH_REQUEST, NTOK_REQUEST,
NODE_DISPATCH, NODE_COMMIT, NODE_FAIL, GRAPH_END. -/
def Obligations.GraphsRun : Prop :=
  (∀ (asid : Nat) (c : Context) (slot ridx : Nat) (pkt : List DWord) (s : State),
    let gi := s.graphs.length
    s.contextThere asid = true → s.submitting asid = [] → s.readContext asid = some c → s.pollHeld asid c.crt = [] →
    s.nextSlot asid c.crt = some (slot, ridx, pkt) → (s.graphs.filter (·.live)).length < 1024 →
    s.ownWaits asid c.l1pa [c.crt, slot] [] = none →
    Answers (exec (.graphSubmit asid) s) (fun u => u.graphs.length = gi + 1 ∧ u.ready = s.ready ∧ u.groups = s.groups
      ∧ (u.graphAt gi).sub = some pkt ∧ (u.graphAt gi).live = true ∧ (u.graphAt gi).ctx = c ∧ (u.graphAt gi).asid = c.asid
      ∧ (u.graphAt gi).ntab = pq pkt 1 ∧ (u.graphAt gi).nodes = []))
    ∧ (∀ (asid gi : Nat) (pkt : List DWord) (s : State),
      let c := (s.graphAt gi).ctx
      let G := fun rs => graphOf c pkt rs
      let nodes := s.readNodes (3 + gi) c (pq pkt 1) (List.range (pq pkt 0 / 2 ^ 32))
      s.contextThere asid = true → s.submitting asid = [(gi, pkt)] →
      (∀ rs, slotOk pkt = true → nodes = .inl rs → graphFault rs (bitOf (pq pkt 0) 8) = none →
          Answers (exec (.graphSubmit asid) s) (fun u => u.groups = s.groups ∧ u.graphs.length = s.graphs.length
            ∧ u.graphAt gi = G rs ∧ ∀ i, i < rs.length → ((G rs).node i).state = 1 → (gi, i) ∈ u.ready))
        ∧ (s.ownWaits c.asid c.l1pa [pq pkt 4] [] = none →
          (slotOk pkt = false ∨ slotOk pkt = true ∧ ∃ rs f, nodes = .inl rs ∧ graphFault rs (bitOf (pq pkt 0) 8) = some f) →
          Answers (exec (.graphSubmit asid) s) (fun u => u.groups = s.groups ∧ u.graphs.length = s.graphs.length
            ∧ u.graphAt gi = { s.graphAt gi with live := false, sub := none } ∧ u.ready = s.ready)))
    ∧ (∀ (asid gi node : Nat) (place : List Nat) (s : State), s.contextThere asid = false →
      exec (.graphSubmit asid) s = .fault .noPhysicalMemory
        ∧ (s.poolPick = some (gi, node) → (s.graphAt gi).asid = asid →
          exec (.nodeDispatch gi node place) s = .fault .noPhysicalMemory))
    ∧ (∀ (n asid va sender gi i : Nat) (launch : Bool) (s : State),
      let ev : Instr := if launch then .launchRequest n else .ntokRequest n
      let x := s.nodeAt gi i
      let ignored := fun (u : State) => u.net.graphRq = s.net.graphRq.eraseIdx n ∧ u.nodeAt gi i = x
        ∧ (u.graphAt gi).ign = Nat.min ((s.graphAt gi).ign + 1) 16777215 ∧ u.ready = s.ready ∧ SameMem s u
      let fired := fun (u : State) => u.net.graphRq = s.net.graphRq.eraseIdx n ∧ (u.nodeAt gi i).state = 1
        ∧ (u.nodeAt gi i).tokens = 0 ∧ (gi, i) ∈ u.ready
      s.net.graphRq[n]? = some (launch, asid, va, sender) → s.recordAt asid va = some (gi, i) →
      (launch = true → x.state ≠ 0 → Answers (exec ev s) ignored)
        ∧ (launch = false → x.tokens = 0 → Answers (exec ev s) ignored)
        ∧ (s.graphWaits gi [] = none →
          (launch = true → x.state = 0 → Answers (exec ev s) fired)
            ∧ (launch = false → x.tokens = 1 → x.state = 0 → Answers (exec ev s) fired)
            ∧ (launch = false → x.tokens ≠ 0 → (x.tokens = 1 → x.state ≠ 0) → Answers (exec ev s) (fun u =>
              u.net.graphRq = s.net.graphRq.eraseIdx n ∧ (u.nodeAt gi i).tokens = x.tokens - 1
                ∧ (u.nodeAt gi i).state = x.state))))
    ∧ (∀ (gi node spill : Nat) (place os : List Nat) (c : Context) (hk : Option Kernel) (s : State),
      let g := s.graphAt gi
      let n := g.node node
      let gr := s.nextKey
      s.poolPick = some (gi, node) → gi < s.graphs.length → node < g.nodes.length → s.contextThere g.asid = true →
      s.graphWaits gi [] = none → s.readLaunch g.asid = .ok c hk → s.places n.w n.h place (n.teams / (n.w * n.h)) = some os →
      s.allocate c 0x200000 = some spill →
      Answers (exec (.nodeDispatch gi node place) s) (fun u => (u.nodeAt gi node).state = 2 ∧ (gi, node) ∉ u.ready
        ∧ u.gridOf gr = gridFor g gi node n c hk spill ∧ u.nextKey = gr + 1 + n.teams ∧ u.groups = s.groups
        ∧ ∀ r, r < n.teams →
          let t := u.teamOf (gr + 1 + r)
          let m := n.w * n.h
          t.status = .queued ∧ t.grid = gr ∧ t.rank = r ∧ t.ngrp = n.groups ∧ t.param = n.params ∧ t.asid = c.asid
            ∧ t.core = os.getD (r / m) 0 + 12 * (r % m / n.w) + r % m % n.w ∧ (gr + 1 + r) ∈ (u.coreOf t.core).queue))
    ∧ (∀ (gr : Nat) (s : State),
      let g := s.gridOf gr
      let G := s.graphAt g.gi
      let x := s.nodeAt g.gi g.node
      g.gi < s.graphs.length → g.node < G.nodes.length →
      (s.mayCommit gr = true → s.graphWaits g.gi (s.commitHeld gr) = none → (s.deferredOf gr).findSome? s.deferredWaits = none →
          Answers (exec (.nodeCommit gr) s) (fun u => (u.nodeAt g.gi g.node).state = 3 ∧ Tab.find? u.grids gr = none
            ∧ ∀ i, i ≠ g.node → i < G.nodes.length → x.succ.count i = 1 →
              let y := s.nodeAt g.gi i
              (y.tokens = 1 → y.state = 0 → (u.nodeAt g.gi i).state = 1 ∧ (u.nodeAt g.gi i).tokens = 0)
                ∧ (2 ≤ y.tokens → (u.nodeAt g.gi i).state = y.state ∧ (u.nodeAt g.gi i).tokens = y.tokens - 1)))
        ∧ (s.mem.wf = true → (∀ b ∈ g.shadowBytes, ∃ l, s.walk g.ctx.l1pa b.1 = some l ∧ s.homeGone (l.phys b.1) = false) →
          let at_ := g.shadowBytes.filterMap (fun b => (s.walk g.ctx.l1pa b.1).map (fun l => (l.phys b.1, b.2)))
          ∀ pa, (s.commitShadows gr).1.mem.read pa = (pairAt at_.reverse pa).getD (s.mem.read pa))
        ∧ (∀ f, g.failing = some f → s.graphWaits g.gi [] = none →
          let again := x.attempts < 15 ∧ x.attempts + 1 ≤ x.budget
          Answers (exec (.nodeFail gr) s) (fun u =>
            let y := u.nodeAt g.gi g.node
            Tab.find? u.grids gr = none ∧ y.attempts = Nat.min 15 (x.attempts + 1) ∧ y.cgen = (x.cgen + 1) % 2 ^ 32
              ∧ y.state = 4 ∧ (∀ i, i ≠ g.node → { u.nodeAt g.gi i with predW := 0 } = { s.nodeAt g.gi i with predW := 0 })
              ∧ (u.graphAt g.gi).fails = G.fails ++ [{ node := g.node, cone := G.cone g.node, back := G.cone g.node
                                                       retry := decide again, begun := false }])))
    ∧ (∀ (gi n : Nat) (x : Failing) (s : State),
      let G := s.graphAt gi
      let u := s.failureStep gi n
      gi < s.graphs.length → G.fails[n]? = some x → s.graphWaits gi [] = none → x.node < G.nodes.length →
      (∀ i l, x.cone = i :: l → i < G.nodes.length → (u.graphAt gi).fails[n]? = some { x with cone := l }
          ∧ ((G.node i).state ≤ 2 → (u.nodeAt gi i).state = 5 ∧ (u.nodeAt gi i).cgen = ((G.node i).cgen + 1) % 2 ^ 32
            ∧ ((G.node i).state ≤ 1 → (gi, i) ∉ u.ready))
          ∧ (3 ≤ (G.node i).state → u.nodeAt gi i = s.nodeAt gi i))
        ∧ (x.cone = [] → x.retry = false → (u.graphAt gi).fails = G.fails.eraseIdx n ∧ SameMem s u ∧ ∀ i, u.nodeAt gi i = s.nodeAt gi i)
        ∧ (x.cone = [] → x.retry = true → x.begun = false → (u.nodeAt gi x.node).state = 6)
        ∧ (x.cone = [] → x.retry = true → x.begun = true →
          (∀ i l, x.back = i :: l → i < G.nodes.length → (G.node i).state = 5 → (G.node i).byFail = some x.node →
              let k := (G.node i).otok - G.doneInto i
              (u.nodeAt gi i).tokens = k ∧ (u.nodeAt gi i).state = (if k = 0 then 1 else 0))
            ∧ (x.back = [] → (u.nodeAt gi x.node).state = 1 ∧ (u.nodeAt gi x.node).tokens = 0 ∧ (gi, x.node) ∈ u.ready
              ∧ (u.graphAt gi).fails = G.fails.eraseIdx n)))
    ∧ ∀ (gi : Nat) (s : State),
      let g := s.graphAt gi
      s.graphQuiet gi = true → s.graphWaits gi [] = none →
      Answers (exec (.graphEnd gi) s) (fun u => (u.graphAt gi).live = false ∧ u.groups = s.groups
        ∧ (g.endva = 0 → SameMem s u)
        ∧ ∀ l, g.endva ≠ 0 → s.mem.wf = true → l.attr ≠ .remote → l.rs = true →
            (∀ j, j < 8 → s.walk g.ctx.l1pa (g.endva + j) = some l ∧ l.phys (g.endva + j) = l.phys g.endva + j
              ∧ s.homeGone (l.phys g.endva + j) = false) →
            ((∀ n ∈ g.nodes, n.state = 3) → g.ign < 2 ^ 24 →
                u.quadAt (l.phys g.endva) = g.ign * 2 ^ 32 + 0xFFFFFFFF)
              ∧ ∀ i, i < g.nodes.length → (g.node i).state = 4 → (∀ j, j < i → (g.node j).state ≠ 4) → g.ign < 2 ^ 24 → i < 2 ^ 32 →
                u.quadAt (l.phys g.endva) = 2 ^ 62 + g.ign * 2 ^ 32 + i)

/-! ### Power, reset and the side-band port -/

/-- R249, R251, R339, R387, R393, R394: a partition that cocoons halts its teams where they stand and frees its cores; coming back to
a die that works, its
teams go on with the CTs they had, answers that were held for them being delivered. A die that is gated saves its teams first and loses
its copies and CTs; in D3hot no team runs, every one is saved, and both meshes have lost their copies and CTs. BAR0 takes GATE only
where the device has its firmware, power and D0, and the host link works; nothing is saved off the cores of a die that has fenced
itself (R251). That a team at a begun boundary, or one that a trap is halting, leaves before D3hot is
entered is the model's choice (log entry 87).
Each of these completes, under conditions on the state and its operands alone: COCOON_OUT, COCOON_IN, GATE_DIE,
UNGATE_DIE, D3HOT_ENTRY, D0_RETURN. -/
def Obligations.PowerStatesKeepTeams : Prop :=
  ∀ (s : State),
    let saved := fun (u : State) (l : List Nat) => ∀ t ∈ l, (u.teamOf t).status = .saved
    let may := fun (t : Nat) => (s.teamOf t).trap = none ∧ (s.teamOf t).begun = none ∧ (s.teamOf t).atB = false
      ∧ s.dieLive (dieOf (s.teamOf t).core) = true
    let bare := fun (u : State) (d : Nat) => ∀ c, c < 288 → dieOf c = d → (u.coreOf c).ct = 0 ∧ (u.coreOf c).copies = []
    (∀ p : Fin 8,
      let X := s.dieAt (p.val / 4)
      (s.nextOut p.val = some (p.val, false) → X.gated = false → X.alive = true → X.fenced = false → X.cocoon = none →
          (∀ c ∈ partCores p.val, ∀ t ∈ s.residents c, (s.teamOf t).trap = none ∧ (s.teamOf t).forced = false
            ∧ (s.teamOf t).ovf.length + (s.cocoonLines t).length ≤ 4096) →
          Answers (exec (.cocoonOut p) s) (fun u => (u.dieAt (p.val / 4)).cocoon = some p.val
            ∧ (let inside := fun (x : Nat) => ∃ c ∈ partCores p.val, x ∈ s.residents c
              let kin := fun (x : Nat) => ∃ t, inside t ∧ x ∈ s.clusterOf t
              ((∀ x, kin x → inside x) → u.groups = s.groups)
                ∧ ∀ x, kin x → ¬ inside x → (s.teamOf x).status = .placed → may x → (u.teamOf x).status = .saved)
            ∧ u.dev.moves = s.dev.moves.erase (p.val, false)
            ∧ (∀ c ∈ partCores p.val, (∀ t ∈ s.residents c, (u.teamOf t).status = .cocooned)
              ∧ (u.coreOf c).copies = [] ∧ (u.coreOf c).ltt = [] ∧ (u.coreOf c).holder = none)))
        ∧ (s.inAsked p.val = true → X.cocoon = some p.val → s.dieLive (p.val / 4) = true → (∀ c ∈ partCores p.val, s.residents c = []) →
          Answers (exec (.cocoonIn p) s) (fun u => (u.dieAt (p.val / 4)).cocoon = none
            ∧ u.dev.moves = s.dev.moves.erase (p.val, true)
            ∧ (∀ t ∈ s.teamKeys, (s.teamOf t).status = .cocooned → (s.teamOf t).core ∈ partCores p.val →
                (u.teamOf t).status = .placed)
            ∧ ((∀ r ∈ s.net.remote, r.ans = none) → u.groups = s.groups
              ∧ ∀ c ∈ partCores p.val, ∀ k, Tab.find? s.cores (cocoonKey c) = some k →
                  (u.coreOf c).ct = k.ct ∧ (u.coreOf c).ltt = k.ltt))))
      ∧ (∀ d : Fin 2,
        let X := s.dieAt d.val
        (s.barOpen = true → s.gateAsked (1 - d.val) = false → X.gated = false → X.alive = true → X.cocoon = none →
            (∀ m ∈ s.dev.moves, m.1 / 4 ≠ d.val) → (∀ t ∈ s.onDie d.val, may t) →
            Answers (exec (.gateDie d) s) (fun u => (u.dieAt d.val).gated = true ∧ u.dev.gate.getLsbD d.val = true
              ∧ bare u d.val ∧ saved u (s.onDie d.val)))
          ∧ (s.barOpen = true → Answers (exec (.ungateDie d) s) (fun u => u.dev.gate.getLsbD d.val = false
              ∧ (∀ i, i < 64 → i ≠ d.val → u.dev.gate.getLsbD i = s.dev.gate.getLsbD i)
              ∧ (X.gated = true → (u.dieAt d.val).gated = false ∧ bare u d.val)
              ∧ SameMem s u ∧ u.groups = s.groups ∧ u.teams = s.teams))
          ∧ (s.barOpen = false → exec (.gateDie d) s = .next s ∧ exec (.ungateDie d) s = .next s))
      ∧ (s.barOpen = true →
        Answers (exec .d3hotEntry s) (fun u =>
          (∀ t ∈ s.teamKeys, (s.teamOf t).status = .placed → may t → (u.teamOf t).status = .saved)
            ∧ ((∀ t ∈ s.teamKeys, (s.teamOf t).status = .placed → may t) → u.dev.d3 = true ∧ bare u 0 ∧ bare u 1)))
      ∧ (s.dev.d3 = true → Answers (exec .d0Return s) (fun u => u.dev = { s.dev with d3 := false } ∧ SameMem s u
          ∧ u.groups = s.groups ∧ u.teams = s.teams ∧ bare u 0 ∧ bare u 1))

/-- R375, R388, R390, R393, R395 to R401: a reset, and the loss of all but auxiliary power, leave no program state and keep what
is non-volatile, and host memory; a reset boots the slot whose signature and version pass, the one to be tried first, and comes up with
the next incarnation; where no image boots, rdy stays 0 and no link is up, but lifecycle and debug level are those that were set.
BAR0_REGISTER_WRITE is the row of the registers that have no row of their own: these take a legal write and ignore another, and an offset
without a writable register ignores every write; writes of GATE (0x20) and DIERST (0x30) are the rows GATE_DIE, UNGATE_DIE and DIE_RESET.
The side-band port sets limits, answers, and changes lifecycle, debug level and firmware as of the next reset; a sensor of a link reads
what the link's state gives. Debug access reads and writes memory within its reach, what it reads with its poison, and what it writes
taken from the host first; it
halts teams, under full reach supervisors too; firmware memory reads as it was written (R251: it halts no team on a fenced die).
Of this the following is the model's choice: the values that a reset leaves where the manual gives none (log entry 6), the output that
is kept (log entry 54), the numbers of the firmware slots and images, and what a device that boots no image keeps (log entry 53), that an
illegal write of BAR0 is ignored (log entry 64), and the values that sensors, measurements and firmware memory show (log entry 55).
Each of these completes, under conditions on the state and its operands alone: BAR0_REGISTER_WRITE, AUXILIARY_POWER_ONLY,
MODULE_RESET, POWER_LIMIT_SET, PLDM_BASE_DISCOVERY, PLDM_MONITORING, PLDM_FIRMWARE_UPDATE, GET_MEASUREMENTS,
RMA_ENTRY_REQUEST, DEBUG_LEVEL_REQUEST, DEBUG_ACCESS, SPDM_SECURED_SESSION. -/
def Obligations.ResetsAndManagement : Prop :=
  ∀ (s : State),
    let x := s.dev.trust
    let halted := fun (u : State) => u.groups = [] ∧ u.teams = [] ∧ u.cores = [] ∧ u.grids = [] ∧ u.graphs = [] ∧ u.ready = []
      ∧ u.net = Net.empty ∧ u.agenda = []
    let blank := fun (u : State) => halted u ∧ u.mem = s.hostMem ∧ u.lines = [] ∧ u.memPoison = []
    let dev := fun (o : Out) (d : Dev) => Answers o (fun u => u = { s with dev := d })
    let trust := fun (o : Out) (y : Trust) => dev o { s.dev with trust := y }
    let shows := fun (o : Out) (y : Output) => dev o { s.dev with out := s.dev.out ++ [y] }
    (∀ a b : Bool,
      let first := if x.pending then !x.active else x.active
      let version := fun (y : Bool) => if y then x.verB else x.verA
      let good := fun (y : Bool) => (if y then b else a) = true ∧ x.rollback ≤ version y
      let boots := fun (y : Bool) => Answers (exec (.moduleReset a b) s) (fun u => blank u
        ∧ u.dev = { Dev.reset with out := s.dev.out, devinc := if s.dev.devinc = 65535 then 1 else s.dev.devinc + 1
                                   trust := { x with session := false, written := [], active := y, rollback := Nat.max x.rollback (version y)
                                                     pending := false, lc := x.lcNext, dbg := x.dbgNext } })
      (good first → boots first) ∧ (¬ good first → good (!first) → boots (!first))
        ∧ (¬ good first → ¬ good (!first) → Answers (exec (.moduleReset a b) s) (fun u => halted u
          ∧ (x.lc = x.lcNext → u.mem = s.mem ∧ u.lines = s.lines) ∧ (x.lc ≠ x.lcNext → blank u)
          ∧ u.dev.rdy = false ∧ u.dev.hostUp = false ∧ (∀ j, j < 8 → u.stationUp j = false)
          ∧ u.dev.trust = { x with session := false, written := [], lc := x.lcNext, dbg := x.dbgNext }
          ∧ u.dev.out = s.dev.out ++ [.bootFailure])))
      ∧ Answers (exec .auxiliaryPowerOnly s) (fun u => blank u
          ∧ u.dev = { Dev.reset with power := false, rdy := false, hostUp := false, devinc := s.dev.devinc, out := s.dev.out
                                     trust := { x with session := false, written := [] } })
      ∧ (∀ (off : Nat) (val : DWord),
        let n := val.toNat
        let w := fun (d : Dev) => dev (exec (.bar0RegisterWrite off val) s) d
        (s.barOpen = false → w s.dev) ∧ (s.barOpen = true →
        (off = 0x10 → (n % 2 ^ 16 = 0 ∧ n < 2 ^ 52 → w { s.dev with ctxtab := val }) ∧ (¬ (n % 2 ^ 16 = 0 ∧ n < 2 ^ 52) → w s.dev))
          ∧ (off = 0x18 → (n / 2 % 2 ^ 12 = 0 ∧ n < 2 ^ 52 → w { s.dev with expbase := val })
            ∧ (¬ (n / 2 % 2 ^ 12 = 0 ∧ n < 2 ^ 52) → w s.dev))
          ∧ (off = 0x38 → (n < 2 ^ 19 → (∀ j, j < 8 → s.stationUp j = false) → w { s.dev with dom := n / 2 ^ 10 % 2 ^ 9 })
            ∧ ((2 ^ 19 ≤ n ∨ ∃ j, j < 8 ∧ s.stationUp j = true) → w s.dev))
          ∧ (off ≠ 0x10 → off ≠ 0x18 → off ≠ 0x20 → off ≠ 0x30 → off ≠ 0x38 → w s.dev)))
      ∧ (∀ watts, (1200 ≤ watts → watts ≤ 3000 → dev (exec (.powerLimitSet watts) s) { s.dev with watts := watts })
          ∧ (watts < 1200 ∨ 3000 < watts → dev (exec (.powerLimitSet watts) s) s.dev))
      ∧ shows (exec .pldmBaseDiscovery s) (.discovery [0, 2, 5])
      ∧ (∀ id, (∀ l, Config.linkSensor id = some l →
            shows (exec (.pldmMonitoring id) s) (.sensor id (Config.linkReading id (s.linkState l))))
          ∧ (Config.linkSensor id = none → Answers (exec (.pldmMonitoring id) s) (fun u =>
            (∃ v, u.dev = { s.dev with out := s.dev.out ++ [.sensor id v] }) ∧ u = { s with dev := u.dev, fresh := u.fresh })))
      ∧ (∀ version valid,
        let p := valid && decide (x.rollback ≤ version)
        Answers (exec (.pldmFirmwareUpdate version valid) s) (fun u => ∃ img, u = { s with
          fresh := u.fresh
          dev := { s.dev with trust := if x.active then { x with verA := version, imgA := img, pending := p }
                                       else { x with verB := version, imgB := img, pending := p } } }))
      ∧ (let img := if x.active then x.imgB else x.imgA
        shows (exec .getMeasurements s) (.measurements
          [Config.romDigest, Config.imageDigest img, Config.configDigest img, Config.levelDigest x.lc x.dbg] (Config.identityChain x.lc)))
      ∧ trust (exec .spdmSecuredSession s) { x with session := true }
      ∧ trust (exec (.rmaEntryRequest true) s) { x with lcNext := 1 } ∧ dev (exec (.rmaEntryRequest false) s) s.dev
      ∧ (∀ level : Fin 3, trust (exec (.debugLevelRequest level true) s) { x with dbgNext := level.val }
          ∧ trust (exec (.debugLevelRequest level false) s) { x with dbgNext := 0 })
      ∧ (∀ acc, (x.session = false ∨ x.dbg = 0) → exec (.debugAccess acc) s = .next s)
      ∧ (∀ asid node, s.debugReach ≠ 0 → (s.debugReach = 1 → s.plainContext asid = true) → s.dev.d3 = false → s.dev.power = true →
        Answers (exec (.debugAccess (.halt asid node)) s) (fun u => ∀ t ∈ s.teamKeys,
          let y := s.teamOf t
          y.asid = asid → y.node = node → y.status = .placed → (y.sup = false ∨ s.debugReach = 2) →
          y.trap = none → y.begun = none → y.atB = false → s.dieLive (dieOf y.core) = true → (u.teamOf t).status = .saved))
      ∧ (∀ (a n : Nat) (bs : List Byte), s.debugReach = 2 →
        (s.dev.power = true → Answers (exec (.debugAccess (.firmwareRead a n)) s) (fun u => ∃ b : List Byte, b.length = n
              ∧ (∀ i y, i < n → Tab.find? x.written (a + i) = some y → b.getD i 0 = y)
              ∧ u = { s with fresh := u.fresh, dev := { s.dev with out := s.dev.out ++ [.debugData b false] } })
            ∧ Answers (exec (.debugAccess (.firmwareWrite a bs)) s) (fun u => ∃ w,
              u = { s with dev := { s.dev with trust := { x with written := w } } }
              ∧ ∀ i, Tab.find? w i = if a ≤ i ∧ i < a + bs.length then some (bs.getD (i - a) 0) else Tab.find? x.written i))
          ∧ (s.dev.power = false → Answers (exec (.debugAccess .logs) s) (fun u => ∃ b : List Byte,
              u = { s with fresh := u.fresh, dev := { s.dev with out := s.dev.out ++ [.debugData b false] } })))
      ∧ (∀ asid va n bs,
        (s.debugMay asid va n = true →
            shows (exec (.debugAccess (.read asid va n)) s)
              (.debugData (s.readVaN (s.asidL1 asid) va n) (s.badVa (s.asidL1 asid) va n)))
          ∧ (s.debugMay asid va bs.length = true → s.debugHeld asid va bs.length = [] → s.mem.wf = true → ∀ l, (∀ j, j < bs.length →
                s.walk (s.asidL1 asid) (va + j) = some l ∧ l.phys (va + j) = l.phys va + j ∧ s.homeGone (l.phys va + j) = false) →
            Answers (exec (.debugAccess (.write asid va bs)) s) (fun u => u.groups = s.groups
              ∧ ∀ a, u.mem.read a = if l.phys va ≤ a ∧ a < l.phys va + bs.length then bs.getD (a - l.phys va) 0
                  else s.mem.read a)))

/-! ### The whole machine -/

/-- R38, R40 to R51: words that the manual writes out, and the instructions they stand for; and words with a field that must be
0, a predicate destination k0, and a major that is not assigned, which decode to nothing. -/
def Obligations.WordsOfTheManual : Prop :=
  decodeWord 0x34882050 = .ok (.fcmp 2 .lt 4 5 false false 0)
    ∧ decodeWord 0x360C0821 = .ok (.sel 3 1 2 false false 1)
    ∧ decodeWord 0x3E281030 = .ok (.ffma 10 2 3 false false 0)
    ∧ decodeWord 0x4A142308 = .ok (.shfliXor 5 4 1 false 0)
    ∧ decodeWord 0x661C0180 = .ok (.bcast 7 12 false 0)
    ∧ decodeWord 0x7C2409A8 = .ok (.pk8e4 9 1 true 0)
    ∧ decodeWord 0x780C0840 = .ok (.ldlt 3 1 2 .b8 false 0)
    ∧ decodeWord 0x68201298 = .ok (.ldg 8 2 20 .x4 false 0)
    ∧ decodeWord 0x6AE018B8 = .ok (.stg 56 3 5 .x4 false 0)
    ∧ decodeWord 0x76182069 = .ok (.ldgp 6 4 3 2 1)
    ∧ decodeWord 0x8268BFFF = .ok (.addi 13 5 0x1FFF)
    ∧ decodeWord 0x92C22083 = .ok (.movw 24 1 0x1041 true)
    ∧ decodeWord 0x9E187F80 = .ok (.vget 3 7 31 false)
    ∧ decodeWord 0xA2309000 = .ok (.ballot 6 9 0 false)
    ∧ decodeWord 0xA8182100 = .ok (.kand 3 1 2)
    ∧ decodeWord 0xAC068002 = .ok (.bs false .eq 13 2)
    ∧ decodeWord 0xAEC80003 = .ok (.bk false .each 1 3)
    ∧ decodeWord 0xB3F0E001 = .ok (.jrCall 62 7 false)
    ∧ decodeWord 0xB8000003 = .ok (.arrive 3)
    ∧ decodeWord 0xBE000009 = .ok (.fenceRelease .device)
    ∧ decodeWord 0xC0000003 = .ok (.fork 0 .both)
    ∧ decodeWord 0xC6000100 = .ok (.trap 0x100)
    ∧ decodeWord 0xCC100000 = .ok (.mfc 2 0)
    ∧ decodeWord 0xD8084180 = .ok (.rdraw 1 2 3)
    ∧ decodeWord 0xE0030C81 = .ok (.mcfg 24 25 1)
    ∧ decodeWord 0xE210503E = .ok (.mma 0 16 40 7 true true false)
    ∧ decodeWord 0xE838F004 = .ok (.mdrain 0 56 120 true)
    ∧ decodeWord 0xEA014001 = .ok (.msave 10 1)
    ∧ decodeWord 0xF0400000 = .ok (.mlint 8 0)
    ∧ decodeWord 0xF4BAC002 = .ok (.mcast 23 22)
    ∧ decodeWord 0x661C0190 = .error .reservedBits ∧ decodeWord 0x34082050 = .error .operandLimits
    ∧ decodeWord 0xF8000000 = .error .unassignedMajor

/-- R38 to R50: decoding and encoding agree. Every well-formed instruction that has a word is what the word decodes to, its
bytes laid out as memory holds them; and every word that decodes is the word of the instruction it decodes to, which is well
formed. -/
def Obligations.DecodeAndEncodeAgree : Prop :=
  (∀ (i : Instr) (w : Nat) (rest : List Byte), i.wf = true → encode i = some w →
      w < 2 ^ 32 ∧ decodeBytes (bytesOfWord w ++ rest) = .ok (i, rest))
    ∧ ∀ (i : Instr) (w : Nat), w < 2 ^ 32 → decodeWord w = .ok i → i.wf = true ∧ encode i = some w

/-- R50, R57, R59, R64, R332: an issue turn. A group that may issue, whose fetch is allowed, runs the instruction that the four
bytes at its PC decode to: the step is exec of it at that state with the group as the issuing one, followed, in a halting team
or an open floating-point window, by the count of the issue. Bytes that do not decode raise 0x01, a refused fetch its trap; an
instruction with a pending register is not issued; a fetch, or a check of the instruction, that a host copy of the code or the tables
is in the way of asks for it (R257, R277). What would trap, or would last, waits while an access before it may still be refused; that is how
the model keeps traps precise (R56; log entry 17).
The agenda that says whose turn it is is the model's own (log entry 1), and so is that an issue which would take a time to 2^32 - 1 while
a rebase is outstanding waits for the rebase, so that the turn passes with nothing changed (log entry 89). -/
def Obligations.AStepRunsTheDecodedInstruction : Prop :=
  ∀ (t a : Nat) (rest : List Turn) (s : State),
    let s0 : State := { s with agenda := rest }
    let s1 : State := { s with agenda := rest, cur := (t, a) }
    let g := s.agent t a
    let bytes := s0.codeBytes t g.pc.toNat
    let runs := fun (o : Out) => (s.dev.rebase = false → step s = o) ∧ (step s = o ∨ step s = .next s0)
    let traps := fun c v => (s.dev.rebase = false → TrapTaken s1 (step s) c 0 v 0)
      ∧ (TrapTaken s1 (step s) c 0 v 0 ∨ step s = .next s0)
    s.agenda = .issue t a :: rest → s0.mayIssue t a = true → a < 16 →
    (s0.fetchFirst t a = none →
      (s0.chkGlobal t g.pc.toNat .fetch = .ok →
          (∀ i r, decodeBytes bytes = .ok (i, r) →
            (s0.mustWait t a i = false → s0.trapWaits t a = false →
                (s0.accessFirst t a i = none →
                  ((s.teamOf t).trap = none → g.fpw = none → (s.teamOf t).atB = false → g.hold = [] →
                    s.net.held = [] → writesCluster i = false → runs (exec i s1))
                  ∧ runs (noteOut (exec i s1) (fun u => u.noteIssue t a i (s.teamOf t).trap.isSome g)))
                ∧ ∀ u, s0.accessFirst t a i = some u → runs (.next u))
              ∧ (s0.mustWait t a i = true ∨ s0.trapWaits t a = true → runs (.next s1)))
            ∧ (∀ e, decodeBytes bytes = .error e → g.outs = [] → traps 0x01 0))
        ∧ ∀ c v, s0.chkGlobal t g.pc.toNat .fetch = .trap c v → g.outs = [] → traps c v)
      ∧ (∀ u, s0.fetchFirst t a = some u → runs (.next u))

/-- The memories stay in canonical form: every step from a state in which the device's memory and every window are in canonical
form answers, if a next state, one in which they are (R6, R238, R398; the form is the model's own, log entry 3). -/
def Obligations.StepsKeepMemoryCanonical : Prop :=
  ∀ (s t : State), s.memWf = true → s.windowsWf = true → step s = .next t → t.memWf = true ∧ t.windowsWf = true

/-- R223, R224, R254, R262, R340, R375, R388, R390, R395, R398: what reset leaves: memory canonical and all zero, no team, J and every M 0,
and the registers that the manual gives a reset value.
That host memory reads as zero is the model's choice (log entry 3). -/
def Obligations.ResetState : Prop :=
  let s := State.reset
  s.memWf = true ∧ s.windowsWf = true ∧ (∀ a, s.mem.read a = 0) ∧ s.teams = [] ∧ s.graphs = [] ∧ s.net.reqs = []
    ∧ (∀ c, (s.coreOf c).ct = 0 ∧ (s.coreOf c).l1 = 1 ∧ (s.coreOf c).copies = [])
    ∧ s.dev.j = 0 ∧ (∀ i, i < 32 → vget 1 s.dev.memo i = 0) ∧ s.dev.tbgen = 0
    ∧ s.dev.ctxtab = 0 ∧ s.dev.wdog = 1000000 ∧ s.dev.dlim = 100 ∧ s.dev.quant = 1000
    ∧ (∀ i, i < 4 → vget 0 s.dev.cmask i = 0xFFFFFFFFFFFFFFFF) ∧ vget 0 s.dev.cmask 4 = 0xFFFFFFFF
    ∧ s.dev.expbase = 0 ∧ s.dev.gate = 0 ∧ s.dev.dom = 0 ∧ s.dev.mem = 0 ∧ s.dev.watts = 3000 ∧ s.dev.devinc = 1
    ∧ (∀ d, d < 2 → (s.dieAt d).inc = 1 ∧ (s.dieAt d).alive = true ∧ (s.dieAt d).gated = false)
end

