-- ==== Sys2Proof/Laws/State.lean ====
section
/-!
SUPPORT. What each update of the state does to each field of it, one lemma per field and update, so that no proof
unfolds a record update; and that an entry just set is read back.
-/

namespace Sys2Proof.Machine

open Sys2Proof

@[simp] theorem State.setAgent_cur (s : State) (t a : Nat) (g : Group) : (s.setAgent t a g).cur = s.cur := rfl
@[simp] theorem State.setAgent_groups (s : State) (t a : Nat) (g : Group) : (s.setAgent t a g).groups = Tab.set s.groups (agentKey t a) g := rfl
@[simp] theorem State.setAgent_teams (s : State) (t a : Nat) (g : Group) : (s.setAgent t a g).teams = s.teams := rfl
@[simp] theorem State.setAgent_cores (s : State) (t a : Nat) (g : Group) : (s.setAgent t a g).cores = s.cores := rfl
@[simp] theorem State.setAgent_mem (s : State) (t a : Nat) (g : Group) : (s.setAgent t a g).mem = s.mem := rfl
@[simp] theorem State.setAgent_lines (s : State) (t a : Nat) (g : Group) : (s.setAgent t a g).lines = s.lines := rfl
@[simp] theorem State.setAgent_memPoison (s : State) (t a : Nat) (g : Group) : (s.setAgent t a g).memPoison = s.memPoison := rfl
@[simp] theorem State.setAgent_grids (s : State) (t a : Nat) (g : Group) : (s.setAgent t a g).grids = s.grids := rfl
@[simp] theorem State.setAgent_graphs (s : State) (t a : Nat) (g : Group) : (s.setAgent t a g).graphs = s.graphs := rfl
@[simp] theorem State.setAgent_ready (s : State) (t a : Nat) (g : Group) : (s.setAgent t a g).ready = s.ready := rfl
@[simp] theorem State.setAgent_net (s : State) (t a : Nat) (g : Group) : (s.setAgent t a g).net = s.net := rfl
@[simp] theorem State.setAgent_dev (s : State) (t a : Nat) (g : Group) : (s.setAgent t a g).dev = s.dev := rfl
@[simp] theorem State.setAgent_agenda (s : State) (t a : Nat) (g : Group) : (s.setAgent t a g).agenda = s.agenda := rfl
@[simp] theorem State.setAgent_fresh (s : State) (t a : Nat) (g : Group) : (s.setAgent t a g).fresh = s.fresh := rfl
@[simp] theorem State.setAgent_nextKey (s : State) (t a : Nat) (g : Group) : (s.setAgent t a g).nextKey = s.nextKey := rfl

@[simp] theorem State.setGrp_cur (s : State) (g : Group) : (s.setGrp g).cur = s.cur := rfl
@[simp] theorem State.setGrp_groups (s : State) (g : Group) : (s.setGrp g).groups = Tab.set s.groups (agentKey s.cur.1 s.cur.2) g := rfl
@[simp] theorem State.setGrp_teams (s : State) (g : Group) : (s.setGrp g).teams = s.teams := rfl
@[simp] theorem State.setGrp_cores (s : State) (g : Group) : (s.setGrp g).cores = s.cores := rfl
@[simp] theorem State.setGrp_mem (s : State) (g : Group) : (s.setGrp g).mem = s.mem := rfl
@[simp] theorem State.setGrp_lines (s : State) (g : Group) : (s.setGrp g).lines = s.lines := rfl
@[simp] theorem State.setGrp_memPoison (s : State) (g : Group) : (s.setGrp g).memPoison = s.memPoison := rfl
@[simp] theorem State.setGrp_grids (s : State) (g : Group) : (s.setGrp g).grids = s.grids := rfl
@[simp] theorem State.setGrp_graphs (s : State) (g : Group) : (s.setGrp g).graphs = s.graphs := rfl
@[simp] theorem State.setGrp_ready (s : State) (g : Group) : (s.setGrp g).ready = s.ready := rfl
@[simp] theorem State.setGrp_net (s : State) (g : Group) : (s.setGrp g).net = s.net := rfl
@[simp] theorem State.setGrp_dev (s : State) (g : Group) : (s.setGrp g).dev = s.dev := rfl
@[simp] theorem State.setGrp_agenda (s : State) (g : Group) : (s.setGrp g).agenda = s.agenda := rfl
@[simp] theorem State.setGrp_fresh (s : State) (g : Group) : (s.setGrp g).fresh = s.fresh := rfl
@[simp] theorem State.setGrp_nextKey (s : State) (g : Group) : (s.setGrp g).nextKey = s.nextKey := rfl

@[simp] theorem State.setTeamOf_cur (s : State) (t : Nat) (x : Team) : (s.setTeamOf t x).cur = s.cur := rfl
@[simp] theorem State.setTeamOf_groups (s : State) (t : Nat) (x : Team) : (s.setTeamOf t x).groups = s.groups := rfl
@[simp] theorem State.setTeamOf_teams (s : State) (t : Nat) (x : Team) : (s.setTeamOf t x).teams = Tab.set s.teams t x := rfl
@[simp] theorem State.setTeamOf_cores (s : State) (t : Nat) (x : Team) : (s.setTeamOf t x).cores = s.cores := rfl
@[simp] theorem State.setTeamOf_mem (s : State) (t : Nat) (x : Team) : (s.setTeamOf t x).mem = s.mem := rfl
@[simp] theorem State.setTeamOf_lines (s : State) (t : Nat) (x : Team) : (s.setTeamOf t x).lines = s.lines := rfl
@[simp] theorem State.setTeamOf_memPoison (s : State) (t : Nat) (x : Team) : (s.setTeamOf t x).memPoison = s.memPoison := rfl
@[simp] theorem State.setTeamOf_grids (s : State) (t : Nat) (x : Team) : (s.setTeamOf t x).grids = s.grids := rfl
@[simp] theorem State.setTeamOf_graphs (s : State) (t : Nat) (x : Team) : (s.setTeamOf t x).graphs = s.graphs := rfl
@[simp] theorem State.setTeamOf_ready (s : State) (t : Nat) (x : Team) : (s.setTeamOf t x).ready = s.ready := rfl
@[simp] theorem State.setTeamOf_net (s : State) (t : Nat) (x : Team) : (s.setTeamOf t x).net = s.net := rfl
@[simp] theorem State.setTeamOf_dev (s : State) (t : Nat) (x : Team) : (s.setTeamOf t x).dev = s.dev := rfl
@[simp] theorem State.setTeamOf_agenda (s : State) (t : Nat) (x : Team) : (s.setTeamOf t x).agenda = s.agenda := rfl
@[simp] theorem State.setTeamOf_fresh (s : State) (t : Nat) (x : Team) : (s.setTeamOf t x).fresh = s.fresh := rfl
@[simp] theorem State.setTeamOf_nextKey (s : State) (t : Nat) (x : Team) : (s.setTeamOf t x).nextKey = s.nextKey := rfl

@[simp] theorem State.setTeam_cur (s : State) (x : Team) : (s.setTeam x).cur = s.cur := rfl
@[simp] theorem State.setTeam_groups (s : State) (x : Team) : (s.setTeam x).groups = s.groups := rfl
@[simp] theorem State.setTeam_teams (s : State) (x : Team) : (s.setTeam x).teams = Tab.set s.teams s.cur.1 x := rfl
@[simp] theorem State.setTeam_cores (s : State) (x : Team) : (s.setTeam x).cores = s.cores := rfl
@[simp] theorem State.setTeam_mem (s : State) (x : Team) : (s.setTeam x).mem = s.mem := rfl
@[simp] theorem State.setTeam_lines (s : State) (x : Team) : (s.setTeam x).lines = s.lines := rfl
@[simp] theorem State.setTeam_memPoison (s : State) (x : Team) : (s.setTeam x).memPoison = s.memPoison := rfl
@[simp] theorem State.setTeam_grids (s : State) (x : Team) : (s.setTeam x).grids = s.grids := rfl
@[simp] theorem State.setTeam_graphs (s : State) (x : Team) : (s.setTeam x).graphs = s.graphs := rfl
@[simp] theorem State.setTeam_ready (s : State) (x : Team) : (s.setTeam x).ready = s.ready := rfl
@[simp] theorem State.setTeam_net (s : State) (x : Team) : (s.setTeam x).net = s.net := rfl
@[simp] theorem State.setTeam_dev (s : State) (x : Team) : (s.setTeam x).dev = s.dev := rfl
@[simp] theorem State.setTeam_agenda (s : State) (x : Team) : (s.setTeam x).agenda = s.agenda := rfl
@[simp] theorem State.setTeam_fresh (s : State) (x : Team) : (s.setTeam x).fresh = s.fresh := rfl
@[simp] theorem State.setTeam_nextKey (s : State) (x : Team) : (s.setTeam x).nextKey = s.nextKey := rfl

@[simp] theorem State.setCoreOf_cur (s : State) (c : Nat) (x : Core) : (s.setCoreOf c x).cur = s.cur := rfl
@[simp] theorem State.setCoreOf_groups (s : State) (c : Nat) (x : Core) : (s.setCoreOf c x).groups = s.groups := rfl
@[simp] theorem State.setCoreOf_teams (s : State) (c : Nat) (x : Core) : (s.setCoreOf c x).teams = s.teams := rfl
@[simp] theorem State.setCoreOf_cores (s : State) (c : Nat) (x : Core) : (s.setCoreOf c x).cores = Tab.set s.cores c x := rfl
@[simp] theorem State.setCoreOf_mem (s : State) (c : Nat) (x : Core) : (s.setCoreOf c x).mem = s.mem := rfl
@[simp] theorem State.setCoreOf_lines (s : State) (c : Nat) (x : Core) : (s.setCoreOf c x).lines = s.lines := rfl
@[simp] theorem State.setCoreOf_memPoison (s : State) (c : Nat) (x : Core) : (s.setCoreOf c x).memPoison = s.memPoison := rfl
@[simp] theorem State.setCoreOf_grids (s : State) (c : Nat) (x : Core) : (s.setCoreOf c x).grids = s.grids := rfl
@[simp] theorem State.setCoreOf_graphs (s : State) (c : Nat) (x : Core) : (s.setCoreOf c x).graphs = s.graphs := rfl
@[simp] theorem State.setCoreOf_ready (s : State) (c : Nat) (x : Core) : (s.setCoreOf c x).ready = s.ready := rfl
@[simp] theorem State.setCoreOf_net (s : State) (c : Nat) (x : Core) : (s.setCoreOf c x).net = s.net := rfl
@[simp] theorem State.setCoreOf_dev (s : State) (c : Nat) (x : Core) : (s.setCoreOf c x).dev = s.dev := rfl
@[simp] theorem State.setCoreOf_agenda (s : State) (c : Nat) (x : Core) : (s.setCoreOf c x).agenda = s.agenda := rfl
@[simp] theorem State.setCoreOf_fresh (s : State) (c : Nat) (x : Core) : (s.setCoreOf c x).fresh = s.fresh := rfl
@[simp] theorem State.setCoreOf_nextKey (s : State) (c : Nat) (x : Core) : (s.setCoreOf c x).nextKey = s.nextKey := rfl

@[simp] theorem State.setCore_cur (s : State) (x : Core) : (s.setCore x).cur = s.cur := rfl
@[simp] theorem State.setCore_groups (s : State) (x : Core) : (s.setCore x).groups = s.groups := rfl
@[simp] theorem State.setCore_teams (s : State) (x : Core) : (s.setCore x).teams = s.teams := rfl
@[simp] theorem State.setCore_cores (s : State) (x : Core) : (s.setCore x).cores = Tab.set s.cores s.team.core x := rfl
@[simp] theorem State.setCore_mem (s : State) (x : Core) : (s.setCore x).mem = s.mem := rfl
@[simp] theorem State.setCore_lines (s : State) (x : Core) : (s.setCore x).lines = s.lines := rfl
@[simp] theorem State.setCore_memPoison (s : State) (x : Core) : (s.setCore x).memPoison = s.memPoison := rfl
@[simp] theorem State.setCore_grids (s : State) (x : Core) : (s.setCore x).grids = s.grids := rfl
@[simp] theorem State.setCore_graphs (s : State) (x : Core) : (s.setCore x).graphs = s.graphs := rfl
@[simp] theorem State.setCore_ready (s : State) (x : Core) : (s.setCore x).ready = s.ready := rfl
@[simp] theorem State.setCore_net (s : State) (x : Core) : (s.setCore x).net = s.net := rfl
@[simp] theorem State.setCore_dev (s : State) (x : Core) : (s.setCore x).dev = s.dev := rfl
@[simp] theorem State.setCore_agenda (s : State) (x : Core) : (s.setCore x).agenda = s.agenda := rfl
@[simp] theorem State.setCore_fresh (s : State) (x : Core) : (s.setCore x).fresh = s.fresh := rfl
@[simp] theorem State.setCore_nextKey (s : State) (x : Core) : (s.setCore x).nextKey = s.nextKey := rfl

@[simp] theorem State.setGridOf_cur (s : State) (g : Nat) (x : Grid) : (s.setGridOf g x).cur = s.cur := rfl
@[simp] theorem State.setGridOf_groups (s : State) (g : Nat) (x : Grid) : (s.setGridOf g x).groups = s.groups := rfl
@[simp] theorem State.setGridOf_teams (s : State) (g : Nat) (x : Grid) : (s.setGridOf g x).teams = s.teams := rfl
@[simp] theorem State.setGridOf_cores (s : State) (g : Nat) (x : Grid) : (s.setGridOf g x).cores = s.cores := rfl
@[simp] theorem State.setGridOf_mem (s : State) (g : Nat) (x : Grid) : (s.setGridOf g x).mem = s.mem := rfl
@[simp] theorem State.setGridOf_lines (s : State) (g : Nat) (x : Grid) : (s.setGridOf g x).lines = s.lines := rfl
@[simp] theorem State.setGridOf_memPoison (s : State) (g : Nat) (x : Grid) : (s.setGridOf g x).memPoison = s.memPoison := rfl
@[simp] theorem State.setGridOf_grids (s : State) (g : Nat) (x : Grid) : (s.setGridOf g x).grids = Tab.set s.grids g x := rfl
@[simp] theorem State.setGridOf_graphs (s : State) (g : Nat) (x : Grid) : (s.setGridOf g x).graphs = s.graphs := rfl
@[simp] theorem State.setGridOf_ready (s : State) (g : Nat) (x : Grid) : (s.setGridOf g x).ready = s.ready := rfl
@[simp] theorem State.setGridOf_net (s : State) (g : Nat) (x : Grid) : (s.setGridOf g x).net = s.net := rfl
@[simp] theorem State.setGridOf_dev (s : State) (g : Nat) (x : Grid) : (s.setGridOf g x).dev = s.dev := rfl
@[simp] theorem State.setGridOf_agenda (s : State) (g : Nat) (x : Grid) : (s.setGridOf g x).agenda = s.agenda := rfl
@[simp] theorem State.setGridOf_fresh (s : State) (g : Nat) (x : Grid) : (s.setGridOf g x).fresh = s.fresh := rfl
@[simp] theorem State.setGridOf_nextKey (s : State) (g : Nat) (x : Grid) : (s.setGridOf g x).nextKey = s.nextKey := rfl

@[simp] theorem State.advance_cur (s : State) : (s.advance).cur = s.cur := rfl
@[simp] theorem State.advance_groups (s : State) : (s.advance).groups = Tab.set s.groups (agentKey s.cur.1 s.cur.2) s.grp.advance := rfl
@[simp] theorem State.advance_teams (s : State) : (s.advance).teams = s.teams := rfl
@[simp] theorem State.advance_cores (s : State) : (s.advance).cores = s.cores := rfl
@[simp] theorem State.advance_mem (s : State) : (s.advance).mem = s.mem := rfl
@[simp] theorem State.advance_lines (s : State) : (s.advance).lines = s.lines := rfl
@[simp] theorem State.advance_memPoison (s : State) : (s.advance).memPoison = s.memPoison := rfl
@[simp] theorem State.advance_grids (s : State) : (s.advance).grids = s.grids := rfl
@[simp] theorem State.advance_graphs (s : State) : (s.advance).graphs = s.graphs := rfl
@[simp] theorem State.advance_ready (s : State) : (s.advance).ready = s.ready := rfl
@[simp] theorem State.advance_net (s : State) : (s.advance).net = s.net := rfl
@[simp] theorem State.advance_dev (s : State) : (s.advance).dev = s.dev := rfl
@[simp] theorem State.advance_agenda (s : State) : (s.advance).agenda = s.agenda := rfl
@[simp] theorem State.advance_fresh (s : State) : (s.advance).fresh = s.fresh := rfl
@[simp] theorem State.advance_nextKey (s : State) : (s.advance).nextKey = s.nextKey := rfl

@[simp] theorem State.releaseV_cur (s : State) (r : VReg) : (s.releaseV r).cur = s.cur := rfl
@[simp] theorem State.releaseS_cur (s : State) (r : SReg) : (s.releaseS r).cur = s.cur := rfl
@[simp] theorem State.releaseV_teams (s : State) (r : VReg) : (s.releaseV r).teams = s.teams := rfl
@[simp] theorem State.releaseS_teams (s : State) (r : SReg) : (s.releaseS r).teams = s.teams := rfl
@[simp] theorem State.releaseV_cores (s : State) (r : VReg) : (s.releaseV r).cores = s.cores := rfl
@[simp] theorem State.releaseS_cores (s : State) (r : SReg) : (s.releaseS r).cores = s.cores := rfl
@[simp] theorem State.releaseV_mem (s : State) (r : VReg) : (s.releaseV r).mem = s.mem := rfl
@[simp] theorem State.releaseS_mem (s : State) (r : SReg) : (s.releaseS r).mem = s.mem := rfl
@[simp] theorem State.releaseV_lines (s : State) (r : VReg) : (s.releaseV r).lines = s.lines := rfl
@[simp] theorem State.releaseS_lines (s : State) (r : SReg) : (s.releaseS r).lines = s.lines := rfl
@[simp] theorem State.releaseV_memPoison (s : State) (r : VReg) : (s.releaseV r).memPoison = s.memPoison := rfl
@[simp] theorem State.releaseS_memPoison (s : State) (r : SReg) : (s.releaseS r).memPoison = s.memPoison := rfl
@[simp] theorem State.releaseV_grids (s : State) (r : VReg) : (s.releaseV r).grids = s.grids := rfl
@[simp] theorem State.releaseS_grids (s : State) (r : SReg) : (s.releaseS r).grids = s.grids := rfl
@[simp] theorem State.releaseV_graphs (s : State) (r : VReg) : (s.releaseV r).graphs = s.graphs := rfl
@[simp] theorem State.releaseS_graphs (s : State) (r : SReg) : (s.releaseS r).graphs = s.graphs := rfl
@[simp] theorem State.releaseV_ready (s : State) (r : VReg) : (s.releaseV r).ready = s.ready := rfl
@[simp] theorem State.releaseS_ready (s : State) (r : SReg) : (s.releaseS r).ready = s.ready := rfl
@[simp] theorem State.releaseV_net (s : State) (r : VReg) : (s.releaseV r).net = s.net := rfl
@[simp] theorem State.releaseS_net (s : State) (r : SReg) : (s.releaseS r).net = s.net := rfl
@[simp] theorem State.releaseV_dev (s : State) (r : VReg) : (s.releaseV r).dev = s.dev := rfl
@[simp] theorem State.releaseS_dev (s : State) (r : SReg) : (s.releaseS r).dev = s.dev := rfl
@[simp] theorem State.releaseV_agenda (s : State) (r : VReg) : (s.releaseV r).agenda = s.agenda := rfl
@[simp] theorem State.releaseS_agenda (s : State) (r : SReg) : (s.releaseS r).agenda = s.agenda := rfl
@[simp] theorem State.releaseV_nextKey (s : State) (r : VReg) : (s.releaseV r).nextKey = s.nextKey := rfl
@[simp] theorem State.releaseS_nextKey (s : State) (r : SReg) : (s.releaseS r).nextKey = s.nextKey := rfl
@[simp] theorem State.undoAccess_cur (s : State) (t a : Nat) (o : Outst) : (s.undoAccess t a o).cur = s.cur := rfl
@[simp] theorem State.undoAccess_teams (s : State) (t a : Nat) (o : Outst) : (s.undoAccess t a o).teams = s.teams := rfl
@[simp] theorem State.undoAccess_cores (s : State) (t a : Nat) (o : Outst) : (s.undoAccess t a o).cores = s.cores := rfl
@[simp] theorem State.undoAccess_mem (s : State) (t a : Nat) (o : Outst) : (s.undoAccess t a o).mem = s.mem := rfl
@[simp] theorem State.undoAccess_lines (s : State) (t a : Nat) (o : Outst) : (s.undoAccess t a o).lines = s.lines := rfl
@[simp] theorem State.undoAccess_memPoison (s : State) (t a : Nat) (o : Outst) : (s.undoAccess t a o).memPoison = s.memPoison := rfl
@[simp] theorem State.undoAccess_grids (s : State) (t a : Nat) (o : Outst) : (s.undoAccess t a o).grids = s.grids := rfl
@[simp] theorem State.undoAccess_graphs (s : State) (t a : Nat) (o : Outst) : (s.undoAccess t a o).graphs = s.graphs := rfl
@[simp] theorem State.undoAccess_ready (s : State) (t a : Nat) (o : Outst) : (s.undoAccess t a o).ready = s.ready := rfl
@[simp] theorem State.undoAccess_dev (s : State) (t a : Nat) (o : Outst) : (s.undoAccess t a o).dev = s.dev := rfl
@[simp] theorem State.undoAccess_agenda (s : State) (t a : Nat) (o : Outst) : (s.undoAccess t a o).agenda = s.agenda := rfl
@[simp] theorem State.undoAccess_fresh (s : State) (t a : Nat) (o : Outst) : (s.undoAccess t a o).fresh = s.fresh := rfl
@[simp] theorem State.undoAccess_nextKey (s : State) (t a : Nat) (o : Outst) : (s.undoAccess t a o).nextKey = s.nextKey := rfl
/-- An access that is undone changes no other agent. -/
theorem State.agent_undoAccess_ne (s : State) (t a u b : Nat) (o : Outst) (h : agentKey t a ≠ agentKey u b) :
    (s.undoAccess t a o).agent u b = s.agent u b := by
  simp [State.undoAccess, State.agent, State.setAgent, Tab.get_set_ne _ _ _ _ _ h]

@[simp] theorem State.releaseV_fresh (s : State) (r : VReg) : (s.releaseV r).fresh = s.fresh + 32 := rfl
@[simp] theorem State.releaseS_fresh (s : State) (r : SReg) : (s.releaseS r).fresh = s.fresh + 1 := rfl

/-! ### An entry just set is read back; the others stay -/

@[simp] theorem State.agent_setAgent (s : State) (t a : Nat) (g : Group) : (s.setAgent t a g).agent t a = g := by
  simp [State.agent]
theorem State.agent_setAgent_ne (s : State) (t a u b : Nat) (g : Group) (h : agentKey t a ≠ agentKey u b) :
    (s.setAgent t a g).agent u b = s.agent u b := by
  simp [State.agent, Tab.get_set_ne _ _ _ _ _ h]
@[simp] theorem State.grp_setGrp (s : State) (g : Group) : (s.setGrp g).grp = g := by
  simp [State.grp, State.agent]
@[simp] theorem State.grp_advance (s : State) : s.advance.grp = s.grp.advance := by
  simp [State.grp, State.agent]
theorem State.agent_setGrp_ne (s : State) (u b : Nat) (g : Group) (h : agentKey u b ≠ agentKey s.cur.1 s.cur.2) :
    (s.setGrp g).agent u b = s.agent u b :=
  s.agent_setAgent_ne _ _ _ _ g (Ne.symm h)
@[simp] theorem State.teamOf_setTeamOf (s : State) (t : Nat) (x : Team) : (s.setTeamOf t x).teamOf t = x := by
  simp [State.teamOf]
theorem State.teamOf_setTeamOf_ne (s : State) (t u : Nat) (x : Team) (h : t ≠ u) :
    (s.setTeamOf t x).teamOf u = s.teamOf u := by
  simp [State.teamOf, Tab.get_set_ne _ _ _ _ _ h]
@[simp] theorem State.coreOf_setCoreOf (s : State) (c : Nat) (x : Core) : (s.setCoreOf c x).coreOf c = x := by
  simp [State.coreOf]
theorem State.coreOf_setCoreOf_ne (s : State) (c u : Nat) (x : Core) (h : c ≠ u) :
    (s.setCoreOf c x).coreOf u = s.coreOf u := by
  simp [State.coreOf, Tab.get_set_ne _ _ _ _ _ h]
@[simp] theorem State.gridOf_setGridOf (s : State) (g : Nat) (x : Grid) : (s.setGridOf g x).gridOf g = x := by
  simp [State.gridOf]
@[simp] theorem State.grp_setTeamOf (s : State) (t : Nat) (x : Team) : (s.setTeamOf t x).grp = s.grp := rfl
@[simp] theorem State.grp_setCoreOf (s : State) (c : Nat) (x : Core) : (s.setCoreOf c x).grp = s.grp := rfl
@[simp] theorem State.agent_setTeamOf (s : State) (t u a : Nat) (x : Team) : (s.setTeamOf t x).agent u a = s.agent u a := rfl
@[simp] theorem State.agent_setCoreOf (s : State) (c u a : Nat) (x : Core) : (s.setCoreOf c x).agent u a = s.agent u a := rfl
@[simp] theorem State.teamOf_setAgent (s : State) (t a u : Nat) (g : Group) : (s.setAgent t a g).teamOf u = s.teamOf u := rfl
@[simp] theorem State.teamOf_setGrp (s : State) (u : Nat) (g : Group) : (s.setGrp g).teamOf u = s.teamOf u := rfl
@[simp] theorem State.team_setGrp (s : State) (g : Group) : (s.setGrp g).team = s.team := rfl
@[simp] theorem State.team_setAgent (s : State) (t a : Nat) (g : Group) : (s.setAgent t a g).team = s.team := rfl
@[simp] theorem State.coreOf_setAgent (s : State) (t a c : Nat) (g : Group) : (s.setAgent t a g).coreOf c = s.coreOf c := rfl
@[simp] theorem State.coreOf_setTeamOf (s : State) (t c : Nat) (x : Team) : (s.setTeamOf t x).coreOf c = s.coreOf c := rfl
@[simp] theorem State.teamOf_setCoreOf (s : State) (c t : Nat) (x : Core) : (s.setCoreOf c x).teamOf t = s.teamOf t := rfl

end Sys2Proof.Machine
end

