-- ==== Sys2Proof/Laws/Groups.lean ====
section
/-!
SUPPORT. The registers, lanes and program counters of a group: what a write to one of them leaves of the others.
-/

namespace Sys2Proof.Machine

open Sys2Proof

/-! ### Lanes -/

theorem mem_allLanes {l : Nat} : l ∈ allLanes ↔ l < 32 := by simp [allLanes]

theorem contains_filter_lanes (p : Nat → Bool) (l : Nat) (h : l < 32) : (allLanes.filter p).contains l = p l := by
  rw [Bool.eq_iff_iff]; simp [mem_allLanes, h]

theorem Group.contains_issuers (g : Group) (l : Nat) (h : l < 32) : g.issuers.contains l = g.issuing l :=
  contains_filter_lanes _ _ h
theorem Group.contains_actors (g : Group) (q : Fin 4) (l : Nat) (h : l < 32) : (g.actors q).contains l = g.acts q l :=
  contains_filter_lanes _ _ h

theorem LaneVec.get_lanesOf (f : Nat → Word) (l : Nat) (h : l < 32) : LaneVec.get (lanesOf f) l = f l :=
  vget_lanesOf 0 f l h

theorem mergeLanes_get (m : List Nat) (x : Nat → Word) (old : LaneVec) (l : Nat) (h : l < 32) :
    (mergeLanes m x old).get l = if m.contains l then x l else old.get l :=
  LaneVec.get_lanesOf _ l h

/-! ### Registers -/

theorem Group.getV_setV (g : Group) (r r' : VReg) (x : LaneVec) :
    (g.setV r x).getV r' = if r' = r then x else g.getV r' := by
  simp only [Group.getV, Group.setV, vget_vset _ _ _ _ _ r.isLt, Fin.ext_iff, eq_comm]

@[simp] theorem Group.getV_setV_same (g : Group) (r : VReg) (x : LaneVec) : (g.setV r x).getV r = x := by
  simp [Group.getV_setV]
theorem Group.getV_setV_ne (g : Group) {r r' : VReg} (x : LaneVec) (h : r' ≠ r) : (g.setV r x).getV r' = g.getV r' := by
  simp [Group.getV_setV, h]

theorem Group.getS_setS (g : Group) (r r' : SReg) (x : DWord) :
    (g.setS r x).getS r' = if r' = r then (if r.val = 63 then 0 else x) else g.getS r' := by
  unfold Group.setS
  by_cases hr : r.val = 63
  · by_cases h : r' = r
    · subst h; simp [Group.getS, hr]
    · simp [hr, h]
  · simp only [if_neg hr, Group.getS, vget_vset _ _ _ _ _ r.isLt, Fin.ext_iff]
    by_cases h : r'.val = r.val
    · simp [h, hr]
    · simp [h, Ne.symm h]

theorem Group.getS_setS_ne (g : Group) {r r' : SReg} (x : DWord) (h : r' ≠ r) : (g.setS r x).getS r' = g.getS r' := by
  simp [Group.getS_setS, h]

theorem Group.kBits_setK (g : Group) (r r' : KReg) (x : BitVec 32) :
    (g.setK r x).kBits r' = if r' = r then (if r.val = 0 then BitVec.allOnes 32 else x) else g.kBits r' := by
  unfold Group.setK
  by_cases hr : r.val = 0
  · by_cases h : r' = r
    · subst h; simp [Group.kBits, hr]
    · simp [hr, h]
  · simp only [if_neg hr, Group.kBits, vget_vset _ _ _ _ _ r.isLt, Fin.ext_iff]
    by_cases h : r'.val = r.val
    · simp [h, hr]
    · simp [h, Ne.symm h]

theorem Group.getK_eq_kBits (g : Group) (k : KReg) (l : Nat) (h : l < 32) : g.getK k l = (g.kBits k).getLsbD l := by
  unfold Group.getK Group.kBits
  by_cases hk : k.val = 0
  · simp only [if_pos hk, BitVec.getLsbD_allOnes, h, decide_true]
  · simp only [if_neg hk]

/-! ### Program counters (R59) -/

theorem Group.lanePc_jump (g : Group) (f : Nat → BitVec 52) (l : Nat) (h : l < 32) :
    (g.jump f).lanePc l = if g.issuing l then f l else g.lanePc l := by
  simp only [Group.jump, Group.lanePc, vget_lanesOf _ _ _ h, g.contains_issuers l h]

theorem Group.lanePc_advance (g : Group) (l : Nat) (h : l < 32) :
    g.advance.lanePc l = if g.issuing l then g.pc + 4 else g.lanePc l :=
  g.lanePc_jump _ l h

/-- Moving lanes changes program counters only. -/
theorem Group.jump_frame (g : Group) (f : Nat → BitVec 52) : g.jump f = { g with pcs := (g.jump f).pcs } := rfl
theorem Group.advance_frame (g : Group) : g.advance = { g with pcs := g.advance.pcs } := rfl

@[simp] theorem Group.getV_advance (g : Group) (r : VReg) : g.advance.getV r = g.getV r := rfl
@[simp] theorem Group.getS_advance (g : Group) (r : SReg) : g.advance.getS r = g.getS r := rfl
@[simp] theorem Group.kBits_advance (g : Group) (r : KReg) : g.advance.kBits r = g.kBits r := rfl
@[simp] theorem Group.getK_advance (g : Group) (r : KReg) (l : Nat) : g.advance.getK r l = g.getK r l := rfl

/-- Where lanes stand depends on program counters and the active mask only. -/
theorem Group.pc_congr {g h : Group} (hp : h.pcs = g.pcs) (ha : h.active = g.active) : h.pc = g.pc := by
  unfold Group.pc Group.isActive Group.lanePc
  rw [hp, ha]
theorem Group.issuing_congr {g h : Group} (hp : h.pcs = g.pcs) (ha : h.active = g.active) (l : Nat) :
    h.issuing l = g.issuing l := by
  unfold Group.issuing
  rw [Group.pc_congr hp ha]
  unfold Group.isActive Group.lanePc
  rw [hp, ha]

/-- Lanes that advance from a group whose program counters and active mask are those of `g` arrive where those of `g`
would. -/
theorem Group.lanePc_advance_congr {g h : Group} (hp : h.pcs = g.pcs) (ha : h.active = g.active) (l : Nat) (hl : l < 32) :
    h.advance.lanePc l = if g.issuing l then g.pc + 4 else g.lanePc l := by
  rw [h.lanePc_advance l hl, Group.issuing_congr hp ha, Group.pc_congr hp ha]
  unfold Group.lanePc
  rw [hp]

/-! ### Last use (R13, R66) -/

theorem State.grp_releaseV (s : State) (r : VReg) : (s.releaseV r).grp = s.grp.setV r (freeVec s.fresh) := by
  simp [State.releaseV, State.grp, State.agent, agentKey, Tab.get_set_same]
theorem State.grp_releaseS (s : State) (r : SReg) : (s.releaseS r).grp = s.grp.setS r (Config.freeBits s.fresh) := by
  simp [State.releaseS, State.grp, State.agent, agentKey, Tab.get_set_same]

end Sys2Proof.Machine
end

