-- ==== Sys2Proof/Laws/Forms.lean ====
section
/-!
SUPPORT. What each operand form of Machine/Operands.lean does, said once: the result, the frame, and that it completes.
-/

namespace Sys2Proof.Claims

open Sys2Proof Sys2Proof.Machine

/-! ### States that differ in the issuing group only -/

theorem OnlyGroup.cur {s t : State} (h : OnlyGroup s t) : t.cur = s.cur := by
  rw [h.1]

theorem OnlyGroup.refl (s : State) : OnlyGroup s s := ⟨rfl, fun _ _ _ => rfl, fun _ => rfl⟩

theorem OnlyGroup.trans {s t u : State} (h : OnlyGroup s t) (k : OnlyGroup t u) : OnlyGroup s u := by
  refine ⟨?_, fun v a hv => ?_, fun a => (k.2.2 a).trans (h.2.2 a)⟩
  · rw [k.1, h.1]
  · rw [k.2.1 v a (by rw [h.cur]; exact hv), h.2.1 v a hv]

theorem OnlyGroup.setGrp (s : State) (g : Group) : OnlyGroup s (s.setGrp g) :=
  ⟨rfl, fun u a h => s.agent_setGrp_ne u a g h, fun _ => rfl⟩

theorem OnlyGroup.fresh (s : State) (n : Nat) : OnlyGroup s { s with fresh := n } :=
  ⟨rfl, fun _ _ _ => rfl, fun _ => rfl⟩

theorem OnlyGroup.releaseV (s : State) (r : VReg) : OnlyGroup s (s.releaseV r) :=
  (OnlyGroup.setGrp s _).trans (OnlyGroup.fresh _ _)
theorem OnlyGroup.releaseS (s : State) (r : SReg) : OnlyGroup s (s.releaseS r) :=
  (OnlyGroup.setGrp s _).trans (OnlyGroup.fresh _ _)
theorem OnlyGroup.advance (s : State) : OnlyGroup s s.advance := OnlyGroup.setGrp s _

/-! ### Releases (R13, R66) -/

/-- Releasing lane registers changes those registers of the issuing group. -/
theorem releaseV_all (l : List VReg) (s : State) :
    OnlyGroup s (l.foldl State.releaseV s)
      ∧ (l.foldl State.releaseV s).grp = { s.grp with v := (l.foldl State.releaseV s).grp.v }
      ∧ ∀ r, r ∉ l → (l.foldl State.releaseV s).grp.getV r = s.grp.getV r := by
  induction l generalizing s with
  | nil => exact ⟨OnlyGroup.refl s, rfl, fun _ _ => rfl⟩
  | cons a t ih =>
    obtain ⟨h1, h2, h3⟩ := ih (s.releaseV a)
    simp only [List.foldl_cons]
    refine ⟨(OnlyGroup.releaseV s a).trans h1, ?_, fun r hr => ?_⟩
    · rw [h2, s.grp_releaseV a]; rfl
    · rw [h3 r (fun h => hr (List.mem_cons_of_mem a h)), s.grp_releaseV,
        Group.getV_setV_ne _ _ (fun h => hr (by rw [h]; exact List.mem_cons_self))]

/-- Releasing uniform registers changes those registers of the issuing group. -/
theorem releaseS_all (l : List SReg) (s : State) :
    OnlyGroup s (l.foldl State.releaseS s)
      ∧ (l.foldl State.releaseS s).grp = { s.grp with s := (l.foldl State.releaseS s).grp.s }
      ∧ ∀ r, r ∉ l → (l.foldl State.releaseS s).grp.getS r = s.grp.getS r := by
  induction l generalizing s with
  | nil => exact ⟨OnlyGroup.refl s, rfl, fun _ _ => rfl⟩
  | cons a t ih =>
    obtain ⟨h1, h2, h3⟩ := ih (s.releaseS a)
    simp only [List.foldl_cons]
    refine ⟨(OnlyGroup.releaseS s a).trans h1, ?_, fun r hr => ?_⟩
    · rw [h2, s.grp_releaseS a]
      unfold Group.setS
      split <;> rfl
    · rw [h3 r (fun h => hr (List.mem_cons_of_mem a h)), s.grp_releaseS,
        Group.getS_setS_ne _ _ (fun h => hr (by rw [h]; exact List.mem_cons_self))]

theorem lastS_eq (s : State) (y : Bool) (r : SReg) : s.lastS y r = (markedS [(y, r)]).foldl State.releaseS s := by
  cases y <;> rfl
theorem lastV_eq (s : State) (y : Bool) (r : VReg) : s.lastV y r = (marked [(y, r)]).foldl State.releaseV s := by
  cases y <;> rfl

/-! ### Lane forms -/

/-- The form of an integer lane instruction. -/
theorem laneOp_result (s : State) (q : Fin 4) (lastV : List VReg) (d : VReg) (f : Group → Nat → Word) :
    LaneResult s (.next (s.laneOp q lastV d f)) d q lastV [] (f s.grp) := by
  obtain ⟨h1, h2, h3⟩ := releaseV_all lastV s
  refine ⟨_, rfl, ⟨(h1.trans (OnlyGroup.setGrp _ _)).trans (OnlyGroup.advance _), ?_, ?_, ?_, ?_⟩, ?_⟩
  · intro l hl
    simp only [State.laneOp, State.grp_advance, State.grp_setGrp]
    refine Group.lanePc_advance_congr ?_ ?_ l hl <;> (show _ = _; rw [Group.setV]; simp only; rw [h2])
  · simp only [State.laneOp, State.grp_advance, State.grp_setGrp]
    rw [Group.advance_frame, Group.setV]
    rw [h2]
  · intro r hr hr'
    simp only [State.laneOp, State.grp_advance, State.grp_setGrp, Group.getV_advance]
    rw [Group.getV_setV_ne _ _ hr, h3 r hr']
  · intro r _
    simp only [State.laneOp, State.grp_advance, State.grp_setGrp, Group.getS_advance]
    rw [Group.setV, h2]; rfl
  · intro l hl
    simp only [State.laneOp, State.grp_advance, State.grp_setGrp, Group.lane, Group.getV_advance, Group.getV_setV_same,
      mergeLanes_get _ _ _ l hl, s.grp.contains_actors q l hl]
    exact ⟨fun h => by rw [if_pos h], fun h hd => by rw [if_neg (by simp [h]), h3 d hd]⟩

/-- What a group reads after the last use of a uniform register: the registers of the group but that one are as before. -/
theorem grp_lastS (s : State) (y : Bool) (r : SReg) : (s.lastS y r).grp = { s.grp with s := (s.lastS y r).grp.s } := by
  rw [lastS_eq]; exact (releaseS_all _ s).2.1
theorem grp_lastV (s : State) (y : Bool) (r : VReg) : (s.lastV y r).grp = { s.grp with v := (s.lastV y r).grp.v } := by
  rw [lastV_eq]; exact (releaseV_all _ s).2.1
@[simp] theorem lane_lastS (s : State) (y : Bool) (r : SReg) (a : VReg) (l : Nat) :
    (s.lastS y r).grp.lane a l = s.grp.lane a l := by rw [grp_lastS]; rfl
@[simp] theorem acts_lastS (s : State) (y : Bool) (r : SReg) (q : Fin 4) (l : Nat) :
    (s.lastS y r).grp.acts q l = s.grp.acts q l := by
  simp only [Group.acts]
  rw [Group.issuing_congr (g := s.grp) (by rw [grp_lastS]) (by rw [grp_lastS])]
  rw [grp_lastS]; rfl
@[simp] theorem actors_lastS (s : State) (y : Bool) (r : SReg) (q : Fin 4) :
    (s.lastS y r).grp.actors q = s.grp.actors q := by
  have : (s.lastS y r).grp.acts q = s.grp.acts q := funext (acts_lastS s y r q)
  simp only [Group.actors, this]

/-- A lane instruction that first uses a uniform register for the last time. -/
theorem LaneResult.afterS {s : State} {y : Bool} {r : SReg} {o : Out} {d : VReg} {q : Fin 4} {lastV : List VReg}
    {f : Nat → Word} (h : LaneResult (s.lastS y r) o d q lastV [] f) : LaneResult s o d q lastV (markedS [(y, r)]) f := by
  obtain ⟨t, ho, ⟨h1, h2, h3, h4, h5⟩, h6⟩ := h
  obtain ⟨k1, k2, k3⟩ := releaseS_all (markedS [(y, r)]) s
  rw [← lastS_eq] at k1 k2 k3
  have kv : ∀ a, (s.lastS y r).grp.getV a = s.grp.getV a := fun a => by rw [k2]; rfl
  refine ⟨t, ho, ⟨k1.trans h1, fun l hl => ?_, ?_, fun a ha hb => ?_, fun a ha => ?_⟩, fun l hl => ?_⟩
  · rw [h2 l hl, Group.issuing_congr (g := s.grp) (by rw [k2]) (by rw [k2]),
      Group.pc_congr (g := s.grp) (by rw [k2]) (by rw [k2])]
    rw [k2]; rfl
  · rw [h3, k2]
  · rw [h4 a ha hb, kv]
  · rw [h5 a (by simp), k3 a ha]
  · have := h6 l hl
    simp only [acts_lastS] at this
    simpa only [Group.lane, kv] using this

/-- The flags a group has after `raiseFlags`, and what else that changes. -/
theorem raiseFlags_frame (g : Group) (pc : Nat) (l : List (Nat × Flags)) :
    g.raiseFlags pc l = { g with fpsr := g.fpsr ||| (orFlags l).setWidth 64, fpw := (g.raiseFlags pc l).fpw } := by
  unfold Group.raiseFlags
  split
  · rfl
  · split <;> rfl

@[simp] theorem kBits_raiseFlags (g : Group) (pc : Nat) (l : List (Nat × Flags)) (r : KReg) :
    (g.raiseFlags pc l).kBits r = g.kBits r := by rw [raiseFlags_frame]; rfl
@[simp] theorem getV_raiseFlags (g : Group) (pc : Nat) (l : List (Nat × Flags)) (r : VReg) :
    (g.raiseFlags pc l).getV r = g.getV r := by rw [raiseFlags_frame]; rfl
@[simp] theorem getS_raiseFlags (g : Group) (pc : Nat) (l : List (Nat × Flags)) (r : SReg) :
    (g.raiseFlags pc l).getS r = g.getS r := by rw [raiseFlags_frame]; rfl

theorem orFlags_bit (l : List (Nat × Flags)) (a : BitVec 5) (i : Nat) :
    (l.foldl (fun a p => a ||| p.2.bits) a).getLsbD i = (a.getLsbD i || l.any (fun p => p.2.bits.getLsbD i)) := by
  induction l generalizing a with
  | nil => simp
  | cons p t ih => simp [ih, BitVec.getLsbD_or, Bool.or_assoc]

theorem raiseFlags_raised (g : Group) (pc : Nat) (m : List Nat) (f : Nat → Flags) :
    FlagsRaised g (g.raiseFlags pc (m.map (fun l => (l, f l)))) m f := by
  intro i hi
  rw [raiseFlags_frame]
  simp only [BitVec.getLsbD_or, BitVec.getLsbD_setWidth, hi, decide_true, Bool.true_and, orFlags, orFlags_bit]
  by_cases h5 : i < 5
  · simp [h5, List.any_map, Function.comp_def]
  · have : ∀ x : BitVec 5, x.getLsbD i = false := fun x => BitVec.getLsbD_of_ge x i (by omega)
    simp [h5, this]

theorem raiseFlags_fpw (g : Group) (pc : Nat) (m : List Nat) (f : Nat → Flags) (h : NoEnabled g m f) :
    (g.raiseFlags pc (m.map (fun l => (l, f l)))).fpw = g.fpw := by
  have : enabledLanes g.enables (m.map (fun l => (l, f l))) = [] := by
    unfold enabledLanes
    rw [List.filter_eq_nil_iff]
    intro p hp
    obtain ⟨l, hl, rfl⟩ := List.mem_map.mp hp
    simp [h l hl]
  unfold Group.raiseFlags
  rw [this]

/-- The form of a floating-point lane instruction. -/
theorem laneOpFp_result (s : State) (q : Fin 4) (lastV : List VReg) (d : VReg) (f : Group → Nat → Word × Flags) :
    FpResult s (.next (s.laneOpFp q lastV d f)) d q lastV [] (f s.grp) := by
  obtain ⟨h1, h2, h3⟩ := releaseV_all lastV s
  have e : ∀ x : LaneVec, ((lastV.foldl State.releaseV s).grp.setV d x) = { s.grp with
      v := ((lastV.foldl State.releaseV s).grp.setV d x).v } := fun x => by
    rw [Group.setV]; simp only; rw [h2]
  refine ⟨_, rfl, ⟨(h1.trans (OnlyGroup.setGrp _ _)).trans (OnlyGroup.advance _), ?_, ?_, ?_, ?_, ?_, ?_⟩, ?_⟩
  · intro l hl
    simp only [State.laneOpFp, State.grp_advance, State.grp_setGrp]
    refine Group.lanePc_advance_congr ?_ ?_ l hl <;> rw [raiseFlags_frame, e]
  · simp only [State.laneOpFp, State.grp_advance, State.grp_setGrp]
    rw [Group.advance_frame, raiseFlags_frame]
    simp only
    rw [e]
  · intro r hr hr'
    simp only [State.laneOpFp, State.grp_advance, State.grp_setGrp, Group.getV_advance]
    rw [raiseFlags_frame]
    exact (Group.getV_setV_ne _ _ hr).trans (h3 r hr')
  · intro r _
    simp only [State.laneOpFp, State.grp_advance, State.grp_setGrp, Group.getS_advance]
    rw [raiseFlags_frame, e]; rfl
  · simp only [State.laneOpFp, State.grp_advance, State.grp_setGrp]
    intro i hi
    have := raiseFlags_raised ((lastV.foldl State.releaseV s).grp.setV d
      (mergeLanes (s.grp.actors q) (fun l => (f s.grp l).1) ((lastV.foldl State.releaseV s).grp.getV d))) s.grp.pc.toNat
      (s.grp.actors q) (fun l => (f s.grp l).2) i hi
    rw [e] at this
    rw [e]
    exact this
  · intro hn
    simp only [State.laneOpFp, State.grp_advance, State.grp_setGrp]
    rw [e]
    exact raiseFlags_fpw _ _ _ _ hn
  · intro l hl
    simp only [State.laneOpFp, State.grp_advance, State.grp_setGrp, Group.lane, Group.getV_advance]
    rw [raiseFlags_frame]
    have : ∀ x y z, ({ ((lastV.foldl State.releaseV s).grp.setV d x) with fpsr := y, fpw := z } : Group).getV d = x :=
      fun x y z => Group.getV_setV_same _ d x
    rw [this]
    simp only [mergeLanes_get _ _ _ l hl, s.grp.contains_actors q l hl]
    exact ⟨fun h => by rw [if_pos h], fun h hd => by rw [if_neg (by simp [h]), h3 d hd]⟩

/-- A floating-point lane instruction that first uses a uniform register for the last time. -/
theorem FpResult.afterS {s : State} {y : Bool} {r : SReg} {o : Out} {d : VReg} {q : Fin 4} {lastV : List VReg}
    {f : Nat → Word × Flags} (h : FpResult (s.lastS y r) o d q lastV [] f) :
    FpResult s o d q lastV (markedS [(y, r)]) f := by
  obtain ⟨t, ho, ⟨h1, h2, h3, h4, h5, h6, h7⟩, h8⟩ := h
  obtain ⟨k1, k2, k3⟩ := releaseS_all (markedS [(y, r)]) s
  rw [← lastS_eq] at k1 k2 k3
  rw [actors_lastS] at h6 h7
  have kv : ∀ a, (s.lastS y r).grp.getV a = s.grp.getV a := fun a => by rw [k2]; rfl
  refine ⟨t, ho, ⟨k1.trans h1, fun l hl => ?_, ?_, fun a ha hb => ?_, fun a ha => ?_, ?_, ?_⟩, fun l hl => ?_⟩
  · rw [h2 l hl, Group.issuing_congr (g := s.grp) (by rw [k2]) (by rw [k2]),
      Group.pc_congr (g := s.grp) (by rw [k2]) (by rw [k2])]
    rw [k2]; rfl
  · rw [h3, k2]
  · rw [h4 a ha hb, kv]
  · rw [h5 a (by simp), k3 a ha]
  · intro i hi
    rw [h6 i hi, k2]
  · intro hn
    rw [h7 (by rw [k2]; exact hn), k2]
  · have := h8 l hl
    simp only [acts_lastS] at this
    simpa only [Group.lane, kv] using this

/-! ### Comparisons -/

theorem sum_bits (b : Nat → Bool) (n : Nat) :
    (List.range n).foldl (fun a l => a + if b l then 2 ^ l else 0) 0 < 2 ^ n
      ∧ ∀ i, ((List.range n).foldl (fun a l => a + if b l then 2 ^ l else 0) 0).testBit i = (decide (i < n) && b i) := by
  induction n with
  | zero => simp
  | succ n ih =>
    rw [List.range_succ, List.foldl_append]
    simp only [List.foldl_cons, List.foldl_nil]
    generalize (List.range n).foldl (fun a l => a + if b l then 2 ^ l else 0) 0 = x at ih ⊢
    obtain ⟨hx, hb⟩ := ih
    by_cases hn : b n
    · simp only [hn, if_true]
      refine ⟨by rw [Nat.pow_succ]; omega, fun i => ?_⟩
      rw [Nat.add_comm]
      by_cases hi : i = n
      · subst hi
        rw [Nat.testBit_two_pow_add_eq, hb]
        simp [hn]
      · by_cases hlt : i < n
        · rw [Nat.testBit_two_pow_add_gt hlt, hb]
          simp [hlt, Nat.lt_succ_of_lt hlt]
        · have h1 : 2 ^ n + x < 2 ^ i := Nat.lt_of_lt_of_le (by omega : 2 ^ n + x < 2 ^ (n + 1))
            (Nat.pow_le_pow_right (by omega) (by omega))
          rw [Nat.testBit_lt_two_pow h1]
          have : ¬ i < n + 1 := by omega
          simp [this]
    · simp only [hn, Bool.false_eq_true, if_false, Nat.add_zero]
      refine ⟨by rw [Nat.pow_succ]; omega, fun i => ?_⟩
      rw [hb]
      by_cases hi : i = n
      · subst hi; simp [hn]
      · have : (i < n + 1) = (i < n) := by simp; omega
        simp [this]

/-- The bits of a merge: those of `f` in the lanes of `m`, the old ones elsewhere. -/
theorem mergeBits_bit (m : List Nat) (f : Nat → Bool) (old : BitVec 32) (l : Nat) (h : l < 32) :
    (mergeBits m f old).getLsbD l = if m.contains l then f l else old.getLsbD l := by
  unfold mergeBits allLanes
  rw [BitVec.getLsbD_ofNat, (sum_bits _ 32).2]
  simp [h]

/-- The form of a comparison. -/
theorem cmpOp_result (s : State) (q : Fin 4) (lastV : List VReg) (p : KReg) (f : Group → Nat → Bool × Flags) :
    CompareResult s (.next (s.cmpOp q lastV p f)) p q lastV (f s.grp) := by
  obtain ⟨h1, h2, h3⟩ := releaseV_all lastV s
  generalize hs1 : lastV.foldl State.releaseV s = s1 at h1 h2 h3
  have e : ∀ x, s1.grp.setK p x = { s.grp with v := s1.grp.v, k := (s1.grp.setK p x).k } := fun x => by
    rw [Group.setK]; split <;> (simp only; rw [h2])
  have hk : ∀ r, s1.grp.kBits r = s.grp.kBits r := fun r => by rw [h2]; rfl
  have step : s.cmpOp q lastV p f = (s1.setGrp ((s1.grp.setK p (mergeBits (s.grp.actors q) (fun l => (f s.grp l).1)
      (s1.grp.kBits p))).raiseFlags s.grp.pc.toNat ((s.grp.actors q).map (fun l => (l, (f s.grp l).2))))).advance := by
    rw [← hs1]; rfl
  refine ⟨_, rfl, ?_, ?_, ?_, ?_, ?_, ?_, ?_, ?_⟩ <;> rw [step]
  · exact (h1.trans (OnlyGroup.setGrp _ _)).trans (OnlyGroup.advance _)
  · intro l hl
    simp only [State.grp_advance, State.grp_setGrp]
    refine Group.lanePc_advance_congr ?_ ?_ l hl <;> rw [raiseFlags_frame, e]
  · simp only [State.grp_advance, State.grp_setGrp]
    rw [Group.advance_frame, raiseFlags_frame]
    simp only
    rw [e]
  · intro r hr
    simp only [State.grp_advance, State.grp_setGrp, Group.getV_advance]
    rw [raiseFlags_frame, e]
    exact h3 r hr
  · intro r hr
    simp only [State.grp_advance, State.grp_setGrp, Group.kBits_advance, kBits_raiseFlags]
    rw [Group.kBits_setK, if_neg hr, hk]
  · intro l hl
    simp only [State.grp_advance, State.grp_setGrp, Group.getK_advance]
    rw [Group.getK_eq_kBits _ _ _ hl, kBits_raiseFlags, Group.kBits_setK, if_pos rfl, Group.getK_eq_kBits _ _ _ hl]
    by_cases hp : p.val = 0
    · simp only [if_pos hp, BitVec.getLsbD_allOnes, hl, decide_true]
    · simp only [if_neg hp, mergeBits_bit _ _ _ _ hl, s.grp.contains_actors q l hl, hk]
  · intro i hi
    simp only [State.grp_advance, State.grp_setGrp]
    rw [e]
    exact raiseFlags_raised _ _ _ _ i hi
  · intro hn
    simp only [State.grp_advance, State.grp_setGrp]
    rw [e]
    exact raiseFlags_fpw _ _ _ _ hn

/-! ### Uniform forms -/

/-- A uniform write that follows releases of registers. -/
theorem uniform_write {s s1 : State} {d : SReg} {lastV : List VReg} {lastS : List SReg} (x : DWord)
    (h1 : OnlyGroup s s1) (h2 : s1.grp = { s.grp with v := s1.grp.v, s := s1.grp.s })
    (hv : ∀ r, r ∉ lastV → s1.grp.getV r = s.grp.getV r) (hs : ∀ r, r ∉ lastS → s1.grp.getS r = s.grp.getS r) :
    UniformResult s (.next (s1.setGrp (s1.grp.setS d x)).advance) d lastV lastS x := by
  have e : s1.grp.setS d x = { s.grp with v := s1.grp.v, s := (s1.grp.setS d x).s } := by
    rw [Group.setS]; split <;> (simp only; rw [h2])
  refine ⟨_, rfl, ⟨(h1.trans (OnlyGroup.setGrp _ _)).trans (OnlyGroup.advance _), ?_, ?_, ?_, ?_⟩, ?_⟩
  · intro l hl
    simp only [State.grp_advance, State.grp_setGrp]
    refine Group.lanePc_advance_congr ?_ ?_ l hl <;> rw [e]
  · simp only [State.grp_advance, State.grp_setGrp]
    rw [Group.advance_frame, e]
  · intro r hr
    simp only [State.grp_advance, State.grp_setGrp, Group.getV_advance]
    rw [e]
    exact hv r hr
  · intro r hr hr'
    simp only [State.grp_advance, State.grp_setGrp, Group.getS_advance]
    rw [Group.getS_setS_ne _ _ hr, hs r hr']
  · simp only [State.grp_advance, State.grp_setGrp, Group.getS_advance]
    rw [Group.getS_setS, if_pos rfl]

/-- The form of a uniform instruction. -/
theorem uniOp_result (s : State) (lastS : List SReg) (d : SReg) (f : Group → DWord) :
    UniformResult s (.next (s.uniOp lastS d f)) d [] lastS (f s.grp) := by
  obtain ⟨h1, h2, h3⟩ := releaseS_all lastS s
  exact uniform_write _ h1 (by rw [h2]) (fun r _ => by rw [h2]; rfl) h3

/-- The form of an instruction that reads a lane register into a uniform register. -/
theorem laneToUni_result (s : State) (y : Bool) (a : VReg) (d : SReg) (f : Group → DWord) :
    UniformResult s (.next (s.laneToUni y a d f)) d (marked [(y, a)]) [] (f s.grp) := by
  obtain ⟨h1, h2, h3⟩ := releaseV_all (marked [(y, a)]) s
  unfold State.laneToUni
  rw [lastV_eq]
  exact uniform_write _ h1 (by rw [h2]) h3 (fun r _ => by rw [h2]; rfl)

end Sys2Proof.Claims
end

