-- ==== Sys2Proof/Laws/Memory.lean ====
section
/-!
SUPPORT. The canonical form of memory: reset has it, and every operation that writes memory or a window keeps it. Each
operation over the device's memory is shown once to change no byte, or to keep the form.
-/

namespace Sys2Proof.Machine

open Sys2Proof

/-! ### Reset -/

theorem reset_memWf : State.reset.memWf = true := rfl
theorem reset_windowsWf : State.reset.windowsWf = true := rfl

/-! ### Memory lists -/

/-- Bytes taken out of a memory leave it in canonical form. -/
theorem Memory.wfFrom_filter {lo : Nat} {m : Memory} (p : Host.Cell → Bool) (h : Memory.wfFrom lo m = true) :
    Memory.wfFrom lo (m.filter p) = true := by
  induction m generalizing lo with
  | nil => rfl
  | cons c t ih =>
    obtain ⟨b, v⟩ := c
    simp only [Memory.wfFrom, Bool.and_eq_true, decide_eq_true_eq] at h
    by_cases hp : p (b, v) = true
    · rw [List.filter_cons_of_pos hp]
      simp only [Memory.wfFrom, Bool.and_eq_true, decide_eq_true_eq]
      exact ⟨h.1, ih h.2⟩
    · rw [List.filter_cons_of_neg hp]
      exact Memory.wfFrom_mono (ih h.2) (by omega)

theorem Memory.wf_filter {m : Memory} (p : Host.Cell → Bool) (h : m.wf = true) :
    Memory.wf (m.filter p) = true := Memory.wfFrom_filter p h

/-- Reading after a list of writes: the last write to an address, else what was there. -/
theorem Memory.read_writeList {m : Memory} (l : List (Nat × Byte)) (h : m.wf = true) (a : Nat) :
    (m.writeList l).read a = ((l.reverse.find? (fun p => p.1 == a)).map (·.2)).getD (m.read a) := by
  induction l generalizing m with
  | nil => rfl
  | cons p t ih =>
    obtain ⟨b, v⟩ := p
    rw [Memory.writeList, ih (Memory.wf_write b v h), List.reverse_cons, List.find?_append]
    cases hf : t.reverse.find? (fun p => p.1 == a) with
    | some q => rfl
    | none =>
      rw [Memory.read_write h]
      by_cases hb : a = b
      · subst hb; simp
      · simp [hb, Ne.symm hb]

/-! ### Publications keep the device's memory in form -/

theorem memWf_congr {s t : State} (h : t.mem = s.mem) : t.memWf = s.memWf := by rw [State.memWf, h]; rfl

theorem mem_startRebase (s : State) : s.startRebase.mem = s.mem := rfl

theorem mem_noteTime (s : State) (t : Nat) : (s.noteTime t).mem = s.mem := by
  unfold State.noteTime; split <;> rfl

theorem mem_dropCopies (s : State) (f : Copy → Bool) (c : Nat → Copy → Bool) : (s.dropCopies f c).mem = s.mem := rfl

/-- A run of operations that each keep memory keeps it. -/
theorem mem_foldl {α : Type} (f : State → α → State) (h : ∀ s a, (f s a).mem = s.mem) (l : List α) (s : State) :
    (l.foldl f s).mem = s.mem := by
  induction l generalizing s with
  | nil => rfl
  | cons a t ih => exact (ih _).trans (h s a)

theorem mem_spillLine (s : State) (pa : Nat) : (s.spillLine pa).mem = s.mem := by
  unfold State.spillLine
  refine (mem_foldl _ ?_ _ _).trans rfl
  intro s g
  simp only
  split <;> rfl

/-- A line that leaves its slice leaves its bytes in memory as they are (R4, R224). -/
theorem mem_evictLine (s : State) (v : Nat) : (s.evictLine v).mem = s.mem := by
  unfold State.evictLine
  split
  · rfl
  · dsimp only
    split
    · rfl
    · exact mem_spillLine s v

theorem mem_evictHome (s : State) (pa : Nat) (v : Option Nat) : (s.evictHome pa v).mem = s.mem := by
  unfold State.evictHome
  dsimp only
  split
  · exact mem_evictLine _ _
  · split
    · rfl
    · split
      · rfl
      · exact mem_evictLine _ _

theorem mem_dropPage (s : State) (pa size : Nat) : (s.dropPage pa size).mem = s.mem := mem_foldl _ mem_evictLine _ _

theorem mem_dropMtb (s : State) (pa : Nat) : (s.dropMtb pa).mem = s.mem :=
  (mem_foldl (fun s (e : MtbEntry) => s.dropPage e.pa e.size) (fun s e => mem_dropPage s e.pa e.size) _ _).trans rfl

theorem mem_noteWalks (s : State) (l1 : Nat) (vas : List Nat) : (s.noteWalks l1 vas).mem = s.mem := by
  refine mem_foldl _ ?_ _ _
  intro s va
  split <;> rfl

/-- Links that wake leave memory as it is (R250). -/
theorem mem_wakeRoute (s : State) (a b : Nat) : (s.wakeRoute a b).mem = s.mem := by
  refine mem_foldl _ ?_ _ _
  intro s l
  dsimp only
  split <;> rfl

theorem mem_wakeHomes (s : State) (a : Nat) (pas : List Nat) : (s.wakeHomes a pas).mem = s.mem :=
  mem_foldl (fun s d => s.wakeRoute a d) (fun s d => mem_wakeRoute s a d) _ _

theorem mem_wakeHolders (s : State) (pa line : Nat) (who : Publisher) : (s.wakeHolders pa line who).mem = s.mem :=
  mem_foldl (fun s d => s.wakeRoute (homeOf pa) d) (fun s d => mem_wakeRoute s (homeOf pa) d) _ _

theorem memWf_mergeHome {s : State} (ls : List Landing) (w : Nat) (who : Publisher) (pa : Nat) (h : s.memWf = true) :
    (s.mergeHome ls w who pa).memWf = true := by
  unfold State.mergeHome
  simp only
  split
  · rw [memWf_congr (mem_dropMtb _ _)]
    rw [State.invalidate, memWf_congr (mem_dropCopies _ _ _), memWf_congr (mem_wakeHolders _ _ _ _)]
    exact Memory.wf_writeList _ h
  · exact Memory.wf_writeList _ h

theorem mem_mergeShadow (s : State) (ls : List Landing) (g w line : Nat) (who : Publisher) :
    (s.mergeShadow ls g w line who).mem = s.mem := by
  unfold State.mergeShadow
  simp only
  split <;> rfl

/-- A publication keeps the canonical form of memory. -/
theorem memWf_publishTo {s : State} (tag : Option Nat) (ls : List Landing) (t : Nat) (who : Publisher)
    (h : s.memWf = true) : (s.publishTo tag ls t who).1.memWf = true := by
  unfold State.publishTo
  simp only
  rw [memWf_congr (mem_noteTime _ _)]
  have home : ∀ (ls : List Landing) (l : List Nat) (s : State) (w : Nat), s.memWf = true →
      (l.foldl (fun s pa => s.mergeHome ls w who pa) s).memWf = true := by
    intro ls l
    induction l with
    | nil => exact fun _ _ h => h
    | cons a t ih => exact fun s w h => ih _ w (memWf_mergeHome ls w who a h)
  have shadow : ∀ (ls : List Landing) (l : List Nat) (s : State) (g w : Nat), s.memWf = true →
      (l.foldl (fun s line => s.mergeShadow ls g w line who) s).memWf = true := by
    intro ls l
    induction l with
    | nil => exact fun _ _ _ h => h
    | cons a t ih => exact fun s g w h => ih _ g w ((memWf_congr (mem_mergeShadow s ls g w a who)).trans h)
  exact shadow _ _ _ _ _ (home _ _ _ _ h)

theorem memWf_publish {s : State} (l1 : Nat) (tag : Option Nat) (bs : List (Nat × Byte)) (t : Nat) (who : Publisher)
    (h : s.memWf = true) : (s.publish l1 tag bs t who).1.memWf = true :=
  memWf_publishTo _ _ _ _ ((memWf_congr (mem_noteWalks s l1 _)).trans h)

theorem memWf_publishJ {s : State} (l1 : Nat) (tag : Option Nat) (bs : List (Nat × Byte)) (h : s.memWf = true) :
    (s.publishJ l1 tag bs).1.memWf = true :=
  memWf_publish l1 tag bs s.dev.j none ((memWf_congr (mem_wakeHomes s 2 _)).trans h)

theorem memWf_publishPa {s : State} (bs : List (Nat × Byte)) (h : s.memWf = true) : (s.publishPa bs).1.memWf = true :=
  memWf_publishTo _ _ s.dev.j none ((memWf_congr (mem_wakeHomes s 2 _)).trans h)

theorem memWf_atomicAt {s : State} (l1 : Nat) (tag : Option Nat) (va pa k : Nat) (op : AOp) (b c t : Nat) (who : Publisher)
    (h : s.memWf = true) : (s.atomicAt l1 tag va pa k op b c t who).1.memWf = true := memWf_publish _ _ _ _ _ h

theorem memWf_putCode {s : State} (pa w : Nat) (h : s.memWf = true) : (s.putCode pa w).memWf = true :=
  Memory.wf_writeN _ _ h

/-! ### Windows -/

/-- A team whose window is in form joins teams whose windows are. -/
theorem windowsWf_setTeamOf {s : State} (t : Nat) (x : Team) (h : s.windowsWf = true) (hx : x.ls.wf = true) :
    (s.setTeamOf t x).windowsWf = true := by
  have key : ∀ l : Tab Team, l.all (fun p => p.2.ls.wf) = true → (Tab.set l t x).all (fun p => p.2.ls.wf) = true := by
    intro l
    induction l with
    | nil => intro _; simp [Tab.set, hx]
    | cons p r ih =>
      obtain ⟨j, b⟩ := p
      intro hl
      simp only [List.all_cons, Bool.and_eq_true] at hl
      simp only [Tab.set]
      split
      · simp only [List.all_cons, Bool.and_eq_true]; exact ⟨hx, hl.2⟩
      · simp only [List.all_cons, Bool.and_eq_true]; exact ⟨hl.1, ih hl.2⟩
  exact key s.teams h

/-- The window of any team is in form. -/
theorem windowsWf_teamOf {s : State} (t : Nat) (h : s.windowsWf = true) : (s.teamOf t).ls.wf = true := by
  have key : ∀ l : Tab Team, l.all (fun p => p.2.ls.wf) = true → (Tab.get Team.empty l t).ls.wf = true := by
    intro l
    induction l with
    | nil => intro _; rfl
    | cons p r ih =>
      obtain ⟨j, b⟩ := p
      intro hl
      simp only [List.all_cons, Bool.and_eq_true] at hl
      by_cases hj : j = t
      · simpa [Tab.get, Tab.find?, hj] using hl.1
      · simpa [Tab.get, Tab.find?, hj] using ih hl.2
  exact key s.teams h

/-! ### Page tables -/

/-- A field of an address above its place in a 4 KiB page is the page's. -/
theorem bitsOf_page (va vb hi lo : Nat) (h : va / 2 ^ 12 = vb / 2 ^ 12) (hl : 12 ≤ lo) : bitsOf va hi lo = bitsOf vb hi lo := by
  have e : ∀ x, x / 2 ^ lo = x / 2 ^ 12 / 2 ^ (lo - 12) := fun x => by
    rw [Nat.div_div_eq_div_mul, ← Nat.pow_add, Nat.add_sub_cancel' hl]
  unfold bitsOf
  rw [e va, e vb, h]

/-- Addresses of one 4 KiB page walk to the same leaf (R272, R273). -/
theorem State.walk_page (s : State) (l1 va vb : Nat) (h : va / 2 ^ 12 = vb / 2 ^ 12) : s.walk l1 va = s.walk l1 vb := by
  have e : (2 ^ 52 ≤ va) = (2 ^ 52 ≤ vb) := propext (by omega)
  unfold State.walk State.walkTable
  rw [bitsOf_page va vb 51 42 h (by decide), bitsOf_page va vb 41 29 h (by decide), bitsOf_page va vb 28 16 h (by decide),
    bitsOf_page va vb 15 12 h (by decide)]
  simp only [e]

/-- A store to a window keeps every window in form. -/
theorem windowsWf_windowWrite {s : State} (t off : Nat) (bs : List Byte) (h : s.windowsWf = true) :
    (s.windowWrite t off bs).windowsWf = true :=
  windowsWf_setTeamOf (s := s) t _ h (Memory.wf_writeN off bs (windowsWf_teamOf t h))

end Sys2Proof.Machine
end

