-- ==== Sys2Proof/Laws/PerInstr.lean ====
section
/-!
SUPPORT. For every instruction, one lemma about its word: it has 32 bits (R38). An event of the device has no word.
-/

namespace Sys2Proof.Laws.WordForm

open Sys2Proof

/-- A word of the instruction has 32 bits. -/
def Statement (i : Instr) : Prop := ∀ w, encode i = some w → w < 2 ^ 32

theorem noWord {i : Instr} (h : encode i = none) : Statement i := fun w k => by rw [h] at k; cases k

theorem word {i : Instr} {n : Nat} (h : encode i = some n) (b : n < 2 ^ 32) : Statement i := fun w k => by
  rw [h] at k; cases k; exact b

theorem bit_le (b : Bool) : b.toNat ≤ 1 := by cases b <;> decide

theorem Cond.code_le (x : Cond) : Sys2Proof.Cond.code x ≤ 7 := by cases x <;> decide
theorem BsCond.code_le (x : BsCond) : Sys2Proof.BsCond.code x ≤ 5 := by cases x <;> decide
theorem BkMode.code_le (x : BkMode) : Sys2Proof.BkMode.code x ≤ 3 := by cases x <;> decide
theorem LSize.code_le (x : LSize) : Sys2Proof.LSize.code x ≤ 3 := by cases x <;> decide
theorem USize.code_le (x : USize) : Sys2Proof.USize.code x ≤ 3 := by cases x <;> decide
theorem Scope.code_le (x : Scope) : Sys2Proof.Scope.code x ≤ 3 := by cases x <;> decide
theorem UScope.code_le (x : UScope) : Sys2Proof.UScope.code x ≤ 2 := by cases x <;> decide
theorem SideMask.code_le (x : SideMask) : Sys2Proof.SideMask.code x ≤ 3 := by cases x <;> decide

end Sys2Proof.Laws.WordForm

open Sys2Proof Sys2Proof.Laws.WordForm

theorem Sys2Proof.Laws.WordForm.iadd (a0 : VReg) (a1 : VReg) (a2 : VReg) (a3 : Bool) (a4 : Bool) (a5 : Fin 4) : Statement (.iadd a0 a1 a2 a3 a4 a5) := word rfl (by
  have := a0.isLt
  have := a1.isLt
  have := a2.isLt
  have := bit_le a3
  have := bit_le a4
  have := a5.isLt
  simp only [put]; omega)
theorem Sys2Proof.Laws.WordForm.isub (a0 : VReg) (a1 : VReg) (a2 : VReg) (a3 : Bool) (a4 : Bool) (a5 : Fin 4) : Statement (.isub a0 a1 a2 a3 a4 a5) := word rfl (by
  have := a0.isLt
  have := a1.isLt
  have := a2.isLt
  have := bit_le a3
  have := bit_le a4
  have := a5.isLt
  simp only [put]; omega)
theorem Sys2Proof.Laws.WordForm.imul (a0 : VReg) (a1 : VReg) (a2 : VReg) (a3 : Bool) (a4 : Bool) (a5 : Fin 4) : Statement (.imul a0 a1 a2 a3 a4 a5) := word rfl (by
  have := a0.isLt
  have := a1.isLt
  have := a2.isLt
  have := bit_le a3
  have := bit_le a4
  have := a5.isLt
  simp only [put]; omega)
theorem Sys2Proof.Laws.WordForm.imulh (a0 : VReg) (a1 : VReg) (a2 : VReg) (a3 : Bool) (a4 : Bool) (a5 : Fin 4) : Statement (.imulh a0 a1 a2 a3 a4 a5) := word rfl (by
  have := a0.isLt
  have := a1.isLt
  have := a2.isLt
  have := bit_le a3
  have := bit_le a4
  have := a5.isLt
  simp only [put]; omega)
theorem Sys2Proof.Laws.WordForm.nmulhLane (a0 : VReg) (a1 : VReg) (a2 : VReg) (a3 : Bool) (a4 : Bool) (a5 : Fin 4) : Statement (.nmulhLane a0 a1 a2 a3 a4 a5) := word rfl (by
  have := a0.isLt
  have := a1.isLt
  have := a2.isLt
  have := bit_le a3
  have := bit_le a4
  have := a5.isLt
  simp only [put]; omega)
theorem Sys2Proof.Laws.WordForm.imad (a0 : VReg) (a1 : VReg) (a2 : VReg) (a3 : Bool) (a4 : Bool) (a5 : Fin 4) : Statement (.imad a0 a1 a2 a3 a4 a5) := word rfl (by
  have := a0.isLt
  have := a1.isLt
  have := a2.isLt
  have := bit_le a3
  have := bit_le a4
  have := a5.isLt
  simp only [put]; omega)
theorem Sys2Proof.Laws.WordForm.imin (a0 : VReg) (a1 : VReg) (a2 : VReg) (a3 : Bool) (a4 : Bool) (a5 : Fin 4) : Statement (.imin a0 a1 a2 a3 a4 a5) := word rfl (by
  have := a0.isLt
  have := a1.isLt
  have := a2.isLt
  have := bit_le a3
  have := bit_le a4
  have := a5.isLt
  simp only [put]; omega)
theorem Sys2Proof.Laws.WordForm.imax (a0 : VReg) (a1 : VReg) (a2 : VReg) (a3 : Bool) (a4 : Bool) (a5 : Fin 4) : Statement (.imax a0 a1 a2 a3 a4 a5) := word rfl (by
  have := a0.isLt
  have := a1.isLt
  have := a2.isLt
  have := bit_le a3
  have := bit_le a4
  have := a5.isLt
  simp only [put]; omega)
theorem Sys2Proof.Laws.WordForm.nminLane (a0 : VReg) (a1 : VReg) (a2 : VReg) (a3 : Bool) (a4 : Bool) (a5 : Fin 4) : Statement (.nminLane a0 a1 a2 a3 a4 a5) := word rfl (by
  have := a0.isLt
  have := a1.isLt
  have := a2.isLt
  have := bit_le a3
  have := bit_le a4
  have := a5.isLt
  simp only [put]; omega)
theorem Sys2Proof.Laws.WordForm.nmaxLane (a0 : VReg) (a1 : VReg) (a2 : VReg) (a3 : Bool) (a4 : Bool) (a5 : Fin 4) : Statement (.nmaxLane a0 a1 a2 a3 a4 a5) := word rfl (by
  have := a0.isLt
  have := a1.isLt
  have := a2.isLt
  have := bit_le a3
  have := bit_le a4
  have := a5.isLt
  simp only [put]; omega)
theorem Sys2Proof.Laws.WordForm.andLane (a0 : VReg) (a1 : VReg) (a2 : VReg) (a3 : Bool) (a4 : Bool) (a5 : Fin 4) : Statement (.andLane a0 a1 a2 a3 a4 a5) := word rfl (by
  have := a0.isLt
  have := a1.isLt
  have := a2.isLt
  have := bit_le a3
  have := bit_le a4
  have := a5.isLt
  simp only [put]; omega)
theorem Sys2Proof.Laws.WordForm.orLane (a0 : VReg) (a1 : VReg) (a2 : VReg) (a3 : Bool) (a4 : Bool) (a5 : Fin 4) : Statement (.orLane a0 a1 a2 a3 a4 a5) := word rfl (by
  have := a0.isLt
  have := a1.isLt
  have := a2.isLt
  have := bit_le a3
  have := bit_le a4
  have := a5.isLt
  simp only [put]; omega)
theorem Sys2Proof.Laws.WordForm.xorLane (a0 : VReg) (a1 : VReg) (a2 : VReg) (a3 : Bool) (a4 : Bool) (a5 : Fin 4) : Statement (.xorLane a0 a1 a2 a3 a4 a5) := word rfl (by
  have := a0.isLt
  have := a1.isLt
  have := a2.isLt
  have := bit_le a3
  have := bit_le a4
  have := a5.isLt
  simp only [put]; omega)
theorem Sys2Proof.Laws.WordForm.andnLane (a0 : VReg) (a1 : VReg) (a2 : VReg) (a3 : Bool) (a4 : Bool) (a5 : Fin 4) : Statement (.andnLane a0 a1 a2 a3 a4 a5) := word rfl (by
  have := a0.isLt
  have := a1.isLt
  have := a2.isLt
  have := bit_le a3
  have := bit_le a4
  have := a5.isLt
  simp only [put]; omega)
theorem Sys2Proof.Laws.WordForm.shlLane (a0 : VReg) (a1 : VReg) (a2 : VReg) (a3 : Bool) (a4 : Bool) (a5 : Fin 4) : Statement (.shlLane a0 a1 a2 a3 a4 a5) := word rfl (by
  have := a0.isLt
  have := a1.isLt
  have := a2.isLt
  have := bit_le a3
  have := bit_le a4
  have := a5.isLt
  simp only [put]; omega)
theorem Sys2Proof.Laws.WordForm.shrLane (a0 : VReg) (a1 : VReg) (a2 : VReg) (a3 : Bool) (a4 : Bool) (a5 : Fin 4) : Statement (.shrLane a0 a1 a2 a3 a4 a5) := word rfl (by
  have := a0.isLt
  have := a1.isLt
  have := a2.isLt
  have := bit_le a3
  have := bit_le a4
  have := a5.isLt
  simp only [put]; omega)
theorem Sys2Proof.Laws.WordForm.sarLane (a0 : VReg) (a1 : VReg) (a2 : VReg) (a3 : Bool) (a4 : Bool) (a5 : Fin 4) : Statement (.sarLane a0 a1 a2 a3 a4 a5) := word rfl (by
  have := a0.isLt
  have := a1.isLt
  have := a2.isLt
  have := bit_le a3
  have := bit_le a4
  have := a5.isLt
  simp only [put]; omega)
theorem Sys2Proof.Laws.WordForm.hadd2 (a0 : VReg) (a1 : VReg) (a2 : VReg) (a3 : Bool) (a4 : Bool) (a5 : Fin 4) : Statement (.hadd2 a0 a1 a2 a3 a4 a5) := word rfl (by
  have := a0.isLt
  have := a1.isLt
  have := a2.isLt
  have := bit_le a3
  have := bit_le a4
  have := a5.isLt
  simp only [put]; omega)
theorem Sys2Proof.Laws.WordForm.hsub2 (a0 : VReg) (a1 : VReg) (a2 : VReg) (a3 : Bool) (a4 : Bool) (a5 : Fin 4) : Statement (.hsub2 a0 a1 a2 a3 a4 a5) := word rfl (by
  have := a0.isLt
  have := a1.isLt
  have := a2.isLt
  have := bit_le a3
  have := bit_le a4
  have := a5.isLt
  simp only [put]; omega)
theorem Sys2Proof.Laws.WordForm.hmin2 (a0 : VReg) (a1 : VReg) (a2 : VReg) (a3 : Bool) (a4 : Bool) (a5 : Fin 4) : Statement (.hmin2 a0 a1 a2 a3 a4 a5) := word rfl (by
  have := a0.isLt
  have := a1.isLt
  have := a2.isLt
  have := bit_le a3
  have := bit_le a4
  have := a5.isLt
  simp only [put]; omega)
theorem Sys2Proof.Laws.WordForm.hmax2 (a0 : VReg) (a1 : VReg) (a2 : VReg) (a3 : Bool) (a4 : Bool) (a5 : Fin 4) : Statement (.hmax2 a0 a1 a2 a3 a4 a5) := word rfl (by
  have := a0.isLt
  have := a1.isLt
  have := a2.isLt
  have := bit_le a3
  have := bit_le a4
  have := a5.isLt
  simp only [put]; omega)
theorem Sys2Proof.Laws.WordForm.hclt2 (a0 : VReg) (a1 : VReg) (a2 : VReg) (a3 : Bool) (a4 : Bool) (a5 : Fin 4) : Statement (.hclt2 a0 a1 a2 a3 a4 a5) := word rfl (by
  have := a0.isLt
  have := a1.isLt
  have := a2.isLt
  have := bit_le a3
  have := bit_le a4
  have := a5.isLt
  simp only [put]; omega)
theorem Sys2Proof.Laws.WordForm.icmp (a0 : KReg) (a1 : Cond) (a2 : VReg) (a3 : VReg) (a4 : Bool) (a5 : Bool) (a6 : Fin 4) : Statement (.icmp a0 a1 a2 a3 a4 a5 a6) := word rfl (by
  have := a0.isLt
  have := Cond.code_le a1
  have := a2.isLt
  have := a3.isLt
  have := bit_le a4
  have := bit_le a5
  have := a6.isLt
  simp only [put]; omega)
theorem Sys2Proof.Laws.WordForm.ncmp (a0 : KReg) (a1 : Cond) (a2 : VReg) (a3 : VReg) (a4 : Bool) (a5 : Bool) (a6 : Fin 4) : Statement (.ncmp a0 a1 a2 a3 a4 a5 a6) := word rfl (by
  have := a0.isLt
  have := Cond.code_le a1
  have := a2.isLt
  have := a3.isLt
  have := bit_le a4
  have := bit_le a5
  have := a6.isLt
  simp only [put]; omega)
theorem Sys2Proof.Laws.WordForm.fcmp (a0 : KReg) (a1 : Cond) (a2 : VReg) (a3 : VReg) (a4 : Bool) (a5 : Bool) (a6 : Fin 4) : Statement (.fcmp a0 a1 a2 a3 a4 a5 a6) := word rfl (by
  have := a0.isLt
  have := Cond.code_le a1
  have := a2.isLt
  have := a3.isLt
  have := bit_le a4
  have := bit_le a5
  have := a6.isLt
  simp only [put]; omega)
theorem Sys2Proof.Laws.WordForm.sel (a0 : VReg) (a1 : VReg) (a2 : VReg) (a3 : Bool) (a4 : Bool) (a5 : Fin 4) : Statement (.sel a0 a1 a2 a3 a4 a5) := word rfl (by
  have := a0.isLt
  have := a1.isLt
  have := a2.isLt
  have := bit_le a3
  have := bit_le a4
  have := a5.isLt
  simp only [put]; omega)
theorem Sys2Proof.Laws.WordForm.fadd (a0 : VReg) (a1 : VReg) (a2 : VReg) (a3 : Bool) (a4 : Bool) (a5 : Fin 4) : Statement (.fadd a0 a1 a2 a3 a4 a5) := word rfl (by
  have := a0.isLt
  have := a1.isLt
  have := a2.isLt
  have := bit_le a3
  have := bit_le a4
  have := a5.isLt
  simp only [put]; omega)
theorem Sys2Proof.Laws.WordForm.fsub (a0 : VReg) (a1 : VReg) (a2 : VReg) (a3 : Bool) (a4 : Bool) (a5 : Fin 4) : Statement (.fsub a0 a1 a2 a3 a4 a5) := word rfl (by
  have := a0.isLt
  have := a1.isLt
  have := a2.isLt
  have := bit_le a3
  have := bit_le a4
  have := a5.isLt
  simp only [put]; omega)
theorem Sys2Proof.Laws.WordForm.fmul (a0 : VReg) (a1 : VReg) (a2 : VReg) (a3 : Bool) (a4 : Bool) (a5 : Fin 4) : Statement (.fmul a0 a1 a2 a3 a4 a5) := word rfl (by
  have := a0.isLt
  have := a1.isLt
  have := a2.isLt
  have := bit_le a3
  have := bit_le a4
  have := a5.isLt
  simp only [put]; omega)
theorem Sys2Proof.Laws.WordForm.ffma (a0 : VReg) (a1 : VReg) (a2 : VReg) (a3 : Bool) (a4 : Bool) (a5 : Fin 4) : Statement (.ffma a0 a1 a2 a3 a4 a5) := word rfl (by
  have := a0.isLt
  have := a1.isLt
  have := a2.isLt
  have := bit_le a3
  have := bit_le a4
  have := a5.isLt
  simp only [put]; omega)
theorem Sys2Proof.Laws.WordForm.fmin (a0 : VReg) (a1 : VReg) (a2 : VReg) (a3 : Bool) (a4 : Bool) (a5 : Fin 4) : Statement (.fmin a0 a1 a2 a3 a4 a5) := word rfl (by
  have := a0.isLt
  have := a1.isLt
  have := a2.isLt
  have := bit_le a3
  have := bit_le a4
  have := a5.isLt
  simp only [put]; omega)
theorem Sys2Proof.Laws.WordForm.fmax (a0 : VReg) (a1 : VReg) (a2 : VReg) (a3 : Bool) (a4 : Bool) (a5 : Fin 4) : Statement (.fmax a0 a1 a2 a3 a4 a5) := word rfl (by
  have := a0.isLt
  have := a1.isLt
  have := a2.isLt
  have := bit_le a3
  have := bit_le a4
  have := a5.isLt
  simp only [put]; omega)
theorem Sys2Proof.Laws.WordForm.hfma2 (a0 : VReg) (a1 : VReg) (a2 : VReg) (a3 : Bool) (a4 : Bool) (a5 : Fin 4) : Statement (.hfma2 a0 a1 a2 a3 a4 a5) := word rfl (by
  have := a0.isLt
  have := a1.isLt
  have := a2.isLt
  have := bit_le a3
  have := bit_le a4
  have := a5.isLt
  simp only [put]; omega)
theorem Sys2Proof.Laws.WordForm.bfma2 (a0 : VReg) (a1 : VReg) (a2 : VReg) (a3 : Bool) (a4 : Bool) (a5 : Fin 4) : Statement (.bfma2 a0 a1 a2 a3 a4 a5) := word rfl (by
  have := a0.isLt
  have := a1.isLt
  have := a2.isLt
  have := bit_le a3
  have := bit_le a4
  have := a5.isLt
  simp only [put]; omega)
theorem Sys2Proof.Laws.WordForm.shfl (a0 : VReg) (a1 : VReg) (a2 : VReg) (a3 : Bool) (a4 : Bool) (a5 : Fin 4) : Statement (.shfl a0 a1 a2 a3 a4 a5) := word rfl (by
  have := a0.isLt
  have := a1.isLt
  have := a2.isLt
  have := bit_le a3
  have := bit_le a4
  have := a5.isLt
  simp only [put]; omega)
theorem Sys2Proof.Laws.WordForm.shfliIndex (a0 : VReg) (a1 : VReg) (a2 : BitVec 5) (a3 : Bool) (a4 : Fin 4) : Statement (.shfliIndex a0 a1 a2 a3 a4) := word rfl (by
  have := a0.isLt
  have := a1.isLt
  have := a2.isLt
  have := bit_le a3
  have := a4.isLt
  simp only [put]; omega)
theorem Sys2Proof.Laws.WordForm.shfliUp (a0 : VReg) (a1 : VReg) (a2 : BitVec 5) (a3 : Bool) (a4 : Fin 4) : Statement (.shfliUp a0 a1 a2 a3 a4) := word rfl (by
  have := a0.isLt
  have := a1.isLt
  have := a2.isLt
  have := bit_le a3
  have := a4.isLt
  simp only [put]; omega)
theorem Sys2Proof.Laws.WordForm.shfliDown (a0 : VReg) (a1 : VReg) (a2 : BitVec 5) (a3 : Bool) (a4 : Fin 4) : Statement (.shfliDown a0 a1 a2 a3 a4) := word rfl (by
  have := a0.isLt
  have := a1.isLt
  have := a2.isLt
  have := bit_le a3
  have := a4.isLt
  simp only [put]; omega)
theorem Sys2Proof.Laws.WordForm.shfliXor (a0 : VReg) (a1 : VReg) (a2 : BitVec 5) (a3 : Bool) (a4 : Fin 4) : Statement (.shfliXor a0 a1 a2 a3 a4) := word rfl (by
  have := a0.isLt
  have := a1.isLt
  have := a2.isLt
  have := bit_le a3
  have := a4.isLt
  simp only [put]; omega)
theorem Sys2Proof.Laws.WordForm.lscanAddI32 (a0 : VReg) (a1 : VReg) (a2 : Bool) (a3 : Fin 4) : Statement (.lscanAddI32 a0 a1 a2 a3) := word rfl (by
  have := a0.isLt
  have := a1.isLt
  have := bit_le a2
  have := a3.isLt
  simp only [put]; omega)
theorem Sys2Proof.Laws.WordForm.lscanAddF32 (a0 : VReg) (a1 : VReg) (a2 : Bool) (a3 : Fin 4) : Statement (.lscanAddF32 a0 a1 a2 a3) := word rfl (by
  have := a0.isLt
  have := a1.isLt
  have := bit_le a2
  have := a3.isLt
  simp only [put]; omega)
theorem Sys2Proof.Laws.WordForm.lscanMaxI32 (a0 : VReg) (a1 : VReg) (a2 : Bool) (a3 : Fin 4) : Statement (.lscanMaxI32 a0 a1 a2 a3) := word rfl (by
  have := a0.isLt
  have := a1.isLt
  have := bit_le a2
  have := a3.isLt
  simp only [put]; omega)
theorem Sys2Proof.Laws.WordForm.lscanMinI32 (a0 : VReg) (a1 : VReg) (a2 : Bool) (a3 : Fin 4) : Statement (.lscanMinI32 a0 a1 a2 a3) := word rfl (by
  have := a0.isLt
  have := a1.isLt
  have := bit_le a2
  have := a3.isLt
  simp only [put]; omega)
theorem Sys2Proof.Laws.WordForm.iaddi (a0 : VReg) (a1 : VReg) (a2 : BitVec 8) (a3 : Bool) (a4 : Fin 4) : Statement (.iaddi a0 a1 a2 a3 a4) := word rfl (by
  have := a0.isLt
  have := a1.isLt
  have := a2.isLt
  have := bit_le a3
  have := a4.isLt
  simp only [put]; omega)
theorem Sys2Proof.Laws.WordForm.andiLane (a0 : VReg) (a1 : VReg) (a2 : BitVec 8) (a3 : Bool) (a4 : Fin 4) : Statement (.andiLane a0 a1 a2 a3 a4) := word rfl (by
  have := a0.isLt
  have := a1.isLt
  have := a2.isLt
  have := bit_le a3
  have := a4.isLt
  simp only [put]; omega)
theorem Sys2Proof.Laws.WordForm.oriLane (a0 : VReg) (a1 : VReg) (a2 : BitVec 8) (a3 : Bool) (a4 : Fin 4) : Statement (.oriLane a0 a1 a2 a3 a4) := word rfl (by
  have := a0.isLt
  have := a1.isLt
  have := a2.isLt
  have := bit_le a3
  have := a4.isLt
  simp only [put]; omega)
theorem Sys2Proof.Laws.WordForm.xoriLane (a0 : VReg) (a1 : VReg) (a2 : BitVec 8) (a3 : Bool) (a4 : Fin 4) : Statement (.xoriLane a0 a1 a2 a3 a4) := word rfl (by
  have := a0.isLt
  have := a1.isLt
  have := a2.isLt
  have := bit_le a3
  have := a4.isLt
  simp only [put]; omega)
theorem Sys2Proof.Laws.WordForm.shliLane (a0 : VReg) (a1 : VReg) (a2 : BitVec 5) (a3 : Bool) (a4 : Fin 4) : Statement (.shliLane a0 a1 a2 a3 a4) := word rfl (by
  have := a0.isLt
  have := a1.isLt
  have := a2.isLt
  have := bit_le a3
  have := a4.isLt
  simp only [put]; omega)
theorem Sys2Proof.Laws.WordForm.shriLane (a0 : VReg) (a1 : VReg) (a2 : BitVec 5) (a3 : Bool) (a4 : Fin 4) : Statement (.shriLane a0 a1 a2 a3 a4) := word rfl (by
  have := a0.isLt
  have := a1.isLt
  have := a2.isLt
  have := bit_le a3
  have := a4.isLt
  simp only [put]; omega)
theorem Sys2Proof.Laws.WordForm.sariLane (a0 : VReg) (a1 : VReg) (a2 : BitVec 5) (a3 : Bool) (a4 : Fin 4) : Statement (.sariLane a0 a1 a2 a3 a4) := word rfl (by
  have := a0.isLt
  have := a1.isLt
  have := a2.isLt
  have := bit_le a3
  have := a4.isLt
  simp only [put]; omega)
theorem Sys2Proof.Laws.WordForm.icmpi (a0 : KReg) (a1 : Cond) (a2 : VReg) (a3 : BitVec 8) (a4 : Bool) (a5 : Fin 4) : Statement (.icmpi a0 a1 a2 a3 a4 a5) := word rfl (by
  have := a0.isLt
  have := Cond.code_le a1
  have := a2.isLt
  have := a3.isLt
  have := bit_le a4
  have := a5.isLt
  simp only [put]; omega)
theorem Sys2Proof.Laws.WordForm.iadds (a0 : VReg) (a1 : VReg) (a2 : SReg) (a3 : Bool) (a4 : Bool) (a5 : Fin 4) : Statement (.iadds a0 a1 a2 a3 a4 a5) := word rfl (by
  have := a0.isLt
  have := a1.isLt
  have := a2.isLt
  have := bit_le a3
  have := bit_le a4
  have := a5.isLt
  simp only [put]; omega)
theorem Sys2Proof.Laws.WordForm.imuls (a0 : VReg) (a1 : VReg) (a2 : SReg) (a3 : Bool) (a4 : Bool) (a5 : Fin 4) : Statement (.imuls a0 a1 a2 a3 a4 a5) := word rfl (by
  have := a0.isLt
  have := a1.isLt
  have := a2.isLt
  have := bit_le a3
  have := bit_le a4
  have := a5.isLt
  simp only [put]; omega)
theorem Sys2Proof.Laws.WordForm.ffmas (a0 : VReg) (a1 : VReg) (a2 : SReg) (a3 : Bool) (a4 : Bool) (a5 : Fin 4) : Statement (.ffmas a0 a1 a2 a3 a4 a5) := word rfl (by
  have := a0.isLt
  have := a1.isLt
  have := a2.isLt
  have := bit_le a3
  have := bit_le a4
  have := a5.isLt
  simp only [put]; omega)
theorem Sys2Proof.Laws.WordForm.fmuls (a0 : VReg) (a1 : VReg) (a2 : SReg) (a3 : Bool) (a4 : Bool) (a5 : Fin 4) : Statement (.fmuls a0 a1 a2 a3 a4 a5) := word rfl (by
  have := a0.isLt
  have := a1.isLt
  have := a2.isLt
  have := bit_le a3
  have := bit_le a4
  have := a5.isLt
  simp only [put]; omega)
theorem Sys2Proof.Laws.WordForm.bcast (a0 : VReg) (a1 : SReg) (a2 : Bool) (a3 : Fin 4) : Statement (.bcast a0 a1 a2 a3) := word rfl (by
  have := a0.isLt
  have := a1.isLt
  have := bit_le a2
  have := a3.isLt
  simp only [put]; omega)
theorem Sys2Proof.Laws.WordForm.ldg (a0 : VReg) (a1 : VReg) (a2 : SReg) (a3 : LSize) (a4 : Bool) (a5 : Fin 4) : Statement (.ldg a0 a1 a2 a3 a4 a5) := word rfl (by
  have := a0.isLt
  have := a1.isLt
  have := a2.isLt
  have := LSize.code_le a3
  have := bit_le a4
  have := a5.isLt
  simp only [put]; omega)
theorem Sys2Proof.Laws.WordForm.stg (a0 : VReg) (a1 : VReg) (a2 : SReg) (a3 : LSize) (a4 : Bool) (a5 : Fin 4) : Statement (.stg a0 a1 a2 a3 a4 a5) := word rfl (by
  have := a0.isLt
  have := a1.isLt
  have := a2.isLt
  have := LSize.code_le a3
  have := bit_le a4
  have := a5.isLt
  simp only [put]; omega)
theorem Sys2Proof.Laws.WordForm.ldl (a0 : VReg) (a1 : VReg) (a2 : SReg) (a3 : LSize) (a4 : Bool) (a5 : Fin 4) : Statement (.ldl a0 a1 a2 a3 a4 a5) := word rfl (by
  have := a0.isLt
  have := a1.isLt
  have := a2.isLt
  have := LSize.code_le a3
  have := bit_le a4
  have := a5.isLt
  simp only [put]; omega)
theorem Sys2Proof.Laws.WordForm.stl (a0 : VReg) (a1 : VReg) (a2 : SReg) (a3 : LSize) (a4 : Bool) (a5 : Fin 4) : Statement (.stl a0 a1 a2 a3 a4 a5) := word rfl (by
  have := a0.isLt
  have := a1.isLt
  have := a2.isLt
  have := LSize.code_le a3
  have := bit_le a4
  have := a5.isLt
  simp only [put]; omega)
theorem Sys2Proof.Laws.WordForm.ldw (a0 : VReg) (a1 : VReg) (a2 : SReg) (a3 : LSize) (a4 : Bool) (a5 : Fin 4) : Statement (.ldw a0 a1 a2 a3 a4 a5) := word rfl (by
  have := a0.isLt
  have := a1.isLt
  have := a2.isLt
  have := LSize.code_le a3
  have := bit_le a4
  have := a5.isLt
  simp only [put]; omega)
theorem Sys2Proof.Laws.WordForm.stw (a0 : VReg) (a1 : VReg) (a2 : SReg) (a3 : LSize) (a4 : Bool) (a5 : Fin 4) : Statement (.stw a0 a1 a2 a3 a4 a5) := word rfl (by
  have := a0.isLt
  have := a1.isLt
  have := a2.isLt
  have := LSize.code_le a3
  have := bit_le a4
  have := a5.isLt
  simp only [put]; omega)
theorem Sys2Proof.Laws.WordForm.ldk (a0 : VReg) (a1 : VReg) (a2 : SReg) (a3 : LSize) (a4 : Bool) (a5 : Fin 4) : Statement (.ldk a0 a1 a2 a3 a4 a5) := word rfl (by
  have := a0.isLt
  have := a1.isLt
  have := a2.isLt
  have := LSize.code_le a3
  have := bit_le a4
  have := a5.isLt
  simp only [put]; omega)
theorem Sys2Proof.Laws.WordForm.ldgp (a0 : VReg) (a1 : VReg) (a2 : SReg) (a3 : KReg) (a4 : Fin 4) : Statement (.ldgp a0 a1 a2 a3 a4) := word rfl (by
  have := a0.isLt
  have := a1.isLt
  have := a2.isLt
  have := a3.isLt
  have := a4.isLt
  simp only [put]; omega)
theorem Sys2Proof.Laws.WordForm.ldlt (a0 : VReg) (a1 : VReg) (a2 : SReg) (a3 : LSize) (a4 : Bool) (a5 : Fin 4) : Statement (.ldlt a0 a1 a2 a3 a4 a5) := word rfl (by
  have := a0.isLt
  have := a1.isLt
  have := a2.isLt
  have := LSize.code_le a3
  have := bit_le a4
  have := a5.isLt
  simp only [put]; omega)
theorem Sys2Proof.Laws.WordForm.atomgAddI32 (a0 : VReg) (a1 : VReg) (a2 : SReg) (a3 : Fin 4) : Statement (.atomgAddI32 a0 a1 a2 a3) := word rfl (by
  have := a0.isLt
  have := a1.isLt
  have := a2.isLt
  have := a3.isLt
  simp only [put]; omega)
theorem Sys2Proof.Laws.WordForm.atomgAddF32 (a0 : VReg) (a1 : VReg) (a2 : SReg) (a3 : Fin 4) : Statement (.atomgAddF32 a0 a1 a2 a3) := word rfl (by
  have := a0.isLt
  have := a1.isLt
  have := a2.isLt
  have := a3.isLt
  simp only [put]; omega)
theorem Sys2Proof.Laws.WordForm.atomgMinI32 (a0 : VReg) (a1 : VReg) (a2 : SReg) (a3 : Fin 4) : Statement (.atomgMinI32 a0 a1 a2 a3) := word rfl (by
  have := a0.isLt
  have := a1.isLt
  have := a2.isLt
  have := a3.isLt
  simp only [put]; omega)
theorem Sys2Proof.Laws.WordForm.atomgMaxI32 (a0 : VReg) (a1 : VReg) (a2 : SReg) (a3 : Fin 4) : Statement (.atomgMaxI32 a0 a1 a2 a3) := word rfl (by
  have := a0.isLt
  have := a1.isLt
  have := a2.isLt
  have := a3.isLt
  simp only [put]; omega)
theorem Sys2Proof.Laws.WordForm.atomgOr (a0 : VReg) (a1 : VReg) (a2 : SReg) (a3 : Fin 4) : Statement (.atomgOr a0 a1 a2 a3) := word rfl (by
  have := a0.isLt
  have := a1.isLt
  have := a2.isLt
  have := a3.isLt
  simp only [put]; omega)
theorem Sys2Proof.Laws.WordForm.atomgXchg (a0 : VReg) (a1 : VReg) (a2 : SReg) (a3 : Fin 4) : Statement (.atomgXchg a0 a1 a2 a3) := word rfl (by
  have := a0.isLt
  have := a1.isLt
  have := a2.isLt
  have := a3.isLt
  simp only [put]; omega)
theorem Sys2Proof.Laws.WordForm.atomgCas (a0 : VReg) (a1 : VReg) (a2 : SReg) (a3 : Fin 4) : Statement (.atomgCas a0 a1 a2 a3) := word rfl (by
  have := a0.isLt
  have := a1.isLt
  have := a2.isLt
  have := a3.isLt
  simp only [put]; omega)
theorem Sys2Proof.Laws.WordForm.atomgDaddF32 (a0 : VReg) (a1 : VReg) (a2 : SReg) (a3 : Fin 4) : Statement (.atomgDaddF32 a0 a1 a2 a3) := word rfl (by
  have := a0.isLt
  have := a1.isLt
  have := a2.isLt
  have := a3.isLt
  simp only [put]; omega)
theorem Sys2Proof.Laws.WordForm.atomlAddI32 (a0 : VReg) (a1 : VReg) (a2 : SReg) (a3 : Fin 4) : Statement (.atomlAddI32 a0 a1 a2 a3) := word rfl (by
  have := a0.isLt
  have := a1.isLt
  have := a2.isLt
  have := a3.isLt
  simp only [put]; omega)
theorem Sys2Proof.Laws.WordForm.atomlAddF32 (a0 : VReg) (a1 : VReg) (a2 : SReg) (a3 : Fin 4) : Statement (.atomlAddF32 a0 a1 a2 a3) := word rfl (by
  have := a0.isLt
  have := a1.isLt
  have := a2.isLt
  have := a3.isLt
  simp only [put]; omega)
theorem Sys2Proof.Laws.WordForm.atomlMinI32 (a0 : VReg) (a1 : VReg) (a2 : SReg) (a3 : Fin 4) : Statement (.atomlMinI32 a0 a1 a2 a3) := word rfl (by
  have := a0.isLt
  have := a1.isLt
  have := a2.isLt
  have := a3.isLt
  simp only [put]; omega)
theorem Sys2Proof.Laws.WordForm.atomlMaxI32 (a0 : VReg) (a1 : VReg) (a2 : SReg) (a3 : Fin 4) : Statement (.atomlMaxI32 a0 a1 a2 a3) := word rfl (by
  have := a0.isLt
  have := a1.isLt
  have := a2.isLt
  have := a3.isLt
  simp only [put]; omega)
theorem Sys2Proof.Laws.WordForm.atomlAnd (a0 : VReg) (a1 : VReg) (a2 : SReg) (a3 : Fin 4) : Statement (.atomlAnd a0 a1 a2 a3) := word rfl (by
  have := a0.isLt
  have := a1.isLt
  have := a2.isLt
  have := a3.isLt
  simp only [put]; omega)
theorem Sys2Proof.Laws.WordForm.atomlOr (a0 : VReg) (a1 : VReg) (a2 : SReg) (a3 : Fin 4) : Statement (.atomlOr a0 a1 a2 a3) := word rfl (by
  have := a0.isLt
  have := a1.isLt
  have := a2.isLt
  have := a3.isLt
  simp only [put]; omega)
theorem Sys2Proof.Laws.WordForm.atomlXchg (a0 : VReg) (a1 : VReg) (a2 : SReg) (a3 : Fin 4) : Statement (.atomlXchg a0 a1 a2 a3) := word rfl (by
  have := a0.isLt
  have := a1.isLt
  have := a2.isLt
  have := a3.isLt
  simp only [put]; omega)
theorem Sys2Proof.Laws.WordForm.atomlCas (a0 : VReg) (a1 : VReg) (a2 : SReg) (a3 : Fin 4) : Statement (.atomlCas a0 a1 a2 a3) := word rfl (by
  have := a0.isLt
  have := a1.isLt
  have := a2.isLt
  have := a3.isLt
  simp only [put]; omega)
theorem Sys2Proof.Laws.WordForm.atomwAddI32 (a0 : VReg) (a1 : VReg) (a2 : SReg) (a3 : Fin 4) : Statement (.atomwAddI32 a0 a1 a2 a3) := word rfl (by
  have := a0.isLt
  have := a1.isLt
  have := a2.isLt
  have := a3.isLt
  simp only [put]; omega)
theorem Sys2Proof.Laws.WordForm.atomwAddF32 (a0 : VReg) (a1 : VReg) (a2 : SReg) (a3 : Fin 4) : Statement (.atomwAddF32 a0 a1 a2 a3) := word rfl (by
  have := a0.isLt
  have := a1.isLt
  have := a2.isLt
  have := a3.isLt
  simp only [put]; omega)
theorem Sys2Proof.Laws.WordForm.atomwMinI32 (a0 : VReg) (a1 : VReg) (a2 : SReg) (a3 : Fin 4) : Statement (.atomwMinI32 a0 a1 a2 a3) := word rfl (by
  have := a0.isLt
  have := a1.isLt
  have := a2.isLt
  have := a3.isLt
  simp only [put]; omega)
theorem Sys2Proof.Laws.WordForm.atomwMaxI32 (a0 : VReg) (a1 : VReg) (a2 : SReg) (a3 : Fin 4) : Statement (.atomwMaxI32 a0 a1 a2 a3) := word rfl (by
  have := a0.isLt
  have := a1.isLt
  have := a2.isLt
  have := a3.isLt
  simp only [put]; omega)
theorem Sys2Proof.Laws.WordForm.atomwAnd (a0 : VReg) (a1 : VReg) (a2 : SReg) (a3 : Fin 4) : Statement (.atomwAnd a0 a1 a2 a3) := word rfl (by
  have := a0.isLt
  have := a1.isLt
  have := a2.isLt
  have := a3.isLt
  simp only [put]; omega)
theorem Sys2Proof.Laws.WordForm.atomwOr (a0 : VReg) (a1 : VReg) (a2 : SReg) (a3 : Fin 4) : Statement (.atomwOr a0 a1 a2 a3) := word rfl (by
  have := a0.isLt
  have := a1.isLt
  have := a2.isLt
  have := a3.isLt
  simp only [put]; omega)
theorem Sys2Proof.Laws.WordForm.atomwXchg (a0 : VReg) (a1 : VReg) (a2 : SReg) (a3 : Fin 4) : Statement (.atomwXchg a0 a1 a2 a3) := word rfl (by
  have := a0.isLt
  have := a1.isLt
  have := a2.isLt
  have := a3.isLt
  simp only [put]; omega)
theorem Sys2Proof.Laws.WordForm.atomwCas (a0 : VReg) (a1 : VReg) (a2 : SReg) (a3 : Fin 4) : Statement (.atomwCas a0 a1 a2 a3) := word rfl (by
  have := a0.isLt
  have := a1.isLt
  have := a2.isLt
  have := a3.isLt
  simp only [put]; omega)
theorem Sys2Proof.Laws.WordForm.mov (a0 : VReg) (a1 : VReg) (a2 : Bool) (a3 : Fin 4) : Statement (.mov a0 a1 a2 a3) := word rfl (by
  have := a0.isLt
  have := a1.isLt
  have := bit_le a2
  have := a3.isLt
  simp only [put]; omega)
theorem Sys2Proof.Laws.WordForm.not (a0 : VReg) (a1 : VReg) (a2 : Bool) (a3 : Fin 4) : Statement (.not a0 a1 a2 a3) := word rfl (by
  have := a0.isLt
  have := a1.isLt
  have := bit_le a2
  have := a3.isLt
  simp only [put]; omega)
theorem Sys2Proof.Laws.WordForm.neg (a0 : VReg) (a1 : VReg) (a2 : Bool) (a3 : Fin 4) : Statement (.neg a0 a1 a2 a3) := word rfl (by
  have := a0.isLt
  have := a1.isLt
  have := bit_le a2
  have := a3.isLt
  simp only [put]; omega)
theorem Sys2Proof.Laws.WordForm.abs (a0 : VReg) (a1 : VReg) (a2 : Bool) (a3 : Fin 4) : Statement (.abs a0 a1 a2 a3) := word rfl (by
  have := a0.isLt
  have := a1.isLt
  have := bit_le a2
  have := a3.isLt
  simp only [put]; omega)
theorem Sys2Proof.Laws.WordForm.clzLane (a0 : VReg) (a1 : VReg) (a2 : Bool) (a3 : Fin 4) : Statement (.clzLane a0 a1 a2 a3) := word rfl (by
  have := a0.isLt
  have := a1.isLt
  have := bit_le a2
  have := a3.isLt
  simp only [put]; omega)
theorem Sys2Proof.Laws.WordForm.popcLane (a0 : VReg) (a1 : VReg) (a2 : Bool) (a3 : Fin 4) : Statement (.popcLane a0 a1 a2 a3) := word rfl (by
  have := a0.isLt
  have := a1.isLt
  have := bit_le a2
  have := a3.isLt
  simp only [put]; omega)
theorem Sys2Proof.Laws.WordForm.brev (a0 : VReg) (a1 : VReg) (a2 : Bool) (a3 : Fin 4) : Statement (.brev a0 a1 a2 a3) := word rfl (by
  have := a0.isLt
  have := a1.isLt
  have := bit_le a2
  have := a3.isLt
  simp only [put]; omega)
theorem Sys2Proof.Laws.WordForm.sext8 (a0 : VReg) (a1 : VReg) (a2 : Bool) (a3 : Fin 4) : Statement (.sext8 a0 a1 a2 a3) := word rfl (by
  have := a0.isLt
  have := a1.isLt
  have := bit_le a2
  have := a3.isLt
  simp only [put]; omega)
theorem Sys2Proof.Laws.WordForm.sext16 (a0 : VReg) (a1 : VReg) (a2 : Bool) (a3 : Fin 4) : Statement (.sext16 a0 a1 a2 a3) := word rfl (by
  have := a0.isLt
  have := a1.isLt
  have := bit_le a2
  have := a3.isLt
  simp only [put]; omega)
theorem Sys2Proof.Laws.WordForm.fneg (a0 : VReg) (a1 : VReg) (a2 : Bool) (a3 : Fin 4) : Statement (.fneg a0 a1 a2 a3) := word rfl (by
  have := a0.isLt
  have := a1.isLt
  have := bit_le a2
  have := a3.isLt
  simp only [put]; omega)
theorem Sys2Proof.Laws.WordForm.fabs (a0 : VReg) (a1 : VReg) (a2 : Bool) (a3 : Fin 4) : Statement (.fabs a0 a1 a2 a3) := word rfl (by
  have := a0.isLt
  have := a1.isLt
  have := bit_le a2
  have := a3.isLt
  simp only [put]; omega)
theorem Sys2Proof.Laws.WordForm.frcp (a0 : VReg) (a1 : VReg) (a2 : Bool) (a3 : Fin 4) : Statement (.frcp a0 a1 a2 a3) := word rfl (by
  have := a0.isLt
  have := a1.isLt
  have := bit_le a2
  have := a3.isLt
  simp only [put]; omega)
theorem Sys2Proof.Laws.WordForm.frsq (a0 : VReg) (a1 : VReg) (a2 : Bool) (a3 : Fin 4) : Statement (.frsq a0 a1 a2 a3) := word rfl (by
  have := a0.isLt
  have := a1.isLt
  have := bit_le a2
  have := a3.isLt
  simp only [put]; omega)
theorem Sys2Proof.Laws.WordForm.fexp2 (a0 : VReg) (a1 : VReg) (a2 : Bool) (a3 : Fin 4) : Statement (.fexp2 a0 a1 a2 a3) := word rfl (by
  have := a0.isLt
  have := a1.isLt
  have := bit_le a2
  have := a3.isLt
  simp only [put]; omega)
theorem Sys2Proof.Laws.WordForm.flog2 (a0 : VReg) (a1 : VReg) (a2 : Bool) (a3 : Fin 4) : Statement (.flog2 a0 a1 a2 a3) := word rfl (by
  have := a0.isLt
  have := a1.isLt
  have := bit_le a2
  have := a3.isLt
  simp only [put]; omega)
theorem Sys2Proof.Laws.WordForm.fsin (a0 : VReg) (a1 : VReg) (a2 : Bool) (a3 : Fin 4) : Statement (.fsin a0 a1 a2 a3) := word rfl (by
  have := a0.isLt
  have := a1.isLt
  have := bit_le a2
  have := a3.isLt
  simp only [put]; omega)
theorem Sys2Proof.Laws.WordForm.fcos (a0 : VReg) (a1 : VReg) (a2 : Bool) (a3 : Fin 4) : Statement (.fcos a0 a1 a2 a3) := word rfl (by
  have := a0.isLt
  have := a1.isLt
  have := bit_le a2
  have := a3.isLt
  simp only [put]; omega)
theorem Sys2Proof.Laws.WordForm.frnd (a0 : VReg) (a1 : VReg) (a2 : Bool) (a3 : Fin 4) : Statement (.frnd a0 a1 a2 a3) := word rfl (by
  have := a0.isLt
  have := a1.isLt
  have := bit_le a2
  have := a3.isLt
  simp only [put]; omega)
theorem Sys2Proof.Laws.WordForm.cvtfi (a0 : VReg) (a1 : VReg) (a2 : Bool) (a3 : Fin 4) : Statement (.cvtfi a0 a1 a2 a3) := word rfl (by
  have := a0.isLt
  have := a1.isLt
  have := bit_le a2
  have := a3.isLt
  simp only [put]; omega)
theorem Sys2Proof.Laws.WordForm.cvtfiz (a0 : VReg) (a1 : VReg) (a2 : Bool) (a3 : Fin 4) : Statement (.cvtfiz a0 a1 a2 a3) := word rfl (by
  have := a0.isLt
  have := a1.isLt
  have := bit_le a2
  have := a3.isLt
  simp only [put]; omega)
theorem Sys2Proof.Laws.WordForm.cvtif (a0 : VReg) (a1 : VReg) (a2 : Bool) (a3 : Fin 4) : Statement (.cvtif a0 a1 a2 a3) := word rfl (by
  have := a0.isLt
  have := a1.isLt
  have := bit_le a2
  have := a3.isLt
  simp only [put]; omega)
theorem Sys2Proof.Laws.WordForm.cvtnf (a0 : VReg) (a1 : VReg) (a2 : Bool) (a3 : Fin 4) : Statement (.cvtnf a0 a1 a2 a3) := word rfl (by
  have := a0.isLt
  have := a1.isLt
  have := bit_le a2
  have := a3.isLt
  simp only [put]; omega)
theorem Sys2Proof.Laws.WordForm.pkh (a0 : VReg) (a1 : VReg) (a2 : Bool) (a3 : Fin 4) : Statement (.pkh a0 a1 a2 a3) := word rfl (by
  have := a0.isLt
  have := a1.isLt
  have := bit_le a2
  have := a3.isLt
  simp only [put]; omega)
theorem Sys2Proof.Laws.WordForm.pkbf (a0 : VReg) (a1 : VReg) (a2 : Bool) (a3 : Fin 4) : Statement (.pkbf a0 a1 a2 a3) := word rfl (by
  have := a0.isLt
  have := a1.isLt
  have := bit_le a2
  have := a3.isLt
  simp only [put]; omega)
theorem Sys2Proof.Laws.WordForm.upkhl (a0 : VReg) (a1 : VReg) (a2 : Bool) (a3 : Fin 4) : Statement (.upkhl a0 a1 a2 a3) := word rfl (by
  have := a0.isLt
  have := a1.isLt
  have := bit_le a2
  have := a3.isLt
  simp only [put]; omega)
theorem Sys2Proof.Laws.WordForm.upkhh (a0 : VReg) (a1 : VReg) (a2 : Bool) (a3 : Fin 4) : Statement (.upkhh a0 a1 a2 a3) := word rfl (by
  have := a0.isLt
  have := a1.isLt
  have := bit_le a2
  have := a3.isLt
  simp only [put]; omega)
theorem Sys2Proof.Laws.WordForm.pk8e4 (a0 : VReg) (a1 : VReg) (a2 : Bool) (a3 : Fin 4) : Statement (.pk8e4 a0 a1 a2 a3) := word rfl (by
  have := a0.isLt
  have := a1.isLt
  have := bit_le a2
  have := a3.isLt
  simp only [put]; omega)
theorem Sys2Proof.Laws.WordForm.pk8e5 (a0 : VReg) (a1 : VReg) (a2 : Bool) (a3 : Fin 4) : Statement (.pk8e5 a0 a1 a2 a3) := word rfl (by
  have := a0.isLt
  have := a1.isLt
  have := bit_le a2
  have := a3.isLt
  simp only [put]; omega)
theorem Sys2Proof.Laws.WordForm.upk8e4 (a0 : VReg) (a1 : VReg) (a2 : Bool) (a3 : Fin 4) : Statement (.upk8e4 a0 a1 a2 a3) := word rfl (by
  have := a0.isLt
  have := a1.isLt
  have := bit_le a2
  have := a3.isLt
  simp only [put]; omega)
theorem Sys2Proof.Laws.WordForm.upk8e5 (a0 : VReg) (a1 : VReg) (a2 : Bool) (a3 : Fin 4) : Statement (.upk8e5 a0 a1 a2 a3) := word rfl (by
  have := a0.isLt
  have := a1.isLt
  have := bit_le a2
  have := a3.isLt
  simp only [put]; omega)
theorem Sys2Proof.Laws.WordForm.upkf4 (a0 : VReg) (a1 : VReg) (a2 : Bool) (a3 : Fin 4) : Statement (.upkf4 a0 a1 a2 a3) := word rfl (by
  have := a0.isLt
  have := a1.isLt
  have := bit_le a2
  have := a3.isLt
  simp only [put]; omega)
theorem Sys2Proof.Laws.WordForm.laneid (a0 : VReg) (a1 : Fin 4) : Statement (.laneid a0 a1) := word rfl (by
  have := a0.isLt
  have := a1.isLt
  simp only [put]; omega)
theorem Sys2Proof.Laws.WordForm.add (a0 : SReg) (a1 : SReg) (a2 : SReg) (a3 : Bool) (a4 : Bool) : Statement (.add a0 a1 a2 a3 a4) := word rfl (by
  have := a0.isLt
  have := a1.isLt
  have := a2.isLt
  have := bit_le a3
  have := bit_le a4
  simp only [put]; omega)
theorem Sys2Proof.Laws.WordForm.sub (a0 : SReg) (a1 : SReg) (a2 : SReg) (a3 : Bool) (a4 : Bool) : Statement (.sub a0 a1 a2 a3 a4) := word rfl (by
  have := a0.isLt
  have := a1.isLt
  have := a2.isLt
  have := bit_le a3
  have := bit_le a4
  simp only [put]; omega)
theorem Sys2Proof.Laws.WordForm.mul (a0 : SReg) (a1 : SReg) (a2 : SReg) (a3 : Bool) (a4 : Bool) : Statement (.mul a0 a1 a2 a3 a4) := word rfl (by
  have := a0.isLt
  have := a1.isLt
  have := a2.isLt
  have := bit_le a3
  have := bit_le a4
  simp only [put]; omega)
theorem Sys2Proof.Laws.WordForm.mulh (a0 : SReg) (a1 : SReg) (a2 : SReg) (a3 : Bool) (a4 : Bool) : Statement (.mulh a0 a1 a2 a3 a4) := word rfl (by
  have := a0.isLt
  have := a1.isLt
  have := a2.isLt
  have := bit_le a3
  have := bit_le a4
  simp only [put]; omega)
theorem Sys2Proof.Laws.WordForm.nmulhUniform (a0 : SReg) (a1 : SReg) (a2 : SReg) (a3 : Bool) (a4 : Bool) : Statement (.nmulhUniform a0 a1 a2 a3 a4) := word rfl (by
  have := a0.isLt
  have := a1.isLt
  have := a2.isLt
  have := bit_le a3
  have := bit_le a4
  simp only [put]; omega)
theorem Sys2Proof.Laws.WordForm.andUniform (a0 : SReg) (a1 : SReg) (a2 : SReg) (a3 : Bool) (a4 : Bool) : Statement (.andUniform a0 a1 a2 a3 a4) := word rfl (by
  have := a0.isLt
  have := a1.isLt
  have := a2.isLt
  have := bit_le a3
  have := bit_le a4
  simp only [put]; omega)
theorem Sys2Proof.Laws.WordForm.orUniform (a0 : SReg) (a1 : SReg) (a2 : SReg) (a3 : Bool) (a4 : Bool) : Statement (.orUniform a0 a1 a2 a3 a4) := word rfl (by
  have := a0.isLt
  have := a1.isLt
  have := a2.isLt
  have := bit_le a3
  have := bit_le a4
  simp only [put]; omega)
theorem Sys2Proof.Laws.WordForm.xorUniform (a0 : SReg) (a1 : SReg) (a2 : SReg) (a3 : Bool) (a4 : Bool) : Statement (.xorUniform a0 a1 a2 a3 a4) := word rfl (by
  have := a0.isLt
  have := a1.isLt
  have := a2.isLt
  have := bit_le a3
  have := bit_le a4
  simp only [put]; omega)
theorem Sys2Proof.Laws.WordForm.andnUniform (a0 : SReg) (a1 : SReg) (a2 : SReg) (a3 : Bool) (a4 : Bool) : Statement (.andnUniform a0 a1 a2 a3 a4) := word rfl (by
  have := a0.isLt
  have := a1.isLt
  have := a2.isLt
  have := bit_le a3
  have := bit_le a4
  simp only [put]; omega)
theorem Sys2Proof.Laws.WordForm.shlUniform (a0 : SReg) (a1 : SReg) (a2 : SReg) (a3 : Bool) (a4 : Bool) : Statement (.shlUniform a0 a1 a2 a3 a4) := word rfl (by
  have := a0.isLt
  have := a1.isLt
  have := a2.isLt
  have := bit_le a3
  have := bit_le a4
  simp only [put]; omega)
theorem Sys2Proof.Laws.WordForm.shrUniform (a0 : SReg) (a1 : SReg) (a2 : SReg) (a3 : Bool) (a4 : Bool) : Statement (.shrUniform a0 a1 a2 a3 a4) := word rfl (by
  have := a0.isLt
  have := a1.isLt
  have := a2.isLt
  have := bit_le a3
  have := bit_le a4
  simp only [put]; omega)
theorem Sys2Proof.Laws.WordForm.sarUniform (a0 : SReg) (a1 : SReg) (a2 : SReg) (a3 : Bool) (a4 : Bool) : Statement (.sarUniform a0 a1 a2 a3 a4) := word rfl (by
  have := a0.isLt
  have := a1.isLt
  have := a2.isLt
  have := bit_le a3
  have := bit_le a4
  simp only [put]; omega)
theorem Sys2Proof.Laws.WordForm.min (a0 : SReg) (a1 : SReg) (a2 : SReg) (a3 : Bool) (a4 : Bool) : Statement (.min a0 a1 a2 a3 a4) := word rfl (by
  have := a0.isLt
  have := a1.isLt
  have := a2.isLt
  have := bit_le a3
  have := bit_le a4
  simp only [put]; omega)
theorem Sys2Proof.Laws.WordForm.max (a0 : SReg) (a1 : SReg) (a2 : SReg) (a3 : Bool) (a4 : Bool) : Statement (.max a0 a1 a2 a3 a4) := word rfl (by
  have := a0.isLt
  have := a1.isLt
  have := a2.isLt
  have := bit_le a3
  have := bit_le a4
  simp only [put]; omega)
theorem Sys2Proof.Laws.WordForm.nminUniform (a0 : SReg) (a1 : SReg) (a2 : SReg) (a3 : Bool) (a4 : Bool) : Statement (.nminUniform a0 a1 a2 a3 a4) := word rfl (by
  have := a0.isLt
  have := a1.isLt
  have := a2.isLt
  have := bit_le a3
  have := bit_le a4
  simp only [put]; omega)
theorem Sys2Proof.Laws.WordForm.nmaxUniform (a0 : SReg) (a1 : SReg) (a2 : SReg) (a3 : Bool) (a4 : Bool) : Statement (.nmaxUniform a0 a1 a2 a3 a4) := word rfl (by
  have := a0.isLt
  have := a1.isLt
  have := a2.isLt
  have := bit_le a3
  have := bit_le a4
  simp only [put]; omega)
theorem Sys2Proof.Laws.WordForm.seq (a0 : SReg) (a1 : SReg) (a2 : SReg) (a3 : Bool) (a4 : Bool) : Statement (.seq a0 a1 a2 a3 a4) := word rfl (by
  have := a0.isLt
  have := a1.isLt
  have := a2.isLt
  have := bit_le a3
  have := bit_le a4
  simp only [put]; omega)
theorem Sys2Proof.Laws.WordForm.sne (a0 : SReg) (a1 : SReg) (a2 : SReg) (a3 : Bool) (a4 : Bool) : Statement (.sne a0 a1 a2 a3 a4) := word rfl (by
  have := a0.isLt
  have := a1.isLt
  have := a2.isLt
  have := bit_le a3
  have := bit_le a4
  simp only [put]; omega)
theorem Sys2Proof.Laws.WordForm.slt (a0 : SReg) (a1 : SReg) (a2 : SReg) (a3 : Bool) (a4 : Bool) : Statement (.slt a0 a1 a2 a3 a4) := word rfl (by
  have := a0.isLt
  have := a1.isLt
  have := a2.isLt
  have := bit_le a3
  have := bit_le a4
  simp only [put]; omega)
theorem Sys2Proof.Laws.WordForm.sltn (a0 : SReg) (a1 : SReg) (a2 : SReg) (a3 : Bool) (a4 : Bool) : Statement (.sltn a0 a1 a2 a3 a4) := word rfl (by
  have := a0.isLt
  have := a1.isLt
  have := a2.isLt
  have := bit_le a3
  have := bit_le a4
  simp only [put]; omega)
theorem Sys2Proof.Laws.WordForm.sdiv (a0 : SReg) (a1 : SReg) (a2 : SReg) (a3 : Bool) (a4 : Bool) : Statement (.sdiv a0 a1 a2 a3 a4) := word rfl (by
  have := a0.isLt
  have := a1.isLt
  have := a2.isLt
  have := bit_le a3
  have := bit_le a4
  simp only [put]; omega)
theorem Sys2Proof.Laws.WordForm.ndiv (a0 : SReg) (a1 : SReg) (a2 : SReg) (a3 : Bool) (a4 : Bool) : Statement (.ndiv a0 a1 a2 a3 a4) := word rfl (by
  have := a0.isLt
  have := a1.isLt
  have := a2.isLt
  have := bit_le a3
  have := bit_le a4
  simp only [put]; omega)
theorem Sys2Proof.Laws.WordForm.srem (a0 : SReg) (a1 : SReg) (a2 : SReg) (a3 : Bool) (a4 : Bool) : Statement (.srem a0 a1 a2 a3 a4) := word rfl (by
  have := a0.isLt
  have := a1.isLt
  have := a2.isLt
  have := bit_le a3
  have := bit_le a4
  simp only [put]; omega)
theorem Sys2Proof.Laws.WordForm.nrem (a0 : SReg) (a1 : SReg) (a2 : SReg) (a3 : Bool) (a4 : Bool) : Statement (.nrem a0 a1 a2 a3 a4) := word rfl (by
  have := a0.isLt
  have := a1.isLt
  have := a2.isLt
  have := bit_le a3
  have := bit_le a4
  simp only [put]; omega)
theorem Sys2Proof.Laws.WordForm.popcUniform (a0 : SReg) (a1 : SReg) (a2 : Bool) : Statement (.popcUniform a0 a1 a2) := word rfl (by
  have := a0.isLt
  have := a1.isLt
  have := bit_le a2
  simp only [put]; omega)
theorem Sys2Proof.Laws.WordForm.clzUniform (a0 : SReg) (a1 : SReg) (a2 : Bool) : Statement (.clzUniform a0 a1 a2) := word rfl (by
  have := a0.isLt
  have := a1.isLt
  have := bit_le a2
  simp only [put]; omega)
theorem Sys2Proof.Laws.WordForm.addi (a0 : SReg) (a1 : SReg) (a2 : BitVec 13) : Statement (.addi a0 a1 a2) := word rfl (by
  have := a0.isLt
  have := a1.isLt
  have := a2.isLt
  simp only [put]; omega)
theorem Sys2Proof.Laws.WordForm.andiUniform (a0 : SReg) (a1 : SReg) (a2 : BitVec 13) : Statement (.andiUniform a0 a1 a2) := word rfl (by
  have := a0.isLt
  have := a1.isLt
  have := a2.isLt
  simp only [put]; omega)
theorem Sys2Proof.Laws.WordForm.oriUniform (a0 : SReg) (a1 : SReg) (a2 : BitVec 13) : Statement (.oriUniform a0 a1 a2) := word rfl (by
  have := a0.isLt
  have := a1.isLt
  have := a2.isLt
  simp only [put]; omega)
theorem Sys2Proof.Laws.WordForm.xoriUniform (a0 : SReg) (a1 : SReg) (a2 : BitVec 13) : Statement (.xoriUniform a0 a1 a2) := word rfl (by
  have := a0.isLt
  have := a1.isLt
  have := a2.isLt
  simp only [put]; omega)
theorem Sys2Proof.Laws.WordForm.shliUniform (a0 : SReg) (a1 : SReg) (a2 : BitVec 6) : Statement (.shliUniform a0 a1 a2) := word rfl (by
  have := a0.isLt
  have := a1.isLt
  have := a2.isLt
  simp only [put]; omega)
theorem Sys2Proof.Laws.WordForm.shriUniform (a0 : SReg) (a1 : SReg) (a2 : BitVec 6) : Statement (.shriUniform a0 a1 a2) := word rfl (by
  have := a0.isLt
  have := a1.isLt
  have := a2.isLt
  simp only [put]; omega)
theorem Sys2Proof.Laws.WordForm.sariUniform (a0 : SReg) (a1 : SReg) (a2 : BitVec 6) : Statement (.sariUniform a0 a1 a2) := word rfl (by
  have := a0.isLt
  have := a1.isLt
  have := a2.isLt
  simp only [put]; omega)
theorem Sys2Proof.Laws.WordForm.slti (a0 : SReg) (a1 : SReg) (a2 : BitVec 13) : Statement (.slti a0 a1 a2) := word rfl (by
  have := a0.isLt
  have := a1.isLt
  have := a2.isLt
  simp only [put]; omega)
theorem Sys2Proof.Laws.WordForm.movw (a0 : SReg) (a1 : Fin 4) (a2 : BitVec 16) (a3 : Bool) : Statement (.movw a0 a1 a2 a3) := word rfl (by
  have := a0.isLt
  have := a1.isLt
  have := a2.isLt
  have := bit_le a3
  simp only [put]; omega)
theorem Sys2Proof.Laws.WordForm.ldgs (a0 : SReg) (a1 : SReg) (a2 : Sys2Proof.USize) (a3 : BitVec 11) : Statement (.ldgs a0 a1 a2 a3) := word rfl (by
  have := a0.isLt
  have := a1.isLt
  have := USize.code_le a2
  have := a3.isLt
  simp only [put]; omega)
theorem Sys2Proof.Laws.WordForm.stgs (a0 : SReg) (a1 : SReg) (a2 : Sys2Proof.USize) (a3 : BitVec 11) : Statement (.stgs a0 a1 a2 a3) := word rfl (by
  have := a0.isLt
  have := a1.isLt
  have := USize.code_le a2
  have := a3.isLt
  simp only [put]; omega)
theorem Sys2Proof.Laws.WordForm.ldls (a0 : SReg) (a1 : SReg) (a2 : Sys2Proof.USize) (a3 : BitVec 11) : Statement (.ldls a0 a1 a2 a3) := word rfl (by
  have := a0.isLt
  have := a1.isLt
  have := USize.code_le a2
  have := a3.isLt
  simp only [put]; omega)
theorem Sys2Proof.Laws.WordForm.stls (a0 : SReg) (a1 : SReg) (a2 : Sys2Proof.USize) (a3 : BitVec 11) : Statement (.stls a0 a1 a2 a3) := word rfl (by
  have := a0.isLt
  have := a1.isLt
  have := USize.code_le a2
  have := a3.isLt
  simp only [put]; omega)
theorem Sys2Proof.Laws.WordForm.ldks (a0 : SReg) (a1 : SReg) (a2 : Sys2Proof.USize) (a3 : BitVec 11) : Statement (.ldks a0 a1 a2 a3) := word rfl (by
  have := a0.isLt
  have := a1.isLt
  have := USize.code_le a2
  have := a3.isLt
  simp only [put]; omega)
theorem Sys2Proof.Laws.WordForm.vget (a0 : SReg) (a1 : VReg) (a2 : Fin 32) (a3 : Bool) : Statement (.vget a0 a1 a2 a3) := word rfl (by
  have := a0.isLt
  have := a1.isLt
  have := a2.isLt
  have := bit_le a3
  simp only [put]; omega)
theorem Sys2Proof.Laws.WordForm.vput (a0 : SReg) (a1 : VReg) (a2 : Fin 32) : Statement (.vput a0 a1 a2) := word rfl (by
  have := a0.isLt
  have := a1.isLt
  have := a2.isLt
  simp only [put]; omega)
theorem Sys2Proof.Laws.WordForm.ballot (a0 : SReg) (a1 : VReg) (a2 : Fin 32) (a3 : Bool) : Statement (.ballot a0 a1 a2 a3) := word rfl (by
  have := a0.isLt
  have := a1.isLt
  have := a2.isLt
  have := bit_le a3
  simp only [put]; omega)
theorem Sys2Proof.Laws.WordForm.redlAddI32 (a0 : SReg) (a1 : VReg) (a2 : Bool) : Statement (.redlAddI32 a0 a1 a2) := word rfl (by
  have := a0.isLt
  have := a1.isLt
  have := bit_le a2
  simp only [put]; omega)
theorem Sys2Proof.Laws.WordForm.redlAddF32 (a0 : SReg) (a1 : VReg) (a2 : Bool) : Statement (.redlAddF32 a0 a1 a2) := word rfl (by
  have := a0.isLt
  have := a1.isLt
  have := bit_le a2
  simp only [put]; omega)
theorem Sys2Proof.Laws.WordForm.redlMinI32 (a0 : SReg) (a1 : VReg) (a2 : Bool) : Statement (.redlMinI32 a0 a1 a2) := word rfl (by
  have := a0.isLt
  have := a1.isLt
  have := bit_le a2
  simp only [put]; omega)
theorem Sys2Proof.Laws.WordForm.redlMaxI32 (a0 : SReg) (a1 : VReg) (a2 : Bool) : Statement (.redlMaxI32 a0 a1 a2) := word rfl (by
  have := a0.isLt
  have := a1.isLt
  have := bit_le a2
  simp only [put]; omega)
theorem Sys2Proof.Laws.WordForm.redlAnd (a0 : SReg) (a1 : VReg) (a2 : Bool) : Statement (.redlAnd a0 a1 a2) := word rfl (by
  have := a0.isLt
  have := a1.isLt
  have := bit_le a2
  simp only [put]; omega)
theorem Sys2Proof.Laws.WordForm.redlOr (a0 : SReg) (a1 : VReg) (a2 : Bool) : Statement (.redlOr a0 a1 a2) := word rfl (by
  have := a0.isLt
  have := a1.isLt
  have := bit_le a2
  simp only [put]; omega)
theorem Sys2Proof.Laws.WordForm.kmovFromLane (a0 : VReg) (a1 : KReg) (a2 : Bool) : Statement (.kmovFromLane a0 a1 a2) := word rfl (by
  have := a0.isLt
  have := a1.isLt
  have := bit_le a2
  simp only [put]; omega)
theorem Sys2Proof.Laws.WordForm.kmovToLane (a0 : VReg) (a1 : KReg) : Statement (.kmovToLane a0 a1) := word rfl (by
  have := a0.isLt
  have := a1.isLt
  simp only [put]; omega)
theorem Sys2Proof.Laws.WordForm.kand (a0 : KReg) (a1 : KReg) (a2 : KReg) : Statement (.kand a0 a1 a2) := word rfl (by
  have := a0.isLt
  have := a1.isLt
  have := a2.isLt
  simp only [put]; omega)
theorem Sys2Proof.Laws.WordForm.kor (a0 : KReg) (a1 : KReg) (a2 : KReg) : Statement (.kor a0 a1 a2) := word rfl (by
  have := a0.isLt
  have := a1.isLt
  have := a2.isLt
  simp only [put]; omega)
theorem Sys2Proof.Laws.WordForm.kxor (a0 : KReg) (a1 : KReg) (a2 : KReg) : Statement (.kxor a0 a1 a2) := word rfl (by
  have := a0.isLt
  have := a1.isLt
  have := a2.isLt
  simp only [put]; omega)
theorem Sys2Proof.Laws.WordForm.kandn (a0 : KReg) (a1 : KReg) (a2 : KReg) : Statement (.kandn a0 a1 a2) := word rfl (by
  have := a0.isLt
  have := a1.isLt
  have := a2.isLt
  simp only [put]; omega)
theorem Sys2Proof.Laws.WordForm.knot (a0 : KReg) (a1 : KReg) : Statement (.knot a0 a1) := word rfl (by
  have := a0.isLt
  have := a1.isLt
  simp only [put]; omega)
theorem Sys2Proof.Laws.WordForm.kfroms (a0 : KReg) (a1 : SReg) : Statement (.kfroms a0 a1) := word rfl (by
  have := a0.isLt
  have := a1.isLt
  simp only [put]; omega)
theorem Sys2Proof.Laws.WordForm.ktos (a0 : SReg) (a1 : KReg) : Statement (.ktos a0 a1) := word rfl (by
  have := a0.isLt
  have := a1.isLt
  simp only [put]; omega)
theorem Sys2Proof.Laws.WordForm.b (a0 : Bool) (a1 : BitVec 20) : Statement (.b a0 a1) := word rfl (by
  have := bit_le a0
  have := a1.isLt
  simp only [put]; omega)
theorem Sys2Proof.Laws.WordForm.bs (a0 : Bool) (a1 : BsCond) (a2 : SReg) (a3 : BitVec 15) : Statement (.bs a0 a1 a2 a3) := word rfl (by
  have := bit_le a0
  have := BsCond.code_le a1
  have := a2.isLt
  have := a3.isLt
  simp only [put]; omega)
theorem Sys2Proof.Laws.WordForm.bk (a0 : Bool) (a1 : BkMode) (a2 : KReg) (a3 : BitVec 19) : Statement (.bk a0 a1 a2 a3) := word rfl (by
  have := bit_le a0
  have := BkMode.code_le a1
  have := a2.isLt
  have := a3.isLt
  simp only [put]; omega)
theorem Sys2Proof.Laws.WordForm.call (a0 : Bool) (a1 : BitVec 20) : Statement (.call a0 a1) := word rfl (by
  have := bit_le a0
  have := a1.isLt
  simp only [put]; omega)
theorem Sys2Proof.Laws.WordForm.jr (a0 : SReg) (a1 : Bool) : Statement (.jr a0 a1) := word rfl (by
  have := a0.isLt
  have := bit_le a1
  simp only [put]; omega)
theorem Sys2Proof.Laws.WordForm.jrCall (a0 : SReg) (a1 : SReg) (a2 : Bool) : Statement (.jrCall a0 a1 a2) := word rfl (by
  have := a0.isLt
  have := a1.isLt
  have := bit_le a2
  simp only [put]; omega)
theorem Sys2Proof.Laws.WordForm.jrReturn (a0 : SReg) (a1 : Bool) : Statement (.jrReturn a0 a1) := word rfl (by
  have := a0.isLt
  have := bit_le a1
  simp only [put]; omega)
theorem Sys2Proof.Laws.WordForm.phase (a0 : Bool) (a1 : BitVec 8) : Statement (.phase a0 a1) := word rfl (by
  have := bit_le a0
  have := a1.isLt
  simp only [put]; omega)
theorem Sys2Proof.Laws.WordForm.cbar (a0 : Bool) (a1 : BitVec 8) : Statement (.cbar a0 a1) := word rfl (by
  have := bit_le a0
  have := a1.isLt
  simp only [put]; omega)
theorem Sys2Proof.Laws.WordForm.arrive (a0 : Fin 8) : Statement (.arrive a0) := word rfl (by
  have := a0.isLt
  simp only [put]; omega)
theorem Sys2Proof.Laws.WordForm.waitb (a0 : Fin 8) : Statement (.waitb a0) := word rfl (by
  have := a0.isLt
  simp only [put]; omega)
theorem Sys2Proof.Laws.WordForm.spin (a0 : SReg) (a1 : BitVec 11) : Statement (.spin a0 a1) := word rfl (by
  have := a0.isLt
  have := a1.isLt
  simp only [put]; omega)
theorem Sys2Proof.Laws.WordForm.fenceAcquire (a0 : Scope) : Statement (.fenceAcquire a0) := word rfl (by
  have := Scope.code_le a0
  simp only [put]; omega)
theorem Sys2Proof.Laws.WordForm.fenceRelease (a0 : Scope) : Statement (.fenceRelease a0) := word rfl (by
  have := Scope.code_le a0
  simp only [put]; omega)
theorem Sys2Proof.Laws.WordForm.fenceFull (a0 : Scope) : Statement (.fenceFull a0) := word rfl (by
  have := Scope.code_le a0
  simp only [put]; omega)
theorem Sys2Proof.Laws.WordForm.fork (a0 : SReg) (a1 : SideMask) : Statement (.fork a0 a1) := word rfl (by
  have := a0.isLt
  have := SideMask.code_le a1
  simp only [put]; omega)
theorem Sys2Proof.Laws.WordForm.rend (a0 : SideMask) : Statement (.rend a0) := word rfl (by
  have := SideMask.code_le a0
  simp only [put]; omega)
theorem Sys2Proof.Laws.WordForm.elect (a0 : SReg) : Statement (.elect a0) := word rfl (by
  have := a0.isLt
  simp only [put]; omega)
theorem Sys2Proof.Laws.WordForm.trap (a0 : BitVec 13) : Statement (.trap a0) := word rfl (by
  have := a0.isLt
  simp only [put]; omega)
theorem Sys2Proof.Laws.WordForm.tret : Statement .tret := word (n := 0xC8000000) rfl (by decide)
theorem Sys2Proof.Laws.WordForm.sysc (a0 : BitVec 13) : Statement (.sysc a0) := word rfl (by
  have := a0.isLt
  simp only [put]; omega)
theorem Sys2Proof.Laws.WordForm.mfc (a0 : SReg) (a1 : BitVec 12) : Statement (.mfc a0 a1) := word rfl (by
  have := a0.isLt
  have := a1.isLt
  simp only [put]; omega)
theorem Sys2Proof.Laws.WordForm.mtc (a0 : SReg) (a1 : BitVec 12) : Statement (.mtc a0 a1) := word rfl (by
  have := a0.isLt
  have := a1.isLt
  simp only [put]; omega)
theorem Sys2Proof.Laws.WordForm.halt : Statement .halt := word (n := 0xD0000000) rfl (by decide)
theorem Sys2Proof.Laws.WordForm.nop : Statement .nop := word (n := 0xD2000000) rfl (by decide)
theorem Sys2Proof.Laws.WordForm.rnxt (a0 : SReg) : Statement (.rnxt a0) := word rfl (by
  have := a0.isLt
  simp only [put]; omega)
theorem Sys2Proof.Laws.WordForm.rjmp (a0 : SReg) : Statement (.rjmp a0) := word rfl (by
  have := a0.isLt
  simp only [put]; omega)
theorem Sys2Proof.Laws.WordForm.rdraw (a0 : SReg) (a1 : SReg) (a2 : SReg) : Statement (.rdraw a0 a1 a2) := word rfl (by
  have := a0.isLt
  have := a1.isLt
  have := a2.isLt
  simp only [put]; omega)
theorem Sys2Proof.Laws.WordForm.pgreq (a0 : SReg) : Statement (.pgreq a0) := word rfl (by
  have := a0.isLt
  simp only [put]; omega)
theorem Sys2Proof.Laws.WordForm.launch (a0 : SReg) : Statement (.launch a0) := word rfl (by
  have := a0.isLt
  simp only [put]; omega)
theorem Sys2Proof.Laws.WordForm.ntok (a0 : SReg) : Statement (.ntok a0) := word rfl (by
  have := a0.isLt
  simp only [put]; omega)
theorem Sys2Proof.Laws.WordForm.mcfg (a0 : SReg) (a1 : SReg) (a2 : Fin 4) : Statement (.mcfg a0 a1 a2) := word rfl (by
  have := a0.isLt
  have := a1.isLt
  have := a2.isLt
  simp only [put]; omega)
theorem Sys2Proof.Laws.WordForm.mma (a0 : Fin 4) (a1 : VReg) (a2 : VReg) (a3 : SReg) (a4 : Bool) (a5 : Bool) (a6 : Bool) : Statement (.mma a0 a1 a2 a3 a4 a5 a6) := word rfl (by
  have := a0.isLt
  have := a1.isLt
  have := a2.isLt
  have := a3.isLt
  have := bit_le a4
  have := bit_le a5
  have := bit_le a6
  simp only [put]; omega)
theorem Sys2Proof.Laws.WordForm.mmax (a0 : Fin 4) (a1 : VReg) (a2 : VReg) (a3 : SReg) (a4 : Bool) (a5 : Bool) (a6 : Bool) : Statement (.mmax a0 a1 a2 a3 a4 a5 a6) := word rfl (by
  have := a0.isLt
  have := a1.isLt
  have := a2.isLt
  have := a3.isLt
  have := bit_le a4
  have := bit_le a5
  have := bit_le a6
  simp only [put]; omega)
theorem Sys2Proof.Laws.WordForm.mmz (a0 : Fin 4) (a1 : Bool) : Statement (.mmz a0 a1) := word rfl (by
  have := a0.isLt
  have := bit_le a1
  simp only [put]; omega)
theorem Sys2Proof.Laws.WordForm.mdrain (a0 : Fin 4) (a1 : VReg) (a2 : VReg) (a3 : Bool) : Statement (.mdrain a0 a1 a2 a3) := word rfl (by
  have := a0.isLt
  have := a1.isLt
  have := a2.isLt
  have := bit_le a3
  simp only [put]; omega)
theorem Sys2Proof.Laws.WordForm.msave (a0 : SReg) (a1 : Fin 4) : Statement (.msave a0 a1) := word rfl (by
  have := a0.isLt
  have := a1.isLt
  simp only [put]; omega)
theorem Sys2Proof.Laws.WordForm.mload (a0 : SReg) (a1 : Fin 4) : Statement (.mload a0 a1) := word rfl (by
  have := a0.isLt
  have := a1.isLt
  simp only [put]; omega)
theorem Sys2Proof.Laws.WordForm.msmx (a0 : Fin 4) (a1 : VReg) (a2 : Bool) : Statement (.msmx a0 a1 a2) := word rfl (by
  have := a0.isLt
  have := a1.isLt
  have := bit_le a2
  simp only [put]; omega)
theorem Sys2Proof.Laws.WordForm.mlint (a0 : SReg) (a1 : Fin 4) : Statement (.mlint a0 a1) := word rfl (by
  have := a0.isLt
  have := a1.isLt
  simp only [put]; omega)
theorem Sys2Proof.Laws.WordForm.mtbl (a0 : SReg) : Statement (.mtbl a0) := word rfl (by
  have := a0.isLt
  simp only [put]; omega)
theorem Sys2Proof.Laws.WordForm.copy (a0 : SReg) (a1 : SReg) : Statement (.copy a0 a1) := word rfl (by
  have := a0.isLt
  have := a1.isLt
  simp only [put]; omega)
theorem Sys2Proof.Laws.WordForm.copyw (a0 : SReg) (a1 : SReg) : Statement (.copyw a0 a1) := word rfl (by
  have := a0.isLt
  have := a1.isLt
  simp only [put]; omega)
theorem Sys2Proof.Laws.WordForm.mcast (a0 : SReg) (a1 : SReg) : Statement (.mcast a0 a1) := word rfl (by
  have := a0.isLt
  have := a1.isLt
  simp only [put]; omega)
theorem Sys2Proof.Laws.WordForm.gath (a0 : SReg) (a1 : SReg) (a2 : SReg) : Statement (.gath a0 a1 a2) := word rfl (by
  have := a0.isLt
  have := a1.isLt
  have := a2.isLt
  simp only [put]; omega)
theorem Sys2Proof.Laws.WordForm.scat (a0 : SReg) (a1 : SReg) (a2 : SReg) : Statement (.scat a0 a1 a2) := word rfl (by
  have := a0.isLt
  have := a1.isLt
  have := a2.isLt
  simp only [put]; omega)
theorem Sys2Proof.Laws.WordForm.publ (a0 : SReg) (a1 : SReg) : Statement (.publ a0 a1) := word rfl (by
  have := a0.isLt
  have := a1.isLt
  simp only [put]; omega)
theorem Sys2Proof.Laws.WordForm.qpkt (a0 : SReg) (a1 : SReg) (a2 : SReg) : Statement (.qpkt a0 a1 a2) := word rfl (by
  have := a0.isLt
  have := a1.isLt
  have := a2.isLt
  simp only [put]; omega)
theorem Sys2Proof.Laws.WordForm.puts (a0 : SReg) (a1 : SReg) (a2 : SReg) : Statement (.puts a0 a1 a2) := word rfl (by
  have := a0.isLt
  have := a1.isLt
  have := a2.isLt
  simp only [put]; omega)
theorem Sys2Proof.Laws.WordForm.getr (a0 : SReg) (a1 : SReg) : Statement (.getr a0 a1) := word rfl (by
  have := a0.isLt
  have := a1.isLt
  simp only [put]; omega)
theorem Sys2Proof.Laws.WordForm.coll (a0 : SReg) (a1 : SReg) : Statement (.coll a0 a1) := word rfl (by
  have := a0.isLt
  have := a1.isLt
  simp only [put]; omega)
theorem Sys2Proof.Laws.WordForm.lbset (a0 : SReg) (a1 : SReg) : Statement (.lbset a0 a1) := word rfl (by
  have := a0.isLt
  have := a1.isLt
  simp only [put]; omega)
theorem Sys2Proof.Laws.WordForm.lren (a0 : SReg) (a1 : SReg) (a2 : SReg) : Statement (.lren a0 a1 a2) := word rfl (by
  have := a0.isLt
  have := a1.isLt
  have := a2.isLt
  simp only [put]; omega)
theorem Sys2Proof.Laws.WordForm.uatomAdd (a0 : SReg) (a1 : SReg) (a2 : SReg) (a3 : Bool) (a4 : Bool) (a5 : UScope) : Statement (.uatomAdd a0 a1 a2 a3 a4 a5) := word rfl (by
  have := a0.isLt
  have := a1.isLt
  have := a2.isLt
  have := bit_le a3
  have := bit_le a4
  have := UScope.code_le a5
  simp only [put]; omega)
theorem Sys2Proof.Laws.WordForm.uatomMin (a0 : SReg) (a1 : SReg) (a2 : SReg) (a3 : Bool) (a4 : Bool) (a5 : UScope) : Statement (.uatomMin a0 a1 a2 a3 a4 a5) := word rfl (by
  have := a0.isLt
  have := a1.isLt
  have := a2.isLt
  have := bit_le a3
  have := bit_le a4
  have := UScope.code_le a5
  simp only [put]; omega)
theorem Sys2Proof.Laws.WordForm.uatomMax (a0 : SReg) (a1 : SReg) (a2 : SReg) (a3 : Bool) (a4 : Bool) (a5 : UScope) : Statement (.uatomMax a0 a1 a2 a3 a4 a5) := word rfl (by
  have := a0.isLt
  have := a1.isLt
  have := a2.isLt
  have := bit_le a3
  have := bit_le a4
  have := UScope.code_le a5
  simp only [put]; omega)
theorem Sys2Proof.Laws.WordForm.uatomAnd (a0 : SReg) (a1 : SReg) (a2 : SReg) (a3 : Bool) (a4 : Bool) (a5 : UScope) : Statement (.uatomAnd a0 a1 a2 a3 a4 a5) := word rfl (by
  have := a0.isLt
  have := a1.isLt
  have := a2.isLt
  have := bit_le a3
  have := bit_le a4
  have := UScope.code_le a5
  simp only [put]; omega)
theorem Sys2Proof.Laws.WordForm.uatomOr (a0 : SReg) (a1 : SReg) (a2 : SReg) (a3 : Bool) (a4 : Bool) (a5 : UScope) : Statement (.uatomOr a0 a1 a2 a3 a4 a5) := word rfl (by
  have := a0.isLt
  have := a1.isLt
  have := a2.isLt
  have := bit_le a3
  have := bit_le a4
  have := UScope.code_le a5
  simp only [put]; omega)
theorem Sys2Proof.Laws.WordForm.uatomXor (a0 : SReg) (a1 : SReg) (a2 : SReg) (a3 : Bool) (a4 : Bool) (a5 : UScope) : Statement (.uatomXor a0 a1 a2 a3 a4 a5) := word rfl (by
  have := a0.isLt
  have := a1.isLt
  have := a2.isLt
  have := bit_le a3
  have := bit_le a4
  have := UScope.code_le a5
  simp only [put]; omega)
theorem Sys2Proof.Laws.WordForm.uatomXchg (a0 : SReg) (a1 : SReg) (a2 : SReg) (a3 : Bool) (a4 : Bool) (a5 : UScope) : Statement (.uatomXchg a0 a1 a2 a3 a4 a5) := word rfl (by
  have := a0.isLt
  have := a1.isLt
  have := a2.isLt
  have := bit_le a3
  have := bit_le a4
  have := UScope.code_le a5
  simp only [put]; omega)
theorem Sys2Proof.Laws.WordForm.uatomCas (a0 : SReg) (a1 : SReg) (a2 : SReg) (a3 : Bool) (a4 : Bool) (a5 : UScope) : Statement (.uatomCas a0 a1 a2 a3 a4 a5) := word rfl (by
  have := a0.isLt
  have := a1.isLt
  have := a2.isLt
  have := bit_le a3
  have := bit_le a4
  have := UScope.code_le a5
  simp only [put]; omega)
theorem Sys2Proof.Laws.WordForm.phaseBoundaryComplete (a0 : Nat) : Statement (.phaseBoundaryComplete a0) := noWord rfl
theorem Sys2Proof.Laws.WordForm.cbarBoundaryComplete (a0 : Nat) : Statement (.cbarBoundaryComplete a0) := noWord rfl
theorem Sys2Proof.Laws.WordForm.teamEnd (a0 : Nat) : Statement (.teamEnd a0) := noWord rfl
theorem Sys2Proof.Laws.WordForm.barrierArrivalHeldCounted (a0 : Nat) (a1 : Fin 8) : Statement (.barrierArrivalHeldCounted a0 a1) := noWord rfl
theorem Sys2Proof.Laws.WordForm.homeRenewal (a0 : Nat) (a1 : Option Nat) (a2 : Bool) : Statement (.homeRenewal a0 a1 a2) := noWord rfl
theorem Sys2Proof.Laws.WordForm.renewalReply (a0 : Nat) (a1 : Option Nat) : Statement (.renewalReply a0 a1) := noWord rfl
theorem Sys2Proof.Laws.WordForm.homePublication (a0 : Nat) (a1 : Bool) : Statement (.homePublication a0 a1) := noWord rfl
theorem Sys2Proof.Laws.WordForm.publicationReply (a0 : Nat) : Statement (.publicationReply a0) := noWord rfl
theorem Sys2Proof.Laws.WordForm.homeAtomic (a0 : Nat) (a1 : Bool) : Statement (.homeAtomic a0 a1) := noWord rfl
theorem Sys2Proof.Laws.WordForm.atomicReply (a0 : Nat) : Statement (.atomicReply a0) := noWord rfl
theorem Sys2Proof.Laws.WordForm.uncachedAccessAtHome (a0 : Nat) (a1 : Bool) : Statement (.uncachedAccessAtHome a0 a1) := noWord rfl
theorem Sys2Proof.Laws.WordForm.forcedVisibilityPoint (a0 : Nat) : Statement (.forcedVisibilityPoint a0) := noWord rfl
theorem Sys2Proof.Laws.WordForm.daddUpdateArrival (a0 : Nat) : Statement (.daddUpdateArrival a0) := noWord rfl
theorem Sys2Proof.Laws.WordForm.gridBoundary (a0 : Nat) : Statement (.gridBoundary a0) := noWord rfl
theorem Sys2Proof.Laws.WordForm.rebaseAdjustTimeout (a0 : Nat) : Statement (.rebaseAdjustTimeout a0) := noWord rfl
theorem Sys2Proof.Laws.WordForm.rebaseComplete : Statement .rebaseComplete := noWord rfl
theorem Sys2Proof.Laws.WordForm.linkWake (a0 : Fin 3) : Statement (.linkWake a0) := noWord rfl
theorem Sys2Proof.Laws.WordForm.linkWakeTimeout (a0 : Fin 3) : Statement (.linkWakeTimeout a0) := noWord rfl
theorem Sys2Proof.Laws.WordForm.linkRetrainFailure (a0 : Fin 3) : Statement (.linkRetrainFailure a0) := noWord rfl
theorem Sys2Proof.Laws.WordForm.dieSelfFence (a0 : Fin 2) : Statement (.dieSelfFence a0) := noWord rfl
theorem Sys2Proof.Laws.WordForm.dieDeclaredDead (a0 : Fin 2) : Statement (.dieDeclaredDead a0) := noWord rfl
theorem Sys2Proof.Laws.WordForm.dieRejoin (a0 : Fin 2) : Statement (.dieRejoin a0) := noWord rfl
theorem Sys2Proof.Laws.WordForm.hostWrite (a0 : Nat) (a1 : List Byte) : Statement (.hostWrite a0 a1) := noWord rfl
theorem Sys2Proof.Laws.WordForm.hostRead (a0 : Nat) (a1 : Nat) (a2 : Bool) : Statement (.hostRead a0 a1 a2) := noWord rfl
theorem Sys2Proof.Laws.WordForm.hostLinkFailure : Statement .hostLinkFailure := noWord rfl
theorem Sys2Proof.Laws.WordForm.remoteResponse (a0 : Nat) (a1 : RemoteAnswer) : Statement (.remoteResponse a0 a1) := noWord rfl
theorem Sys2Proof.Laws.WordForm.remoteTimeout (a0 : Nat) : Statement (.remoteTimeout a0) := noWord rfl
theorem Sys2Proof.Laws.WordForm.remoteAccessIngress (a0 : Nat) (a1 : Nat) (a2 : RemoteAccess) : Statement (.remoteAccessIngress a0 a1 a2) := noWord rfl
theorem Sys2Proof.Laws.WordForm.lsFillComplete (a0 : Nat) (a1 : Nat) : Statement (.lsFillComplete a0 a1) := noWord rfl
theorem Sys2Proof.Laws.WordForm.lsStallTimeout (a0 : Nat) (a1 : Nat) : Statement (.lsStallTimeout a0 a1) := noWord rfl
theorem Sys2Proof.Laws.WordForm.pageResident (a0 : Nat) (a1 : Nat) (a2 : Option Nat) : Statement (.pageResident a0 a1 a2) := noWord rfl
theorem Sys2Proof.Laws.WordForm.readDuplicateCollapse (a0 : Nat) (a1 : Nat) : Statement (.readDuplicateCollapse a0 a1) := noWord rfl
theorem Sys2Proof.Laws.WordForm.engineCommandStart (a0 : Nat) : Statement (.engineCommandStart a0) := noWord rfl
theorem Sys2Proof.Laws.WordForm.enginePublication (a0 : Nat) : Statement (.enginePublication a0) := noWord rfl
theorem Sys2Proof.Laws.WordForm.engineCommandFault (a0 : Nat) (a1 : Nat) (a2 : Nat) : Statement (.engineCommandFault a0 a1 a2) := noWord rfl
theorem Sys2Proof.Laws.WordForm.ticketComplete (a0 : Nat) : Statement (.ticketComplete a0) := noWord rfl
theorem Sys2Proof.Laws.WordForm.mcastLanding (a0 : Nat) (a1 : Nat) : Statement (.mcastLanding a0 a1) := noWord rfl
theorem Sys2Proof.Laws.WordForm.queueSlotServe (a0 : Nat) (a1 : Nat) : Statement (.queueSlotServe a0 a1) := noWord rfl
theorem Sys2Proof.Laws.WordForm.putsSignal (a0 : Nat) : Statement (.putsSignal a0) := noWord rfl
theorem Sys2Proof.Laws.WordForm.collectiveMessage (a0 : _) (a1 : _) (a2 : _) (a3 : _) : Statement (.collectiveMessage a0 a1 a2 a3) := noWord rfl
theorem Sys2Proof.Laws.WordForm.collectivePartnerTimeout (a0 : Nat) (a1 : Option Nat) : Statement (.collectivePartnerTimeout a0 a1) := noWord rfl
theorem Sys2Proof.Laws.WordForm.engineRemoteTimeout (a0 : Nat) : Statement (.engineRemoteTimeout a0) := noWord rfl
theorem Sys2Proof.Laws.WordForm.lateReply (a0 : Nat) : Statement (.lateReply a0) := noWord rfl
theorem Sys2Proof.Laws.WordForm.teamTrapHalt (a0 : Nat) : Statement (.teamTrapHalt a0) := noWord rfl
theorem Sys2Proof.Laws.WordForm.fpTrapCollectionClose (a0 : Nat) (a1 : Nat) : Statement (.fpTrapCollectionClose a0 a1) := noWord rfl
theorem Sys2Proof.Laws.WordForm.misalignedEmulation (a0 : Nat) (a1 : Nat) : Statement (.misalignedEmulation a0 a1) := noWord rfl
theorem Sys2Proof.Laws.WordForm.handlerPlace (a0 : Nat) (a1 : Nat) : Statement (.handlerPlace a0 a1) := noWord rfl
theorem Sys2Proof.Laws.WordForm.watchdog (a0 : Nat) : Statement (.watchdog a0) := noWord rfl
theorem Sys2Proof.Laws.WordForm.teamPlace (a0 : Nat) (a1 : Nat) : Statement (.teamPlace a0 a1) := noWord rfl
theorem Sys2Proof.Laws.WordForm.quantExpiry (a0 : Nat) : Statement (.quantExpiry a0) := noWord rfl
theorem Sys2Proof.Laws.WordForm.preemptSchedulerChoice (a0 : Nat) (a1 : Nat) : Statement (.preemptSchedulerChoice a0 a1) := noWord rfl
theorem Sys2Proof.Laws.WordForm.preemptDrain (a0 : Nat) (a1 : Nat) : Statement (.preemptDrain a0 a1) := noWord rfl
theorem Sys2Proof.Laws.WordForm.preemptSave (a0 : Nat) (a1 : Nat) : Statement (.preemptSave a0 a1) := noWord rfl
theorem Sys2Proof.Laws.WordForm.preemptFlush (a0 : Nat) (a1 : Nat) : Statement (.preemptFlush a0 a1) := noWord rfl
theorem Sys2Proof.Laws.WordForm.drainLimitExpiry (a0 : Nat) : Statement (.drainLimitExpiry a0) := noWord rfl
theorem Sys2Proof.Laws.WordForm.carveOutChange (a0 : Nat) : Statement (.carveOutChange a0) := noWord rfl
theorem Sys2Proof.Laws.WordForm.carveOutTimeout (a0 : Nat) : Statement (.carveOutTimeout a0) := noWord rfl
theorem Sys2Proof.Laws.WordForm.coreRetire (a0 : Nat) : Statement (.coreRetire a0) := noWord rfl
theorem Sys2Proof.Laws.WordForm.coreReturn (a0 : Nat) : Statement (.coreReturn a0) := noWord rfl
theorem Sys2Proof.Laws.WordForm.cocoonOut (a0 : Fin 8) : Statement (.cocoonOut a0) := noWord rfl
theorem Sys2Proof.Laws.WordForm.cocoonIn (a0 : Fin 8) : Statement (.cocoonIn a0) := noWord rfl
theorem Sys2Proof.Laws.WordForm.graphSubmit (a0 : Nat) : Statement (.graphSubmit a0) := noWord rfl
theorem Sys2Proof.Laws.WordForm.launchRequest (a0 : Nat) : Statement (.launchRequest a0) := noWord rfl
theorem Sys2Proof.Laws.WordForm.ntokRequest (a0 : Nat) : Statement (.ntokRequest a0) := noWord rfl
theorem Sys2Proof.Laws.WordForm.nodeDispatch (a0 : Nat) (a1 : Nat) (a2 : List Nat) : Statement (.nodeDispatch a0 a1 a2) := noWord rfl
theorem Sys2Proof.Laws.WordForm.teamSteal (a0 : Nat) (a1 : Nat) : Statement (.teamSteal a0 a1) := noWord rfl
theorem Sys2Proof.Laws.WordForm.nodeCommit (a0 : Nat) : Statement (.nodeCommit a0) := noWord rfl
theorem Sys2Proof.Laws.WordForm.nodeFail (a0 : Nat) : Statement (.nodeFail a0) := noWord rfl
theorem Sys2Proof.Laws.WordForm.graphEnd (a0 : Nat) : Statement (.graphEnd a0) := noWord rfl
theorem Sys2Proof.Laws.WordForm.fabricStationDown (a0 : Fin 8) : Statement (.fabricStationDown a0) := noWord rfl
theorem Sys2Proof.Laws.WordForm.deviceUnreachable (a0 : Nat) : Statement (.deviceUnreachable a0) := noWord rfl
theorem Sys2Proof.Laws.WordForm.gateDie (a0 : Fin 2) : Statement (.gateDie a0) := noWord rfl
theorem Sys2Proof.Laws.WordForm.ungateDie (a0 : Fin 2) : Statement (.ungateDie a0) := noWord rfl
theorem Sys2Proof.Laws.WordForm.dieReset (a0 : Fin 2) : Statement (.dieReset a0) := noWord rfl
theorem Sys2Proof.Laws.WordForm.bar0RegisterWrite (a0 : Nat) (a1 : DWord) : Statement (.bar0RegisterWrite a0 a1) := noWord rfl
theorem Sys2Proof.Laws.WordForm.d3hotEntry : Statement .d3hotEntry := noWord rfl
theorem Sys2Proof.Laws.WordForm.d0Return : Statement .d0Return := noWord rfl
theorem Sys2Proof.Laws.WordForm.auxiliaryPowerOnly : Statement .auxiliaryPowerOnly := noWord rfl
theorem Sys2Proof.Laws.WordForm.moduleReset (a0 : Bool) (a1 : Bool) : Statement (.moduleReset a0 a1) := noWord rfl
theorem Sys2Proof.Laws.WordForm.powerLimitSet (a0 : Nat) : Statement (.powerLimitSet a0) := noWord rfl
theorem Sys2Proof.Laws.WordForm.pldmBaseDiscovery : Statement .pldmBaseDiscovery := noWord rfl
theorem Sys2Proof.Laws.WordForm.pldmMonitoring (a0 : Nat) : Statement (.pldmMonitoring a0) := noWord rfl
theorem Sys2Proof.Laws.WordForm.pldmFirmwareUpdate (a0 : Nat) (a1 : Bool) : Statement (.pldmFirmwareUpdate a0 a1) := noWord rfl
theorem Sys2Proof.Laws.WordForm.getMeasurements : Statement .getMeasurements := noWord rfl
theorem Sys2Proof.Laws.WordForm.rmaEntryRequest (a0 : Bool) : Statement (.rmaEntryRequest a0) := noWord rfl
theorem Sys2Proof.Laws.WordForm.debugLevelRequest (a0 : Fin 3) (a1 : Bool) : Statement (.debugLevelRequest a0 a1) := noWord rfl
theorem Sys2Proof.Laws.WordForm.debugAccess (a0 : DebugOp) : Statement (.debugAccess a0) := noWord rfl
theorem Sys2Proof.Laws.WordForm.bridgeLinkSleep (a0 : Fin 3) : Statement (.bridgeLinkSleep a0) := noWord rfl
theorem Sys2Proof.Laws.WordForm.bridgeLinkUp (a0 : Fin 3) : Statement (.bridgeLinkUp a0) := noWord rfl
theorem Sys2Proof.Laws.WordForm.bridgeLinkDown (a0 : Fin 3) : Statement (.bridgeLinkDown a0) := noWord rfl
theorem Sys2Proof.Laws.WordForm.fabricStationUp (a0 : Fin 8) (a1 : BitVec 10) : Statement (.fabricStationUp a0 a1) := noWord rfl
theorem Sys2Proof.Laws.WordForm.hostLinkRetrained : Statement .hostLinkRetrained := noWord rfl
theorem Sys2Proof.Laws.WordForm.hdmDecoderCommit (a0 : Nat) (a1 : Nat) : Statement (.hdmDecoderCommit a0 a1) := noWord rfl
theorem Sys2Proof.Laws.WordForm.backInvalidateResponse (a0 : _) (a1 : _) : Statement (.backInvalidateResponse a0 a1) := noWord rfl
theorem Sys2Proof.Laws.WordForm.cxlCacheResponse (a0 : Nat) (a1 : List Byte) : Statement (.cxlCacheResponse a0 a1) := noWord rfl
theorem Sys2Proof.Laws.WordForm.pageRequestClosed (a0 : Nat) (a1 : Nat) : Statement (.pageRequestClosed a0 a1) := noWord rfl
theorem Sys2Proof.Laws.WordForm.spdmSecuredSession : Statement .spdmSecuredSession := noWord rfl
end

