-- ==== Sys2Proof/Tests/Slice0.lean ====
section
/-!
SUPPORT. Tests on small states: that ill-formed operands are refused, that words of the manual decode, results that the manual
works out, and for every statement with hypotheses a state and operands that meet them.
-/

namespace Sys2Proof.Tests

open Sys2Proof Sys2Proof.Machine Sys2Proof.Claims

set_option Elab.async false

/-! ### Small states -/

/-- A quad of a page table as (address, byte) pairs. -/
def entry (a v : Nat) : List (Nat × Byte) := bytesAt a (bytesLE 8 v)

/-- Page tables of context 0. 512 MiB each from 0: LEASED, UNCACHED, HOSTED, REMOTE of device 5; from 0x80000000 on 64 KiB
pages: one absent, one read-duplicated, one LEASED and writable, one that lets no one write. -/
def tables : List (Nat × Byte) :=
  entry 0x10000 0x20003 ++ entry 0x20000 0x231 ++ entry 0x20008 0x20000239 ++ entry 0x20010 0x40000235
    ++ entry 0x20018 0x0000A0000000023D ++ entry 0x20020 0x40003
    ++ entry 0x40000 0x80000031 ++ entry 0x40008 0x80100331 ++ entry 0x40010 0x80200231 ++ entry 0x40018 0x80300221

/-- One team, 1, of one group on core 0 with a window of 8 KiB, its page 0 resident. -/
def t0 : State :=
  let s := State.reset.withTeam
  let s1 : State := { s with cur := (1, 0), agenda := [], mem := s.mem.writeList tables }
  let s2 := s1.setTeam { s1.team with lswin := 8, kernel := { s1.team.kernel with carry := [[]] } }
  s2.setCore { s2.core with ltt := [{ team := 1, vpage := 0, frame := 128, dirty := false, acc := false, state := 0, shd := false }] }

def grpW (f : Group → Group) : State := t0.setGrp (f t0.grp)
def teamW (f : Team → Team) : State := t0.setTeam (f t0.team)
def coreW (f : Core → Core) : State := t0.setCore (f t0.core)
def devW (f : Dev → Dev) : State := { t0 with dev := f t0.dev }
def netW (f : Net → Net) : State := { t0 with net := f t0.net }

/-- The team has a second group, at the same place. -/
def two (f : Group → Group) : State := (teamW (fun x => { x with ngrp := 2 })).setAgent 1 1 (f t0.grp)

/-- The group with uniform registers set. -/
def regS (l : List (SReg × Nat)) : State :=
  grpW (fun g => l.foldl (fun g p => g.setS p.1 (BitVec.ofNat 64 p.2)) g)

/-- Memory with bytes written on top. -/
def withMem (l : List (Nat × Byte)) (s : State) : State := { s with mem := s.mem.writeList l }

/-- Bytes that the team holds unpublished. -/
def unpubAt (a : Nat) (bs : List Byte) : List (Nat × Byte) := bytesAt a bs

/-! ### Operands out of range (R39, R41, R44, R48, R128) -/

theorem test_wf_icmp_k0 : (Instr.icmp 0 .lt 1 2 false false 0).wf = false := by decide
theorem test_wf_icmp_unordered : (Instr.icmp 1 .un 1 2 false false 0).wf = false := by decide
theorem test_wf_ncmp_k0 : (Instr.ncmp 0 .lt 1 2 false false 0).wf = false := by decide
theorem test_wf_ncmp_ordered : (Instr.ncmp 1 .ord 1 2 false false 0).wf = false := by decide
theorem test_wf_fcmp_k0 : (Instr.fcmp 0 .lt 1 2 false false 0).wf = false := by decide
theorem test_wf_icmpi_k0 : (Instr.icmpi 0 .lt 2 0 true 0).wf = false := by decide
theorem test_wf_icmpi_unordered : (Instr.icmpi 1 .un 2 0 true 0).wf = false := by decide
theorem test_wf_wide : [Instr.ldg 125 1 2 .x4 false 0, .stg 125 1 2 .x4 false 0, .ldl 125 1 2 .x4 false 0, .stl 125 1 2 .x4 false 0,
    .ldw 125 1 2 .x4 false 0, .stw 125 1 2 .x4 false 0, .ldk 125 1 2 .x4 false 0].all (fun i => !i.wf) = true := by decide
theorem test_wf_wide_last : (Instr.ldg 124 1 2 .x4 false 0).wf = true := by decide
theorem test_wf_ldgp_k0 : (Instr.ldgp 6 4 3 0 1).wf = false := by decide
theorem test_wf_ldlt_wide : (Instr.ldlt 3 1 2 .x4 false 0).wf = false := by decide
theorem test_wf_cas : [Instr.atomgCas 127 1 2 0, .atomlCas 127 1 2 0, .atomwCas 127 1 2 0].all (fun i => !i.wf) = true := by decide
theorem test_wf_kmov_k0 : (Instr.kmovFromLane 1 0 false).wf = false := by decide
theorem test_wf_kops_k0 : [Instr.kand 0 1 2, .kor 0 1 2, .kxor 0 1 2, .kandn 0 1 2, .knot 0 1, .kfroms 0 1].all (fun i => !i.wf)
    = true := by decide
theorem test_wf_phase_empty : (Instr.phase true 1).wf = false ∧ (Instr.cbar true 1).wf = false := by decide
theorem test_wf_trap_reserved : (Instr.trap 0xFF).wf = false := by decide
theorem test_wf_mlint : (Instr.mlint 61 0).wf = false ∧ (Instr.mlint 62 0).wf = false := by decide

/-! ### Words of the manual, a field at a time -/

/-- R84, by hand: IADD v5, v6, v7!, k2 is 0x00 << 25 | 5 << 18 | 6 << 11 | 7 << 4 | 0 << 3 | 1 << 2 | 2. -/
theorem test_decode_iadd : decodeTableWord 32 0x00143076 = some (.iadd 5 6 7 false true 2) := by decide +kernel
/-- The manual's N30: ICMPI.lt k1, v2!, 0. -/
theorem test_decode_icmpi : decodeTableWord 32 0x5C481004 = some (.icmpi 1 .lt 2 0 true 0) := by decide +kernel
/-- The same word with kd 0, which traps 0x01 (R39). -/
theorem test_decode_icmpi_k0 : decodeTableWord 32 0x5C081004 = none := by decide +kernel
theorem test_decode_ffma : decodeTableWord 32 0x3E281030 = some (.ffma 10 2 3 false false 0) := by decide +kernel
theorem test_decode_addi : decodeTableWord 32 0x8268BFFF = some (.addi 13 5 (-1)) := by decide +kernel
theorem test_decode_jr_return : decodeTableWord 32 0xB207C002 = some (.jrReturn 62 false) := by decide +kernel
theorem test_decode_spin : decodeTableWord 32 0xBC009800 = some (.spin 4 0) := by decide +kernel
theorem test_decode_mma : decodeTableWord 32 0xE20831FD = some (.mma 0 8 24 63 true false true) := by decide +kernel
theorem test_decode_mtbl : decodeTableWord 32 0xF2018000 = some (.mtbl 12) := by decide +kernel
theorem test_decode_stg : decodeTableWord 32 0x6AE018B8 = some (.stg 56 3 5 .x4 false 0) := by decide +kernel
theorem test_decode_ldgp : decodeTableWord 32 0x76182069 = some (.ldgp 6 4 3 2 1) := by decide +kernel
theorem test_decode_ldks : decodeTableWord 32 0x9C2FF804 = some (.ldks 5 63 .b64 4) := by decide +kernel
theorem test_decode_event_width : decodeTableWord 8 0 = none := by decide +kernel
theorem test_decode_short : decodeBytes [0, 0, 0] = .error .tooShort := by rfl

/-! ### Results that the manual gives (R79, R84, R111, R145) -/

/-- R145's polynomial: G = 2^127 steps to 0x87, whose word is 0 ⊕ 0. -/
theorem test_rnxt_reduces : (match exec (.rnxt 1) (grpW (fun g => { g with gen := 2 ^ 127 })) with
    | .next t => t.grp.gen == 0x87 && t.grp.getS 1 == 0
    | _ => false) = true := by decide +kernel
/-- R145: G = 2^31 steps to 2^32, whose word (G ⊕ G >> 64 halves) is 1 from bits 63:32. -/
theorem test_rnxt_word : (match exec (.rnxt 1) (grpW (fun g => { g with gen := 2 ^ 31 })) with
    | .next t => t.grp.getS 1 == 1
    | _ => false) = true := by decide +kernel
/-- R84: (-1) × 2 has high word -1 as signed numbers, and 1 as natural numbers. -/
theorem test_imulh : (match exec (.imulh 3 1 2 false false 0) (grpW (fun g => (g.setV 1 (fillv 32 0xFFFFFFFF)).setV 2 (fillv 32 2))) with
    | .next t => t.grp.lane 3 0 == 0xFFFFFFFF
    | _ => false) = true := by decide +kernel
theorem test_nmulh : (match exec (.nmulhLane 3 1 2 false false 0) (grpW (fun g => (g.setV 1 (fillv 32 0xFFFFFFFF)).setV 2 (fillv 32 2))) with
    | .next t => t.grp.lane 3 31 == 1
    | _ => false) = true := by decide +kernel
/-- R86: a count of 32 shifts everything out. -/
theorem test_shl_32 : (match exec (.shlLane 3 1 2 false false 0) (grpW (fun g => (g.setV 1 (fillv 32 1)).setV 2 (fillv 32 32))) with
    | .next t => t.grp.lane 3 0 == 0
    | _ => false) = true := by decide +kernel
/-- R111: division by 0 gives all ones. -/
theorem test_sdiv_zero : (match exec (.sdiv 3 1 2 false false) (regS [(1, 7)]) with
    | .next t => t.grp.getS 3 == 0xFFFFFFFFFFFFFFFF
    | _ => false) = true := by decide +kernel
/-- R93: 1 + 2 = 3, exactly. -/
theorem test_fadd : (match exec (.fadd 3 1 2 false false 0) (grpW (fun g => (g.setV 1 (fillv 32 0x3F800000)).setV 2 (fillv 32 0x40000000))) with
    | .next t => t.grp.lane 3 5 == 0x40400000 && t.grp.fpsr == 0
    | _ => false) = true := by decide +kernel
/-- R103: the reciprocal of 0 is infinite and raises dz, bit 1 of cr.fpsr. -/
theorem test_frcp_zero : (match exec (.frcp 3 1 false 0) t0 with
    | .next t => t.grp.lane 3 0 == 0x7F800000 && t.grp.fpsr == 2
    | _ => false) = true := by decide +kernel

/-! ### Witnesses: control -/

theorem witness_RoundingAndSpecialValues : fp32.decode 0x3F800000 = .num false (2 ^ 23) (-23)
    ∧ (fp32.decode 0x3F800000).isNan = false ∧ (fp32.decode 0x3F800000).diff (.num false 1 1) ≤ 0
    ∧ 0 ≤ (fp32.decode 0x3F800000).diff (.num false 1 (-1)) := by decide +kernel

theorem witness_RoundingAndSpecialValues_exact : let a := fp32.decode 0x3F800000
    let n := fp32.decode 0xBF800000
    let o := fp32.decode 0
    a.isNum = true ∧ a.isZero = false ∧ a.isNeg = false ∧ n.isNum = true ∧ n.isZero = false ∧ n.isNeg = true ∧ o.isNum = true
      ∧ (sumOf 0 a a).isZero = false ∧ (sumOf 0 a n).isZero = true ∧ (productOf a n).isZero = false ∧ (productOf a o).isZero = true
      ∧ t0.grp.fz = false ∧ (grpW (fun g => { g with fpcr := 128 })).grp.fz = true := by decide +kernel
/-- 3/2 in each direction. -/
theorem witness_RoundingAndSpecialValues_integral (rm : Rm) :
    IntRounds rm (.num false 3 (-1)) (match rm with | .rd => 1 | .ru => 2 | .rz => 1 | .rne => 2) := by
  cases rm <;> (unfold IntRounds; decide +kernel)

theorem witness_LaneLogicAndShifts (A : Nat → Word) : ∃ f : Nat → Word, ∀ l i, i < 32 → (f l).getLsbD i = (A l).getLsbD (31 - i) :=
  ⟨fun l => (A l).reverse, fun l i h => by rw [BitVec.getLsbD_reverse, BitVec.getMsbD]; simp [h]⟩

theorem witness_LanesToUniform : t0.grp.issuers ≠ [] ∧ t0.grp.issuers.getLast? = some 31
    ∧ ∃ u, exec (.lscanAddF32 3 1 false 0) t0 = .next u := ⟨by decide +kernel, by decide +kernel, _, rfl⟩

/-- Every active lane at P; the sides of each test; a target that fits, the last one. -/
theorem witness_BranchesMoveIssuingLanes :
    (∀ l, l < 32 → t0.grp.isActive l = true → t0.grp.lanePc l = t0.grp.pc)
      ∧ ((regS [(1, 0)]).grp.getS 1).toInt = 0 ∧ ((regS [(1, 2 ^ 63)]).grp.getS 1).toInt < 0
      ∧ (∀ l ∈ t0.grp.issuers, t0.grp.getK 0 l = true) ∧ ¬ (∃ l ∈ t0.grp.issuers, t0.grp.getK 1 l = true)
      ∧ ((regS [(1, 2 ^ 52 - 4)]).grp.getS 1).toNat % 4 = 0 ∧ ((regS [(1, 2 ^ 52 - 4)]).grp.getS 1).toNat < 2 ^ 52 := by
  decide +kernel

/-- Lane 1 is a word behind the others. -/
def apart : State := grpW (fun g => { g with pcs := vset g.pcs 1 0x2FFFC })
/-- Predicate 1 is set in lane 0 only. -/
def split : State := grpW (fun g => { g with k := vset g.k 1 1 })

theorem witness_ControlTrapsArePrecise : t0.cur.2 < 18 ∧ 0x100 ≤ (0x100 : BitVec 13).toNat ∧ (0xFF : BitVec 13).toNat < 0x100
    ∧ (∃ l, l < 32 ∧ apart.grp.isActive l = true ∧ apart.grp.lanePc l ≠ apart.grp.pc)
    ∧ (∃ l ∈ split.grp.issuers, split.grp.getK 1 l = true) ∧ (∃ l ∈ split.grp.issuers, split.grp.getK 1 l = false)
    ∧ ((regS [(1, 3)]).grp.getS 1).toNat % 4 ≠ 0
    ∧ ((regS [(1, 2 ^ 52)]).grp.getS 1).toNat % 4 = 0 ∧ 2 ^ 52 ≤ ((regS [(1, 2 ^ 52)]).grp.getS 1).toNat
    ∧ t0.team.trap = none
    ∧ (teamW (fun x => { x with trap := some { code := 4, kind := 0, agent := 0, fva := 0, svc := 0 } })).team.trap ≠ none := by
  decide +kernel

def side : State := { t0 with cur := (1, 16) }

theorem witness_HaltAndNop : t0.cur.2 < 16 ∧ (∀ a, a < t0.team.ngrp → a ≠ t0.cur.2 → (t0.agent t0.cur.1 a).standing = none)
    ∧ 16 ≤ side.cur.2 ∧ (∀ a, a < (two id).team.ngrp → a ≠ (two id).cur.2 → ((two id).agent (two id).cur.1 a).standing = none) := by
  decide +kernel

/-- Barrier 3 with this count, and an arrival held at it. -/
def hbS (n : Nat) (q : List (Fin 8 × Nat)) : State :=
  teamW (fun x => { x with hb := vset x.hb 3 n, hbq := q, hbHeld := [(3, none)] })

theorem witness_HardwareBarriers :
    (hbS 0 []).grp.stores = [] ∧ (hbS 65534 []).team.count 3 < 65535
      ∧ 1 ≤ (hbS 1 []).team.count 3 ∧ (((hbS 1 []).team.hbq.find? (fun p => p.1 == 3)).getD (3, (hbS 1 []).cur.2)) = (3, (hbS 1 []).cur.2)
      ∧ (((hbS 2 [(3, 1)]).team.hbq.find? (fun p => p.1 == 3)).getD (3, 0)) ≠ (3, (hbS 1 []).cur.2)
      ∧ (hbS 0 []).team.count 3 = 0
      ∧ ((hbS 0 []).teamOf 1).hbHeld.find? (fun p => p.1 == 3) = some (3, none) ∧ ((hbS 0 []).teamOf 1).status = .placed
      ∧ ((hbS 65534 []).teamOf 1).count 3 < 65535 := by decide +kernel

/-- Of two groups, the second waits at the same PHASE, or at a CBAR. -/
def waits (cbar : Bool) : State := two (fun g => { g with status := .boundary cbar 0 })

theorem witness_BoundaryArrivals :
    t0.cur.2 < 16 ∧ t0.grp.status = .run ∧ ¬ ((1 : BitVec 8).toNat < t0.team.kernel.carry.length) ∧ ¬ ((1 : BitVec 8) = 0)
      ∧ (0 : BitVec 8).toNat < t0.team.kernel.carry.length
      ∧ (∃ l, l < 32 ∧ apart.grp.isActive l = true ∧ apart.grp.lanePc l ≠ apart.grp.pc)
      ∧ (∀ l, l < 32 → t0.grp.isActive l = true → t0.grp.lanePc l = t0.grp.pc)
      ∧ t0.grp.tickets = [] ∧ t0.grp.stores = [] ∧ t0.cur.2 ∈ t0.liveGroups t0.cur.1 ∧ t0.team.begun = none
      ∧ (∃ a ∈ ((two id).liveGroups 1).filter (fun a => decide (a ≠ 0)), ((two id).agent 1 a).standing = none)
      ∧ (∀ a ∈ ((waits false).liveGroups 1).filter (fun a => decide (a ≠ 0)),
          ((waits false).agent 1 a).standing = some (false, 0, (waits false).grp.pc.toNat))
      ∧ ((waits false).liveGroups 1).filter (fun a => decide (a ≠ 0)) ≠ []
      ∧ t0.team.unpub = [] ∧ (t0.gridOf t0.team.grid).failing = none
      ∧ (∃ a ∈ ((waits true).liveGroups 1).filter (fun a => decide (a ≠ 0)),
          ((waits true).agent 1 a).standing ≠ some (false, 0, (waits true).grp.pc.toNat) ∧ ((waits true).agent 1 a).standing ≠ none) := by
  decide +kernel

/-- The team has begun a boundary, and both its groups wait at it. -/
def begunS (cbar : Bool) : State :=
  let s := (waits cbar).setGrp { (waits cbar).grp with status := .boundary cbar 0 }
  s.setTeam { s.team with begun := some cbar }

theorem witness_BoundariesJoinTime_phase : let s := begunS false
    s.liveGroups 1 ≠ [] ∧ s.boundaryReady 1 false = true ∧ (s.teamOf 1).pubTrap = none ∧ (s.teamOf 1).request = none ∧ s.dev.rebase = false
      ∧ Nat.max (s.coreOf (s.teamOf 1).core).ct (s.teamOf 1).got + 1 < 2 ^ 31 ∧ s.liveGroups 1 = [0, 1]
      ∧ (s.gridOf (s.teamOf 1).grid).failing = none
      ∧ ∀ a ∈ s.liveGroups 1, (s.agent 1 a).standing = some (false, 0, 0x30000) := by decide +kernel

theorem witness_BoundariesJoinTime_cbar : let s := begunS true
    let all := s.teamKeys.filter (fun t => (s.teamOf t).cluster == (s.teamOf 1).cluster && (s.teamOf t).handles.isNone
      && (s.teamOf t).status != .ended)
    all = [1] ∧ all.Nodup
      ∧ (∀ t ∈ all, s.boundaryReady t true = true ∧ (s.teamOf t).pubTrap = none ∧ (s.teamOf t).request = none
        ∧ (s.gridOf (s.teamOf t).grid).failing = none ∧ (s.teamOf t).ngrp ≤ 16 ∧ s.liveGroups t ≠ []
        ∧ ∀ a ∈ s.liveGroups t, (s.agent t a).standing = some (true, 0, 0x30000))
      ∧ s.dev.rebase = false ∧ Nat.max (s.coreOf (s.teamOf 1).core).ct (s.teamOf 1).got + 1 < 2 ^ 31 := by decide +kernel

theorem quiet_of (s : State) (h : s.grp.status = .run ∧ s.grp.stores = [] ∧ s.team.unpub = [] ∧ s.team.pubTrap = none
    ∧ s.team.remTrap = [] ∧ (∀ p ∈ s.team.pubs, p.id < s.net.nextId) ∧ s.homeQuiet s.cur.1 s.cur.2 = true
    ∧ s.remoteQuiet s.cur.1 s.cur.2 = true) : Quiet s := h

theorem quiet_t0 : Quiet t0 := quiet_of t0 (by decide +kernel)

/-- Four bytes that the team holds unpublished, at a writable LEASED address. -/
def pubS : State := teamW (fun x => { x with unpub := unpubAt 0x1000 [1, 2, 3, 4] })

theorem witness_FencesPublishAndRenewTheView : Quiet t0 ∧ t0.dev.rebase = false ∧ t0.team.pubs = []
    ∧ pubS.grp.status = .run ∧ pubS.grp.stores = [] ∧ pubS.team.pubTrap = none ∧ pubS.team.remTrap = [] ∧ pubS.team.unpub ≠ []
    ∧ pubS.closedUnpub pubS.cur.1 = none ∧ pubS.absentUnpub pubS.cur.1 = [] :=
  ⟨quiet_t0, by decide +kernel⟩

theorem quiet_spin (n : Nat) (h : n ∈ [4, 8, 0x20000000, 0x40000000, 0x60000000]) : Quiet (regS [(1, n)]) := by
  simp only [List.mem_cons, List.not_mem_nil, or_false] at h
  rcases h with rfl | rfl | rfl | rfl | rfl <;> exact quiet_of _ (by decide +kernel)

theorem witness_SpinRenewsItsLine : (∀ n ∈ [4, 8, 0x20000000, 0x40000000, 0x60000000], Quiet (regS [(1, n)]))
    ∧ (regS [(1, 4)]).grp.uniAddr 1 .b64 0 % 8 ≠ 0
    ∧ (∀ n ∈ [8, 0x20000000, 0x40000000, 0x60000000], (regS [(1, n)]).grp.uniAddr 1 .b64 0 % 8 = 0)
    ∧ (∀ p ∈ [(8, Attr.leased), (0x20000000, .uncached), (0x40000000, .hosted), (0x60000000, .remote)],
        (regS [(1, p.1)]).attrAt 1 ((regS [(1, p.1)]).grp.uniAddr 1 .b64 0) = p.2
          ∧ (regS [(1, p.1)]).chkGlobal 1 ((regS [(1, p.1)]).grp.uniAddr 1 .b64 0) .load = .ok)
    ∧ t0.core.ct + 1 < 2 ^ 31 ∧ t0.cur.2 < 18 ∧ t0.dev.rebase = false :=
  ⟨quiet_spin, by decide +kernel⟩

/-- The kernel has a program for the forewing, and none for the hindwing. -/
def wings : State := teamW (fun x => { x with kernel := { x.kernel with fore := 0 } })

/-- It has programs for both, and the hindwing runs. -/
def wings2 (x : GStatus) : State :=
  let s := teamW (fun x => { x with kernel := { x.kernel with fore := 0, hind := 0 } })
  let s1 := s.setAgent 1 17 { s.agent 1 17 with seqSt := 1 }
  s1.setGrp { s1.grp with status := x }

theorem witness_SideSequencerForkAndJoin_both : (let s := wings2 .run
      s.grp.status = .run ∧ (∀ n ∈ [16, 17], (if n = 16 then s.team.kernel.fore else s.team.kernel.hind) ≠ 0xFFFFFFFF)
        ∧ s.seqFree 1 16 = true ∧ s.seqFree 1 17 = false)
    ∧ (let s := wings2 (.fork [17])
      s.grp.status = .fork [17] ∧ (∀ n ∈ [17], n ∈ [16, 17]) ∧ ∀ n ∈ [17], s.seqFree 1 n = false) := by decide +kernel

theorem witness_SideSequencerForkAndJoin : wings.cur.2 < 16 ∧ wings.team.kernel.fore ≠ 0xFFFFFFFF ∧ wings.seqFree 1 16 = true
    ∧ wings.team.kernel.hind = 0xFFFFFFFF ∧ (wings.agent 1 16).seqSt ≠ 1 := by decide +kernel

/-! ### Witnesses: system -/

theorem witness_UnprivilegedControlRegisters : t0.cur.2 < 16 ∧ 0x10 ≤ (0x10 : BitVec 12).toNat ∧ (0x1F : BitVec 12).toNat < 0x20
    ∧ ((regS [(1, 2 ^ 8 - 1)]).grp.getS 1).toNat < 2 ^ 8 ∧ ((regS [(1, 2 ^ 5 - 1)]).grp.getS 1).toNat < 2 ^ 5
    ∧ 2 ^ 8 ≤ ((regS [(1, 2 ^ 8)]).grp.getS 1).toNat ∧ 2 ^ 5 ≤ ((regS [(1, 2 ^ 5)]).grp.getS 1).toNat
    ∧ (0x1F : BitVec 12).toNat ≠ 2 ∧ (0x0F : BitVec 12).toNat = 0x0F := by decide +kernel

/-- The forewing is to issue at offset 0 of its store, where MTC cr.fpcr, s1 stands. -/
def sideS (agenda : List Turn) : State :=
  let s := t0.setAgent 1 16 { Group.empty with pcs := fillv 32 0, active := 1, status := .run, seqSt := 1 }
  let s1 := s.setTeam { s.team with kernel := { s.team.kernel with fore := 0 } }
  { s1 with cur := (1, 16), agenda := agenda }

theorem witness_UnprivilegedControlRegisters_side : let s := sideS []
    s.cur.2 = 16 ∧ s = { sideS [.issue 1 16] with agenda := [], cur := s.cur } ∧ (sideS [.issue 1 16]).agenda = .issue 1 16 :: []
      ∧ s.mayIssue 1 16 = true ∧ s.fetchFirst 1 16 = none ∧ s.dev.rebase = false ∧ s.grp.pc.toNat < 0x4000
      ∧ s.grp.outs = [] ∧ (0x1F : BitVec 12).toNat < 0x20 := by decide +kernel
/-- Where the store lies is the implementation's (log entry 22): where that is 0x30000 for this kernel, the forewing reads the word. -/
theorem witness_UnprivilegedControlRegisters_word (h : Config.sideBase (sideS []).team.kernel.desc = 0x30000) :
    let s := withMem (entry 0x30000 0xCE080002) (sideS [])
    s.sideBytes 1 16 0 = bytesOfWord 0xCE080002 := by
  have e : (withMem (entry 0x30000 0xCE080002) (sideS [])).teamOf 1 = (sideS []).team := by decide +kernel
  simp only [State.sideBytes, e, h]
  decide +kernel
theorem witness_UnprivilegedControlRegisters_mtc : decodeTableWord 32 0xCE080002 = some (.mtc 1 2) := by decide +kernel

/-- A supervisor team, its uniform register 1 holding `n`. -/
def supS (n : Nat) : State :=
  let s := regS [(1, n)]
  s.setTeam { s.team with sup := true, ctx := { s.team.ctx with sup := true } }

theorem witness_PrivilegedControlRegisters : t0.cur.2 < 16 ∧ 0x20 ≤ (0x20 : BitVec 12).toNat ∧ t0.team.sup = false
    ∧ (supS 0).team.sup = true ∧ ((supS 0x10000).grp.getS 1).toNat % 2 ^ 16 = 0 ∧ ((supS 1).grp.getS 1).toNat % 2 ^ 16 ≠ 0
    ∧ 2 ^ 52 ≤ ((supS (2 ^ 52)).grp.getS 1).toNat ∧ 3 ≤ ((supS 3).grp.getS 1).toNat ∧ ((supS 2).grp.getS 1).toNat < 3
    ∧ 2 ^ 32 ≤ ((supS (2 ^ 32)).grp.getS 1).toNat ∧ ((supS (2 ^ 32 - 1)).grp.getS 1).toNat < 2 ^ 32
    ∧ (0x26 : BitVec 12).toNat = 0x22 + 4
    ∧ ((supS 4).grp.getS 1).toNat / 4 % 2 ^ 14 ≠ 0 ∧ ((supS 0x10003).grp.getS 1).toNat / 4 % 2 ^ 14 = 0
    ∧ (supS 0).team.ctx.sup = true
    ∧ ((supS 0x10000).setTeam { (supS 0).team with ctx := { (supS 0).team.ctx with sup := false } }).team.ctx.sup = false
    ∧ ((supS 0x10000).grp.getS 1).toNat / 2 ^ 16 % 2 ^ 16 ≠ (supS 0).team.asid
    ∧ 16 ≤ ((supS 16).grp.getS 1).toNat ∧ ((supS 15).grp.getS 1).toNat < 16 ∧ 0x2D ≤ (0x2D : BitVec 12).toNat := by
  decide +kernel

/-- The context grants one seed, at 0x4000. -/
def seeds : State := withMem (entry 0x4000 5) (teamW (fun x => { x with ctx := { x.ctx with seeds := 0x4000, nseed := 1 } }))

/-- Its line is poisoned. -/
def lostSeeds : State := { seeds with memPoison := [(0x4000, .whole)] }

theorem witness_GeneratorJumpsAndDraws : (seeds.seedOf (seeds.grp.getS 1).toNat).isSome = true
    ∧ t0.cur.2 < 18 ∧ t0.seedOf (t0.grp.getS 1).toNat = none
    ∧ lostSeeds.badVa lostSeeds.team.ctx.l1pa (lostSeeds.team.ctx.seeds + 16 * (lostSeeds.grp.getS 1).toNat) 16 = true
    ∧ (lostSeeds.grp.getS 1).toNat < lostSeeds.team.ctx.nseed ∧ lostSeeds.cur.2 < 18
    ∧ seeds.badVa seeds.team.ctx.l1pa (seeds.team.ctx.seeds + 16 * (seeds.grp.getS 1).toNat) 16 = false
    ∧ ¬ ((t0.grp.getS 1).toNat < t0.team.ctx.nseed) := by decide +kernel

theorem quiet_reg1 (n : Nat) (h : n ∈ [64, 128]) : Quiet (regS [(1, n)]) := by
  simp only [List.mem_cons, List.not_mem_nil, or_false] at h
  rcases h with rfl | rfl <;> exact quiet_of _ (by decide +kernel)

theorem witness_RequestsArePosted : (regS [(1, 2 ^ 52)]).walk t0.team.ctx.l1pa ((regS [(1, 2 ^ 52)]).grp.getS 1).toNat = none
    ∧ ((regS [(1, 128)]).walk t0.team.ctx.l1pa 128).map (·.rs) = some true
    ∧ ((regS [(1, 0x80000000)]).walk t0.team.ctx.l1pa 0x80000000).map (·.rs) = some false
    ∧ t0.cur.2 < 18 ∧ ((regS [(1, 64)]).grp.getS 1).toNat % 128 ≠ 0 ∧ ((regS [(1, 128)]).grp.getS 1).toNat % 128 = 0
    ∧ (regS [(1, 128)]).chkGlobal 1 128 .store = .ok ∧ (regS [(1, 128)]).attrAt 1 128 ≠ .remote := by decide +kernel
theorem witness_RequestsArePosted_quiet : Quiet (regS [(1, 64)]) ∧ Quiet (regS [(1, 128)]) :=
  ⟨quiet_reg1 64 (by simp), quiet_reg1 128 (by simp)⟩

/-- The leaf of the first 512 MiB. -/
def t0Leaf : Leaf :=
  { pa := 0, size := 0x20000000, attr := .leased, dev := 0, lease := 64, rs := true, rd := false, s := false, x := true, w := true
    at_ := 0x20000 }

/-- Team 2 handles team 1, which has trapped and whose record is at 0x100000: its trap record is all zero but for cr.fpsr of
group 0, which is `n`. -/
def handler (n : Nat) : State :=
  let s := teamW (fun x => { x with status := .trapped, recVA := 0x100000 })
  let s1 := s.setTeamOf 2 { t0.team with handles := some 1, sup := true, trecVA := 0x101000 }
  withMem (entry 0x101148 n) { s1.setAgent 2 0 t0.grp with cur := (2, 0) }

theorem witness_TretResumesTheTrappedTeam : t0.cur.2 < 16 ∧ t0.team.sup = false
    ∧ (handler 31).team.sup = true ∧ (handler 31).team.trecVA ≠ 0 ∧ (handler 31).team.handles = some 1 ∧ (handler 31).team.resumed = false
    ∧ ((handler 31).teamOf 1).status = .trapped ∧ (handler 31).grp.stores = [] ∧ 1 ≠ (handler 31).cur.1
    ∧ ((handler 31).teamOf 1).ngrp ≤ 16 ∧ ((handler 31).teamOf 1).trap = none
    ∧ ((handler 31).drain.installEdits 1 (fun o => (handler 31).drain.loadedQuad 2 0 ((handler 31).drain.trec 2 + o))).isSome = true
    ∧ (handler 32).drain.installEdits 1 (fun o => (handler 32).drain.loadedQuad 2 0 ((handler 32).drain.trec 2 + o)) = none
    ∧ (handler 32).team.sup = true ∧ ((handler 32).teamOf 1).status = .trapped := by decide +kernel

/-- The edits of `handler 31` are legal, those of `handler 32` are not; the record's header lies in one leaf, whose homes stand. -/
theorem witness_TretResumesTheTrappedTeam_edits : (∀ n ∈ [31, 32], let s := handler n
      let rd := fun o => s.drain.loadedQuad 2 0 (s.drain.trec 2 + o)
      rd 0x108 % 2 ^ 32 = 0 ∧ rd 0x140 % 2 ^ 32 = 0 ∧ rd 0x148 = n ∧ (rd 0x148 < 2 ^ 5 ↔ n = 31) ∧ rd 0x150 < 2 ^ 8
        ∧ (∀ a ∈ [16, 17], rd (0x1440 + 0x20 * (a - 16) + 8) % 256 = 0) ∧ (s.teamOf 1).ngrp = 1)
    ∧ (handler 31).mem.wf = true ∧ ((handler 31).teamOf 1).recVA ≠ 0 ∧ ((handler 31).teamOf 1).late = []
    ∧ (∀ i, i < 64 → (handler 31).walk t0.team.ctx.l1pa (0x100000 + i) = some { t0Leaf with lease := t0Leaf.lease }
        ∧ t0Leaf.phys (0x100000 + i) = 0x100000 + i ∧ (handler 31).homeGone (0x100000 + i) = false) := by decide +kernel

/-! ### Witnesses: loads, stores and atomics -/

/-- s1 holds an address; the team holds 16 unpublished bytes there. -/
def heldAt (a : Nat) : State :=
  let s := regS [(1, a)]
  s.setTeam { s.team with unpub := unpubAt a (bytesLE 16 0x0102030405060708) }

/-- A parameter block at 0x1000, of which the team holds 16 bytes. -/
def heldParam : State :=
  let s := teamW (fun x => { x with param := 0x1000 })
  s.setTeam { s.team with unpub := unpubAt 0x1000 (bytesLE 16 0x0102030405060708) }

theorem witness_GlobalLoadsOfKnownBytes : (∀ a ∈ [0x1000, 0x40000000], let s := heldAt a
      s.grp.status = .run ∧ s.judge .global .load (s.grp.accesses 2 1 0 16) = .ok
        ∧ (∀ l ∈ s.grp.actors 0, (s.attrAt 1 (s.grp.laneAddr 2 1 l) = .leased ∨ s.attrAt 1 (s.grp.laneAddr 2 1 l) = .hosted)
          ∧ s.atomicAway 1 (lineOf (s.grp.laneAddr 2 1 l)) = false
          ∧ ∀ j, j < 16 → (s.cachedByte 1 0 (s.grp.laneAddr 2 1 l + j)).isSome = true)
        ∧ s.grp.uniAddr 1 .b64 0 = s.grp.laneAddr 2 1 0 ∧ s.judge .global .load [{ lane := 0, va := s.grp.uniAddr 1 .b64 0, n := 8 }] = .ok)
    ∧ heldParam.judge .param .load (heldParam.grp.accesses 2 1 0 16) = .ok
    ∧ (∀ l ∈ heldParam.grp.actors 0, heldParam.attrAt 1 (0x1000 + heldParam.grp.laneAddr 2 1 l) = .leased
      ∧ heldParam.atomicAway 1 (lineOf (0x1000 + heldParam.grp.laneAddr 2 1 l)) = false
      ∧ ∀ j, j < 16 → (heldParam.cachedByte 1 0 (0x1000 + heldParam.grp.laneAddr 2 1 l + j)).isSome = true)
    ∧ heldParam.judge .param .load [{ lane := 0, va := heldParam.grp.uniAddr 1 .b64 0, n := 8 }] = .ok := by decide +kernel

/-- The core has a copy of the line at 0x1000, whose lease has not ended. -/
def copyS : State :=
  let k : Copy :=
    { asid := 0, line := 0x1000, data := List.replicate 128 7, wts := 0, rts := 64, leaf := t0Leaf, inc := 1, tag := none, latest := true
      stable := [] }
  coreW (fun c => { c with copies := [k] })

theorem witness_GlobalLoadsOfKnownBytes_copy : copyS.ownByte 1 0 0x107F = none ∧ copyS.cachedByte 1 0 0x107F = some 7 := by
  decide +kernel

theorem witness_GlobalLoadsThatMissDoNotBlock : let s := regS [(1, 0x1000)]
    s.grp.status = .run ∧ s.grp.outs = [] ∧ s.judge .global .load (s.grp.accesses 2 1 0 4) = .ok
      ∧ s.loadHeld .global (s.grp.accesses 2 1 0 4) = false
      ∧ s.loadHeld .global [{ lane := 0, va := s.grp.uniAddr 1 .b64 0, n := 8 }] = false
      ∧ (∀ l ∈ s.grp.actors 0, s.attrAt 1 (s.grp.laneAddr 2 1 l) = .leased)
      ∧ (∃ l ∈ s.grp.actors 0, ∃ j, j < 4 ∧ s.cachedByte 1 0 (s.grp.laneAddr 2 1 l + j) = none)
      ∧ s.judge .global .load [{ lane := 0, va := s.grp.uniAddr 1 .b64 0, n := 8 }] = .ok
      ∧ (∃ j, j < 8 ∧ s.cachedByte 1 0 (s.grp.uniAddr 1 .b64 0 + j) = none) := by decide +kernel
theorem witness_GlobalLoadsThatMissDoNotBlock_view (l : Nat) :
    (regS [(1, 0x1000)]).team.fromOf l ≤ (regS [(1, 0x1000)]).net.nextId := by
  have h : (regS [(1, 0x1000)]).team.lineFrom = [] ∧ (regS [(1, 0x1000)]).team.viewFrom = 0 := by decide +kernel
  unfold Team.fromOf
  rw [h.1, h.2]
  exact Nat.zero_le _

/-- The last 16 bytes of the resident page, and their place in the cluster's address space. -/
def lastOfPage : State := regS [(1, 2032)]

theorem witness_WindowLoads : let s := lastOfPage
    s.grp.status = .run ∧ (∀ p ∈ s.grp.stores, p.target = .global)
      ∧ s.judge .window .load (s.grp.accesses 2 1 0 16) = .ok
      ∧ s.judge .cluster .load (s.grp.accesses 2 1 0 16) = .ok
      ∧ (let block := fun (va : Nat) => va / 4096 * 4096 + va / 4 % 32 * 128 + va % 4096 / 128 * 4 + va % 4
        ∀ l ∈ t0.grp.actors 0, let va := t0.grp.laneAddr 2 1 l
          va % 4 = 0 ∧ t0.chkBytes 1 (block va) 4 va .load (t0.chkWindow 1 (block va) va) = .ok)
      ∧ s.judge .window .load [{ lane := 0, va := s.grp.uniAddr 1 .b64 0, n := 8 }] = .ok := by decide +kernel

/-- Lane 0 reads an absent page; the other lanes known bytes. -/
def probeS : State :=
  let s := heldAt 0x1000
  s.setGrp (s.grp.setV 2 (lanesOf (fun l => if l = 0 then 0x7FFFF000 else 0)))

theorem witness_ProbeLoadReportsAbsentPages : let s := probeS
    (1 : KReg).val ≠ 0 ∧ s.grp.status = .run
      ∧ s.chk .global 1 (s.grp.laneAddr 2 1 0) 4 .probe = .absent 0x80000000
      ∧ ∀ l ∈ s.grp.actors 0, l = 0 ∨ s.chk .global 1 (s.grp.laneAddr 2 1 l) 4 .probe = .ok
        ∧ s.attrAt 1 (s.grp.laneAddr 2 1 l) = .leased ∧ s.atomicAway 1 (lineOf (s.grp.laneAddr 2 1 l)) = false
        ∧ ∀ j, j < 4 → (s.cachedByte 1 0 (s.grp.laneAddr 2 1 l + j)).isSome = true := by decide +kernel

theorem witness_StoresIssueInLaneOrder :
    (∀ a ∈ [0x1000, 0x40000000], let s := regS [(1, a)]
      s.judge .global .store (s.grp.accesses 2 1 0 16) = .ok
        ∧ (∀ l ∈ s.grp.actors 0, s.attrAt 1 (s.grp.laneAddr 2 1 l) = .leased ∨ s.attrAt 1 (s.grp.laneAddr 2 1 l) = .hosted)
        ∧ s.judge .global .store [{ lane := 0, va := s.grp.uniAddr 1 .b64 0, n := 8 }] = .ok)
    ∧ lastOfPage.judge .window .store (lastOfPage.grp.accesses 2 1 0 16) = .ok
    ∧ lastOfPage.judge .cluster .store (lastOfPage.grp.accesses 2 1 0 16) = .ok
    ∧ lastOfPage.judge .window .store [{ lane := 0, va := lastOfPage.grp.uniAddr 1 .b64 0, n := 8 }] = .ok := by decide +kernel

/-- One issued store, and its turn. -/
def performS (p : PStore) : State := { grpW (fun g => { g with stores := [p] }) with agenda := [.perform 1 0 0] }

theorem wf_teams (s : State) (h : s.windowsWf = true) : ∀ u, (s.teamOf u).ls.wf = true := by
  intro u
  unfold State.teamOf Tab.get
  cases hf : Tab.find? s.teams u with
  | none => rfl
  | some x =>
    unfold State.windowsWf at h
    rw [List.all_eq_true] at h
    have : (u, x) ∈ s.teams := by
      revert hf
      generalize s.teams = l
      induction l with
      | nil => simp [Tab.find?]
      | cons p t ih =>
        obtain ⟨k, y⟩ := p
        unfold Tab.find?
        split
        · intro e; cases e; simp_all
        · intro e
          exact List.mem_cons_of_mem _ (ih e)
    exact h _ this

theorem witness_StoresArePerformed : (∀ p ∈ [({ id := 1, target := .global, addr := 0x1000, bytes := [7] } : PStore),
      { id := 1, target := .window 1, addr := 2047, bytes := [7] }], let s := performS p
    s.agenda = .perform 1 0 0 :: [] ∧ (s.agent 1 0).stores[0]? = some p ∧ s.onCore 1 = true ∧ (s.agent 1 0).settled p = true
      ∧ (s.teamOf 1).status = .placed ∧ (∀ r ∈ (s.agent 1 0).stores.take 0, r.target ≠ p.target) ∧ s.windowsWf = true
      ∧ (pagesOf 2047 1).all (s.pageIn 1) = true) := by decide +kernel
theorem witness_StoresArePerformed_wf (p : PStore) (h : (performS p).windowsWf = true) (u : Nat) :
    ((performS p).teamOf u).ls.wf = true := wf_teams _ h u

/-- s2 holds an address. -/
theorem witness_GlobalAtomicsAreSentHome : let s := regS [(1, 0x1000), (2, 0x1008)]
    s.grp.status = .run ∧ s.grp.stores = [] ∧ s.team.unpub = []
      ∧ s.judge .global .atomic (s.grp.accesses 2 1 0 4) = .ok
      ∧ (∀ l ∈ s.grp.actors 0, s.attrAt 1 (s.grp.laneAddr 2 1 l) ≠ .remote)
      ∧ s.chkUatom (s.grp.getS 2).toNat .device = .ok ∧ s.chkUatom (s.grp.getS 2).toNat .system = .ok
      ∧ s.attrAt 1 (s.grp.getS 2).toNat ≠ .remote
      ∧ (∀ l ∈ s.grp.actors 0, s.chkDadd (s.grp.laneAddr 2 1 l) = .ok) ∧ s.grp.actors 0 ≠ [] := by decide +kernel

theorem witness_WindowAtomicsActInLaneOrder : let s := regS [(1, 2044)]
    (∀ p ∈ s.grp.stores, p.target = .global) ∧ s.windowsWf = true
      ∧ s.judge .window .atomic (s.grp.accesses 2 1 0 4) = .ok
      ∧ s.judge .cluster .atomic (s.grp.accesses 2 1 0 4) = .ok ∧ s.grp.actors 0 ≠ [] := by decide +kernel

/-! ### Witnesses: matrix -/

/-- The team is one of a cluster two wide, and holds the array of its core; tile 0 is `T`. -/
def arrayS (T : Tile) : State :=
  let s := teamW (fun x => { x with w := 2 })
  s.setCore { s.core with holder := some 1, tiles := vset s.core.tiles 0 T, table := List.replicate 64 (0, 0) }

/-- A pleat word of class FP8, its widths the smallest. -/
def pleatS : DWord := 0x04004010
/-- Tile 0 is configured with `pleatS` and this configuration word, and holds these steps. -/
def tileS (cfg : DWord) (w : List WStep) : Tile := { (Tile.empty 64).clear with pleat := pleatS, cfg := cfg, window := w }
def stepS (n : Nat) : WStep := { idx := n, pair := false, last := false, first := false, a := [], b := [] }

theorem holds_of (s : State) (p : Bool) (h : s.core.holder = some s.cur.1 ∧ s.team.w % 2 = 0 ∧ (p = true → s.team.px % 2 = 0) ∧ s.frozen = false) :
    HoldsArray s p := h
theorem pages_of (s : State) (va n : Nat) (h : (pagesOf va n).all (s.pageIn s.cur.1) = true) : PagesIn s va n :=
  fun p hp => List.all_eq_true.mp h p hp

theorem array_team (T : Tile) : (arrayS T).team = (arrayS (Tile.empty 64)).team := rfl
theorem array_holder (T : Tile) : (arrayS T).core.holder = some (arrayS T).cur.1 := rfl
theorem array_frozen (T : Tile) : (arrayS T).frozen = (arrayS (Tile.empty 64)).frozen := rfl
theorem holds_array (T : Tile) (p : Bool) : HoldsArray (arrayS T) p := by
  refine holds_of _ _ ⟨array_holder T, ?_⟩
  rw [array_team, array_frozen]
  revert p
  decide +kernel

theorem witness_TilesAreTakenAndConfigured : (∀ T p, HoldsArray (arrayS T) p) ∧ t0.cur.2 < 16 ∧ pleatOk pleatS = true
    ∧ configOk 0 0 = true ∧ pleatOk 0 = false ∧ configOk 0 (1 <<< 4) = false ∧ (tileS 0 []).window = []
    ∧ (tileS 0 [stepS 1]).window ≠ []
    ∧ t0.team.w % 2 = 1 ∧ (arrayS (tileS 0 [])).team.w % 2 = 0 ∧ (arrayS (tileS 0 [])).team.px % 2 = 0
    ∧ (let s : State := { arrayS (tileS 0 []) with cur := (2, 0) }
      let u := s.setTeam { t0.team with w := 2 }
      u.core.holder = some 1 ∧ 1 ≠ u.cur.1 ∧ u.team.w % 2 = 0 ∧ u.team.px % 2 = 0)
    ∧ (let s := (arrayS (tileS 0 [])).setCore Core.empty
      s.core.holder = none ∧ s.team.w % 2 = 0 ∧ s.team.px % 2 = 0 ∧ s.frozen = false) := by
  refine ⟨holds_array, ?_⟩
  decide +kernel

/-- Tile 0 expects step 0 and has step 3 in its window. The uniform register names the step. -/
theorem witness_StepsEnterTheReorderWindow : (∀ T p, HoldsArray (arrayS T) p)
    ∧ (let T := tileS 0 []
      T.pleat ≠ 0 ∧ false = decide (pClass T.pleat = .narrow) ∧ 112 + blockRegs (pAfmt T.pleat) ≤ 128
        ∧ 112 + blockRegs (pBfmt T.pleat) * 2 ≤ 128 ∧ ¬ (125 + blockRegs (pAfmt T.pleat) ≤ 128) ∧ T.window = [])
    ∧ (∀ v ∈ (tileS 0 [stepS 3]).window, v.idx ≠ 4) ∧ (∃ v ∈ (tileS 0 [stepS 3]).window, v.idx = 3)
    ∧ (tileS 0 [stepS 3]).window.length < 8
    ∧ (let T := tileS 0 ((List.range 8).map (fun n => stepS (n + 2)))
      8 ≤ T.window.length ∧ ∀ v ∈ T.window, v.idx ≠ 1)
    ∧ (∀ n ∈ [0, 1, 8, 9, 32767, 32768], ((regS [(1, n)]).grp.getS 1).toNat % 65536 = n
      ∧ (n + 65536 - (tileS 0 []).x) % 65536 = n)
    ∧ pClass 0x0000022004004010 = .narrow ∧ t0.cur.2 < 16 := by
  refine ⟨holds_array, ?_⟩
  decide +kernel

/-- A step that is expected finds another in the window that is not yet; the sums have terms. -/
theorem witness_StepsEnterTheReorderWindow_tree : (tileS 0 [stepS 3]).window.length ≤ 8 ∧ pleatOk pleatS = true
    ∧ ((tileS 0 []).cols = 32 ∨ (tileS 0 []).cols = 64) ∧ (tileS 0 []).pleat = pleatS
    ∧ (∀ lvl, lvl < 3 → 1 ≤ pLen pleatS lvl)
    ∧ (let xs : List Term := [{ kind := .num, neg := false, m := 1, e := 0 }]
      (∀ x ∈ xs, x.kind = .num) ∧ (∃ x ∈ xs, x.m ≠ 0 ∧ x.e + bitlen x.m = 1) ∧ ∀ x ∈ xs, x.m ≠ 0 → x.e + bitlen x.m ≤ 1)
    ∧ ({ kind := .num, neg := false, m := 3, e := 0 } : Term).e < 1 := by decide +kernel

/-- A softmax configuration of tile 0 with tile 1 as its output tile and FP8 probabilities. -/
def softS : State :=
  let s := arrayS (tileS 3 [])
  s.setTile 1 (tileS 0 [])

theorem witness_TilesAreDrained : (∀ T p, HoldsArray (arrayS T) p) ∧ HoldsArray softS true
    ∧ (tileS 0 []).pleat ≠ 0 ∧ (tileS 0 []).window = [] ∧ (0 : DWord).getLsbD 3 = false ∧ 64 + 64 ≤ 128
    ∧ ¬ cSoft 0x68 = true ∧ (0x68 : DWord).getLsbD 3 = true ∧ cField 0x68 7 4 = 6 ∧ 112 + 64 / (32 / elemBits 6) ≤ 128
    ∧ cSoft (softS.tile 0).cfg = true ∧ cField (softS.tile 0).cfg 7 4 ∈ [0, 1, 7, 8] ∧ cField (softS.tile 0).cfg 2 1 ≠ 0
    ∧ (softS.tile (cField (softS.tile 0).cfg 2 1)).pleat ≠ 0 ∧ (softS.tile (cField (softS.tile 0).cfg 2 1)).window = []
    ∧ (softS.tile 0).pleat ≠ 0 ∧ (softS.tile 0).window = []
    ∧ 112 + 64 / (32 / elemBits (cField (softS.tile 0).cfg 7 4)) ≤ 128 :=
  ⟨holds_array, holds_of _ _ (by decide +kernel), by decide +kernel⟩

/-- The header of the image of an unconfigured tile 32 columns wide; every byte of the image after it is 0. -/
def blankHeader : List Byte :=
  bytesLE 8 0 ++ bytesLE 8 0 ++ bytesLE 8 (32 * 2 ^ 40) ++ bytesLE 8 0 ++ bytesLE 8 0 ++ bytesLE 8 (8512 * 2 ^ 32)
def blankImage : List Byte := blankHeader ++ List.replicate 8464 0

theorem blank_quad (o : Nat) (h1 : 48 ≤ o) (h2 : o + 8 ≤ 8512) : imgQuad blankImage o = 0 := by
  have hl : blankHeader.length = 48 := by decide
  unfold imgQuad blankImage
  rw [List.drop_append, List.drop_eq_nil_of_le (by omega), List.nil_append, List.drop_replicate, List.take_replicate,
    Nat.min_eq_left (by omega)]
  decide

theorem blank_elems (n : Nat) : ∀ o, 48 ≤ o → o + 8 * n ≤ 8512 →
    readElems blankImage 0 0 o n = some (List.replicate n Elem.zero) := by
  induction n with
  | zero => intros; rfl
  | succ n ih =>
    intro o h1 h2
    have h := ih (o + 8) (by omega) (by omega)
    simp only [readElems, readTerms, blank_quad o h1 (by omega), Nat.mul_zero, Nat.add_zero, h]
    rfl

theorem witness_TileImagesAndTables_blank : (readTile 0 32 blankImage).isSome = true := by
  have h : readElems blankImage 0 0 320 1024 = _ := blank_elems 1024 0x140 (by omega) (by omega)
  have h0 : imgQuad blankImage 0 = 0 := by decide +kernel
  have h8 : imgQuad blankImage 8 = 0 := by decide +kernel
  have h10 : imgQuad blankImage 0x10 = 32 * 2 ^ 40 := by decide +kernel
  have h28 : imgQuad blankImage 0x28 = 8512 * 2 ^ 32 := by decide +kernel
  have e0 : bitsOf (32 * 2 ^ 40) 63 48 = 0 ∧ bitsOf (32 * 2 ^ 40) 23 16 = 0 ∧ bitsOf (32 * 2 ^ 40) 31 24 = 0
      ∧ bitsOf (32 * 2 ^ 40) 39 32 = 0 ∧ bitsOf (32 * 2 ^ 40) 47 40 = 32 ∧ pLen 0 1 = 1 ∧ pLen 0 2 = 1 := by decide +kernel
  simp only [readTile, h0, h8, h10, h28, e0, h, readWindow]
  rfl

/-- A core at odd x holds only half a tile; its window of 16 KiB holds the image of an unconfigured tile. -/
def imageS : State :=
  let s := arrayS (Tile.empty 32)
  let s1 := s.setTeam { s.team with px := 1, lswin := 16, ls := Memory.writeN [] 0 blankHeader }
  s1.setCore { s1.core with ltt := (List.range 8).map (fun p =>
    { team := 1, vpage := p, frame := 128 + p, dirty := false, acc := false, state := 0, shd := false }) }

theorem image_bytes : imageS.team.ls = [(21, 32), (44, 64), (45, 33)] := by decide +kernel

theorem read_zeros (m : Memory) (lo : Nat) (h : ∀ a, lo ≤ a → m.read a = 0) (n : Nat) :
    ∀ a, lo ≤ a → m.readN a n = List.replicate n 0 := by
  induction n with
  | zero => intros; rfl
  | succ n ih =>
    intro a ha
    rw [Memory.readN, h a ha, ih (a + 1) (by omega), List.replicate_succ]

theorem readN_add (m : Memory) (n k : Nat) : ∀ a, m.readN a (n + k) = m.readN a n ++ m.readN (a + n) k := by
  induction n with
  | zero => intro a; simp [Memory.readN]
  | succ n ih =>
    intro a
    rw [show n + 1 + k = (n + k) + 1 by omega, Memory.readN, Memory.readN, ih (a + 1), List.cons_append,
      show a + 1 + n = a + (n + 1) by omega]

theorem image_blank : imageS.team.ls.readN 0 8512 = blankImage := by
  have h : ∀ a, 48 ≤ a → imageS.team.ls.read a = 0 := by
    intro a ha
    rw [image_bytes]
    simp only [Memory.read]
    rw [if_neg (by omega), if_neg (by omega), if_neg (by omega), if_neg (by omega), if_neg (by omega), if_neg (by omega)]
    rfl
  rw [show 8512 = 48 + 8464 from rfl, readN_add, read_zeros _ 48 h 8464 _ (by omega)]
  have e : imageS.team.ls.readN 0 48 = blankHeader := by decide +kernel
  rw [e]
  rfl
theorem image_holds : HoldsArray imageS false := holds_of _ _ (by decide +kernel)

theorem witness_TileImagesAndTables : imageS.grp.stores = [] ∧ imageS.grp.xfer = [] ∧ imageS.team.ls.wf = true
    ∧ (imageS.grp.getS 1).toNat % 256 = 0 ∧ (imageS.tile 0).image.length = 8512 ∧ 8512 ≤ imageS.team.window
    ∧ (pagesOf 0 8512).all (imageS.pageIn imageS.cur.1) = true
    ∧ imageS.team.ls.readLE 0x2C 4 = 8512 ∧ (imageS.tile 0).cols = 32 ∧ (imageS.tile 0).window = []
    ∧ (pagesOf 0 0x140).all (imageS.pageIn imageS.cur.1) = true ∧ (pagesOf 0 256).all (imageS.pageIn imageS.cur.1) = true := by
  decide +kernel

/-- The same with an uncorrectable byte at `o`. -/
def badByteS (o : Nat) : State := imageS.setTeam { imageS.team with lsBad := [o] }

theorem witness_TileImagesAndTables_bytes : imageS.team.lsBad = [] ∧ (badByteS 255).team.lsBad = [255]
    ∧ ((badByteS 255).grp.getS 1).toNat = 0 ∧ 0 + 256 ≤ (badByteS 255).team.window
    ∧ (∀ o ∈ (badByteS 255).team.lsBad, o < 0 ∨ 0 + (255 - 0) ≤ o) ∧ (badByteS 255).grp.stores = [] ∧ (badByteS 255).grp.xfer = []
    ∧ (badByteS 255).team.ls.wf = true := by decide +kernel
theorem witness_TileImagesAndTables_holds : HoldsArray (badByteS 255) false := holds_of _ _ (by decide +kernel)

theorem flatMap_length {α β : Type} (l : List α) (f : α → List β) (k : Nat) (h : ∀ a ∈ l, (f a).length = k) :
    (l.flatMap f).length = l.length * k := by
  induction l with
  | nil => simp
  | cons a l ih =>
    rw [List.flatMap_cons, List.length_append, h a (by simp), ih (fun b hb => h b (by simp [hb])), List.length_cons, Nat.succ_mul,
      Nat.add_comm]

/-- A tile of 64 columns whose elements hold four terms each besides their level 0. -/
def bigElem : Elem := { Elem.zero with o1 := List.replicate 2 termZero, o2 := List.replicate 2 termZero }
def bigTile : Tile := { Tile.empty 64 with elems := List.replicate 2048 bigElem }

theorem big_elem (r n : Nat) (hr : r < 32) (hn : n < 64) : bigTile.elem r n = bigElem := by
  have h : 64 * r + n < 2048 := by omega
  simp only [Tile.elem, bigTile, Tile.empty, List.getD_eq_getElem?_getD, List.getElem?_replicate, if_pos h, Option.getD_some]

theorem big_image : bigTile.image.length = 82240 := by
  have he : ((List.range 32).flatMap (fun r => (List.range bigTile.cols).flatMap (fun n =>
      let e := bigTile.elem r n
      bytesLE 4 e.s.toNat ++ bytesLE 4 e.c.toNat ++ (e.o1 ++ e.o2).flatMap (fun x => bytesLE 8 (termQuad x))))).length
      = 32 * 2560 := by
    rw [flatMap_length _ _ 2560 (fun r hr => ?_)]
    · simp
    · rw [flatMap_length _ _ 40 (fun n hn => ?_)]
      · decide
      · rw [big_elem r n (List.mem_range.mp hr) (List.mem_range.mp hn)]
        decide +kernel
  have hs : ((List.range 32).flatMap (fun r =>
      let p := vget (0, 0) bigTile.side r; bytesLE 4 p.1.toNat ++ bytesLE 4 p.2.toNat)).length = 32 * 8 := by
    rw [flatMap_length _ _ 8 (fun r _ => by simp [bytesLE_length])]
    simp
  have hw : bigTile.ordered = [] := by decide +kernel
  simp only [Tile.image, List.length_append, he, hs, hw, bytesLE_length, List.length_replicate, List.flatMap_nil, List.length_nil]

/-- A window of 128 KiB with its first 32 pages resident; s1 is the last address that a step of 32 pages starts at. -/
def bigS : State :=
  let s := arrayS bigTile
  let s1 := s.setTeam { s.team with lswin := 128 }
  let s2 := s1.setGrp (s1.grp.setS 1 1792)
  s2.setCore { s2.core with ltt := (List.range 32).map (fun p =>
    { team := 1, vpage := p, frame := 128 + p, dirty := false, acc := false, state := 0, shd := false }) }

theorem witness_TileImagesAndTables_long : HoldsArray bigS false ∧ bigS.tile 0 = bigTile ∧ bigS.grp.stores = []
    ∧ bigS.grp.xfer = [] ∧ bigS.team.ls.wf = true ∧ (bigS.grp.getS 1).toNat = 1792 ∧ 1792 % 256 = 0
    ∧ 1792 + 82240 ≤ bigS.team.window ∧ 65536 - 1792 % 2048 < 82240
    ∧ (pagesOf 1792 (65536 - 1792 % 2048)).all (bigS.pageIn bigS.cur.1) = true :=
  ⟨holds_of _ _ (by decide +kernel), rfl, by decide +kernel⟩

/-! ### Witnesses: engines -/

/-- Packets and descriptors at hand: 64 unpublished bytes at 0x1000, and window bytes, which read as 0. -/
def engS (d : Nat) : State :=
  let s := regS [(1, 0x1000), (2, 0x1000), (4, d)]
  s.setTeam { s.team with unpub := unpubAt 0x1000 (List.replicate 64 0) }
def winS : State := regS [(1, 0), (2, 0x100000000)]

theorem witness_EngineCommandsAreAccepted : let s := engS 0
    s.cur.2 < 18 ∧ s.grp.pendingS 3 = false ∧ s.chk .global 1 0x1000 64 .load = .ok ∧ s.chk .global 1 0x1000 16 .load = .ok
      ∧ (∀ j, j < 64 → (s.blockByte .global (0x1000 + j)).isSome = true)
      ∧ winS.chk .cluster 1 0 64 .load = .ok ∧ (∀ j, j < 64 → (winS.blockByte .cluster j).isSome = true)
      ∧ (s.net.cmds.filter (fun c => c.slot.isNone && decide (c.fn ≤ 4) && c.core == s.team.core && c.stage != .deferred)).length < 32
      ∧ s.homePending 0x1000 64 = false ∧ s.attrAt 1 0x1000 ≠ .uncached ∧ s.atomicAway 1 (lineOf 0x1000) = false
      ∧ (8064 % 128 = 0 ∧ 8064 < t0.team.window) ∧ t0.team.window ≤ 8192 ∧ 8065 % 128 ≠ 0
      ∧ 0 + 2048 * 1 ≤ t0.team.window ∧ t0.team.window < 8192 + 2048 * 1
      ∧ (63 : SReg).val = 63 ∧ (grpW (fun g => { g with tickets := [(3, 1)] })).grp.pendingS 3 = true := by decide +kernel

/-- A command of team 1's group 0, whose ticket register is s3, with this function, packet and stage. -/
def cmdS (fn : Nat) (pkt : List DWord) (st : CmdStage) : Cmd :=
  { id := 1, fn := fn, team := 1, agent := 0, asid := 0, core := 0, sd := some 3, pkt := pkt, a := 0x1000, b := 0, desc := []
    slot := none, seq := 0, t := 0, stage := st, shadow := [], fetched := [], await := [], lines := [], ref := 0, handle := 0
    status := 0, count := 0, fva := 0, w := 0, vals := [], first := 0, asked := [], closed := [], sent := [], taken := 0 }
/-- The machine with the command, its ticket register pending. -/
def withCmd (c : Cmd) : State :=
  let s := grpW (fun g => { g with tickets := [(3, 1)] })
  { s with net := { s.net with cmds := [c], nextId := 2 } }
/-- A copy of one FP32 element from 0x1000 to 0x1200. -/
def copyPkt (kind : DWord) : List DWord := [0x9900 + kind, 0x1000, 0x1200, 0x0001000100010001, 0x00010001, 0, 0, 0]

theorem witness_EngineCommandsRunToTheirTickets_start : let c := cmdS 0 (copyPkt 1) .queued
    let s := withCmd c
    s.cmdAt 1 = some c ∧ s.inTurn c = true ∧ (∀ p ∈ (s.agent 1 0).stores, p.target = .global) ∧ c.kind = 1
      ∧ c.await = [] ∧ c.slot = none ∧ c.stage = .queued
      ∧ s.refused c = false ∧ pktDefer c.pkt = false
      ∧ pktLayout c.pkt (pktRows c.pkt (fun i => (i : Int)) (fun i => (i : Int))) = 0
      ∧ s.walkAll c false false false (pktRows c.pkt (fun i => (i : Int)) (fun i => (i : Int)))
          = .going [(0x1200, 0), (0x1201, 0), (0x1202, 0), (0x1203, 0)] 4
      ∧ s.engineRuns c = true ∧ s.cmdReaches c (s.sourceVas c) = true ∧ s.sourceHeld c = [] ∧ pktSspace c.pkt = 0
      ∧ (∀ d ∈ s.net.cmds, d.id ≠ 1 → ∀ p ∈ shadowPages d.shadow, p ∉ shadowPages (s.toShadow c [(0x1200, 0)]))
      ∧ ((s.touchSource c 4).bindShadows 1 (shadowPages (s.toShadow c [(0x1200, 0)]))).isSome = true ∧ (∀ p ∈ s.toShadow c [(0x1200, 0)], p.1 = 0) := by
  decide +kernel

/-- A PUBL of handle 7, and the deferred command of that handle. -/
def publS : State :=
  let s := withCmd { cmdS 5 [] .queued with a := 7 * 2 ^ 48 }
  { s with net := { s.net with cmds := s.net.cmds ++ [{ cmdS 0 (copyPkt 1) .deferred with id := 2, handle := 7, sd := none }] } }

theorem witness_EngineCommandsRunToTheirTickets_publ : let c : Cmd := { cmdS 5 [] .queued with a := 7 * 2 ^ 48 }
    publS.cmdAt 1 = some c ∧ publS.engineRuns c = true ∧ publS.cmdReaches c (publS.sourceVas c) = true ∧ publS.sourceHeld c = []
      ∧ publS.inTurn c = true ∧ (∀ p ∈ (publS.agent 1 0).stores, p.target = .global)
      ∧ (publS.net.cmds.find? (fun e => e.sameOwner c && e.stage == .deferred && e.handle == c.a / 2 ^ 48 % 256
          && c.a / 2 ^ 48 % 256 != 0)).map (·.id) = some 2
      ∧ (publS.cmdAt 2).map (·.handle) = some 7
      ∧ (withCmd c).net.cmds.find? (fun e => e.sameOwner c && e.stage == .deferred && e.handle == c.a / 2 ^ 48 % 256
          && c.a / 2 ^ 48 % 256 != 0) = none := by decide +kernel

/-- The windows that the commands name are on their cores, and no ring is asked for; tickets are written by an engine that runs. -/
theorem witness_EngineCommandsRunToTheirTickets_ready : (let c := cmdS 0 (copyPkt 1) .queued
      (withCmd c).windowsAtHand c = true ∧ (withCmd c).ringLost c = false)
    ∧ (let c : Cmd := { cmdS 5 [] .queued with a := 7 * 2 ^ 48 }
      publS.windowsAtHand c = true ∧ publS.ringLost c = false ∧ (withCmd c).windowsAtHand c = true ∧ (withCmd c).ringLost c = false)
    ∧ (withCmd (cmdS 0 (copyPkt 1) .complete)).engineRuns (cmdS 0 (copyPkt 1) .complete) = true
    ∧ (cmdS 0 (copyPkt 1) .shadow).landed = false ∧ t0.awake = true := by decide +kernel

theorem witness_EngineCommandsRunToTheirTickets_publication :
    let c : Cmd := { cmdS 0 (copyPkt 1) .shadow with shadow := [(0, 0x1200, 5)] }
    let s := withCmd c
    s.cmdAt 1 = some c ∧ c.fn ≠ 6 ∧ c.kind = 1 ∧ c.await = [] ∧ s.publishBlocked c = false ∧ pktBar c.pkt < 128
      ∧ (s.gridOf (s.teamOf 1).grid).declares 0x1200 = false
      ∧ (s.walk (s.cmdL1 c) 0x1200).map (fun l => (l.attr, Tab.get 0 s.dev.gran (l.phys 0x1200 / 64 * 64), s.homeGone (l.phys 0x1200)))
        = some (.leased, 0, false)
      ∧ s.engineRuns c = true ∧ s.cmdReaches c (shadowLines c.shadow) = true ∧ s.shadowGranules c c.shadow = []
      ∧ s.engChkAll c 0 true false (c.shadow.map (fun y => y.2.1)) = .ok
      ∧ (∀ e ∈ (s.noteWalks (s.cmdL1 c) (c.shadow.map (fun y => y.2.1))).dev.mtb, 0x1200 ∉ e.tables)
      ∧ s.mem.wf = true ∧ s.dev.rebase = false ∧ s.lines.length + 1 < sliceLines := by decide +kernel

theorem witness_EngineCommandsRunToTheirTickets_ticket : let c := cmdS 0 (copyPkt 1) .complete
    let s := withCmd c
    s.cmdAt 1 = some c ∧ c.kind ≠ 7 ∧ c.ref = 0 ∧ c.slot = none ∧ c.sd = some 3 ∧ (s.teamOf 1).status = .placed
      ∧ (s.teamOf 1).request = none ∧ pktRing c.pkt = 0
      ∧ c.status ≠ 0x01 ∧ c.status ≠ 0x0B ∧ c.id = 1 ∧ s.arrivalsCounted 1 = true ∧ s.dev.rebase = false
      ∧ Nat.max (s.coreOf (s.teamOf 1).core).ct c.w < 2 ^ 31 ∧ (3, 1) ∈ (s.agent 1 0).tickets := by decide +kernel

theorem witness_EngineCommandsRunToTheirTickets_landing :
    let c : Cmd := { cmdS 2 (copyPkt 2) .shadow with shadow := [(2, 4, 5)], await := [0] }
    let s := withCmd c
    s.cmdAt 1 = some c ∧ s.engineRuns c = true ∧ (s.teamOf 1).status ≠ .ended ∧ c.kind = 2 ∧ 0 ∈ c.await ∧ (∀ p ∈ c.await, p = 0) ∧ s.publishBlocked c = false ∧ s.member 1 0 = some 1
      ∧ (s.teamOf 1).status = .placed ∧ (s.teamOf 1).ls.wf = true ∧ s.pageIn 1 (4 / 2048) = true ∧ (s.teamOf 1).count 0 < 65535 := by
  decide +kernel

/-- A node of one team of the kernel of team 1. -/
def nodeS (st tok : Nat) (succ : List Nat) : Node :=
  { state := st, tokens := tok, otok := tok, attempts := 0, budget := 1, cgen := 0, stage := 0, prio := 0, idem := true
    kernel := t0.team.kernel, lsw := 8, w := 1, h := 1, groups := 1, teams := 1, params := 0x1000, succ := succ, frec := 0
    decls := [], predW := 0, byFail := none, quads := [] }
/-- A graph of context 0 with these nodes, its end word at 0x1800. -/
def graphS (ns : List Node) : Graph :=
  { asid := 0, ctx := t0.team.ctx, det := false, ntab := 0x50000, seed := 1, endva := 0x1800, nodes := ns, fails := [], ign := 0, sent := 0
    rcvd := 0, live := true, sub := none }
/-- The graph is active in a machine. -/
def inGraph (ns : List Node) (s : State) : State := { s with graphs := [graphS ns] }

theorem witness_EngineCommandsRunToTheirTickets_signal :
    let c : Cmd := { cmdS 7 (copyPkt 5) .published with desc := [0x302, 0] }
    let s := inGraph [nodeS 2 0 []] (withCmd c)
    s.cmdAt 1 = some c ∧ c.kind = 5 ∧ c.await = [] ∧ pq c.desc 0 % 4 = 2 ∧ pktBar c.pkt < 128
      ∧ pq c.desc 0 / 2 ^ 32 % 2 ^ 19 = s.devNum
      ∧ s.signalTeam c.asid (pq c.desc 1 / 2 ^ 32) (pq c.desc 1 % 2 ^ 32) = some 1
      ∧ (s.teamOf 1).status = .placed ∧ (s.teamOf 1).count 3 < 65535 := by decide +kernel

theorem witness_EngineCommandsRunToTheirTickets_faults :
    let c : Cmd := { cmdS 0 (copyPkt 1) .shadow with await := [2] }
    let s0 := withCmd c
    let q : RemoteReq :=
      { id := 2, dev := 5, cls := 0, xaddr := 0, va := 0x60000000, team := 1, agent := 0, kind := .shadow 1 [], ans := none }
    let s : State := { s0 with net := { s0.net with remote := [q] } }
    s.cmdAt 1 = some c ∧ c.stage = .shadow ∧ c.fn ≠ 6 ∧ c.kind ≠ 7 ∧ c.kind ≠ 2 ∧ c.first ≠ 3
      ∧ (∃ r ∈ s.net.remote, r.id ∈ c.await) := by decide +kernel
/-- A packet that reads its source, one that verifies it, and one that fills with zeros. -/
theorem witness_EngineCommandsRunToTheirTickets_verify : [((0 : DWord), false, false), (0x8000000, true, false),
      (0x100000, false, true)].all (fun p =>
    let c := cmdS 0 [0x9901 + p.1, 0x1000, 0x1200, 0x0001000100010001, 0x00010001, 0, 0, 0] .shadow
    (pq c.pkt 0).testBit 27 == p.2.1 && pktZfill c.pkt == p.2.2 && c.kind != 7 && c.fn != 6) = true := by decide +kernel

/-- The descriptor of context 0, the graph engine's ring at 0x40003000 with one slot, and a packet ring at 0x40001000. -/
def ctxMem : List (Nat × Byte) :=
  entry 0 0x11 ++ entry 8 0x10000 ++ entry 0x10 0x800000 ++ entry 0x18 0x800000 ++ entry 0x28 0x40003000
    ++ entry 0x40001000 1 ++ entry 0x40001010 0x40002000 ++ entry 0x40001018 0x1000 ++ entry 0x40002000 0x9901
    ++ entry 0x40003000 1 ++ entry 0x40003010 0x40004000 ++ entry 0x40003018 0x1000
    ++ entry 0x40004000 0x0000000100000001 ++ entry 0x40004008 0x50000 ++ entry 0x40004010 1 ++ entry 0x40004020 0x1800
def ctxS : State := withMem ctxMem t0

theorem witness_QueuesAndCollectives_ring : 0x40001000 ≠ ctxS.asidCrt 0
    ∧ (ctxS.nextSlot 0 0x40001000).map (fun p => (p.1, p.2.1)) = some (0x40002000, 0)
    ∧ ctxS.headerHeld (ctxS.asidL1 0) 0x40001000 = [] ∧ ctxS.headerHeld (ctxS.asidL1 0) 0x40002000 = [] := by decide +kernel
/-- Its slot cannot be read. -/
def badSlotS : State := { ctxS with memPoison := [(0x40002000, .whole)] }
theorem witness_QueuesAndCollectives_ring_read : ctxS.pollHeld 0 0x40001000 = [] ∧ badSlotS.pollHeld 0 0x40001000 = []
    ∧ (ctxS.nextSlot 0 0x40001000).map (fun p => p.2.2 != []) = some true
    ∧ badSlotS.nextSlot 0 0x40001000 = some (0x40002000, 0, []) ∧ 0x40001000 ≠ badSlotS.asidCrt 0
    ∧ badSlotS.headerHeld (badSlotS.asidL1 0) 0x40001000 = [] ∧ badSlotS.headerHeld (badSlotS.asidL1 0) 0x40002000 = [] := by
  decide +kernel
/-- The slot and ridx lie in one leaf, and no table is written. -/
theorem witness_QueuesAndCollectives_ring_memory : let l1 := ctxS.asidL1 0
    let ls : Leaf := { t0Leaf with pa := 0x40000000, attr := .hosted, at_ := 0x20010 }
    ctxS.mem.wf = true ∧ ctxS.walk l1 0x40002000 = some ls ∧ ctxS.homeGone (ls.phys 0x40002000) = false
      ∧ ∀ j, j < 8 → ctxS.walk l1 (0x40001008 + j) = some ls ∧ ctxS.homeGone (ls.phys (0x40001008 + j)) = false
        ∧ (let s1 := (ctxS.publishJ l1 none [(0x40002000, 0)]).1
          s1.walk l1 (0x40001008 + j) = some ls ∧ s1.homeGone (ls.phys (0x40001008 + j)) = false) := by
  decide +kernel

/-- A sum of two shards, the root here and the other on device 1, that waits for its partner. -/
def collS2 : Cmd :=
  { cmdS 9 [7, 0, 0, 0, 0, 0, 0, 0] .shadow with
    desc := [0x20001, 1, 0, 0, 0, 0, 0, 0, 0xFFFF, 0, 0, 1], await := [1] }

theorem witness_QueuesAndCollectives_message : let c := collS2
    let s := withCmd c
    s.cmdAt 1 = some c ∧ c.kind = 7 ∧ c.stage = .shadow ∧ c.await ≠ [] ∧ s.stationsUp = false
      ∧ { s with dev := { s.dev with stations := vset s.dev.stations 0 true } }.fabricUp = true ∧ s.awake = true
      ∧ (devW (fun d => { d with d3 := true })).awake = false ∧ c.await = [1] ∧ { c with await := [] }.await = []
      ∧ (collPat c ≠ 2 ∧ 1 < collS c ∧ collDev c 1 ≠ s.devNum ∧ collParent c 1 ≠ 0xFFFF ∧ collDev c (collParent c 1) = s.devNum)
      ∧ [(1 : DWord)].length = collN c ∧ collReady { c with vals := Tab.set c.vals 1 [1] } s.devNum = false
      ∧ ¬ ((collPat c ≠ 2 ∧ 0 < collS c ∧ collDev c 0 ≠ s.devNum ∧ collParent c 0 ≠ 0xFFFF ∧ collDev c (collParent c 0) = s.devNum)
        ∨ (collPat c != 0 && 0 == collRoot c && collDev c 0 != s.devNum) = true) := by decide +kernel

/-- What is known after the partner's value: with this device's own the sum, which is then the output, or, with pattern 1, is sent
first, and waits to be taken. -/
theorem witness_QueuesAndCollectives_goes :
    let s0 := withCmd collS2
    let s : State := { s0 with dev := { s0.dev with stations := vset s0.dev.stations 0 true } }
    let e := fun (pat : DWord) (own : Tab (List DWord)) =>
      { collS2 with desc := collS2.desc.set 0 (0x20001 + pat), vals := Tab.set own 1 [1] }
    let own : Tab (List DWord) := [(65536, [3])]
    let news := fun (e : Cmd) => (collSends e 0).filter (fun p => !e.sent.contains p.1)
    s.fabricUp = true ∧ s.devNum = 0 ∧ collReady (e 0 []) 0 = false ∧ news (e 0 []) = []
      ∧ collReady (e 0 own) 0 = true ∧ news (e 0 own) = [] ∧ collWants (e 0 own) 0 = true ∧ collResult (e 0 own) 0 = some [4]
      ∧ s.engChkAll (e 0 own) 0 true false ((collBytes (e 0 own) 0 [4]).map (·.1)) = .ok
      ∧ collReady (e 0x100 own) 0 = true ∧ news (e 0x100 own) = [(0, [4])] ∧ Tab.find? (e 0x100 own).vals 131072 = none
      ∧ (let d := { e 0x100 own with sent := [0] }
        d.await = [1] ∧ d.taken < d.sent.length ∧ news d = [] ∧ d.sent.length ≤ d.taken + 1) := by decide +kernel

/-! ### Witnesses: homes and replies -/

/-- An access of lane 0 that awaits `n` bytes from `va` on. -/
def slotAt (va l i : Nat) : Slot := { lane := l, idx := i, va := va + i, val := none, since := 0 }
def outAt (d : OutDest) (va n : Nat) : Outst :=
  { id := 1, dest := d, slots := (List.range n).map (slotAt va 0), remote := false, regs := t0.grp.regs, bad := [] }

theorem witness_Filled (d : OutDest) (va n : Nat) (h : 0 < n)
    (hd : d = .uni 3 ∧ n ≤ 8 ∨ d = .laneOld 3 false ∧ n ≤ 4 ∨ d = .lane 3 false ∧ n ≤ 4 ∨ d = .taken) :
    Awaits (outAt d va n) [0] n (slotAt va) := by
  refine ⟨by simp, by simp, h, fun _ _ => ⟨rfl, rfl⟩, by simp [outAt], ?_⟩
  rcases hd with ⟨rfl, h⟩ | ⟨rfl, h⟩ | ⟨rfl, h⟩ | rfl <;> simp [outAt, h]

/-- What a request or a reply finds: the first access that wants its bytes, which are then all there. -/
theorem witness_Filled_wants : (∀ p ∈ [(OutDest.uni 3, 0x20000000, 8, false), (.taken, 0x20000000, 2, true), (.taken, 0x107C, 4, true),
      (.laneOld 3 false, 0x1000, 4, true)], let o := outAt p.1 p.2.1 p.2.2.1
      [o].find? (fun o => o.wants p.2.1 p.2.2.1 0 p.2.2.2) = some o
        ∧ ∀ y ∈ o.slots, p.2.1 ≤ y.va ∧ y.va < p.2.1 + p.2.2.1 ∧ y.lane = 0)
    ∧ (let o := outAt (.lane 3 false) 0x1000 4
      o.cached = true ∧ o.bad = [] ∧ ∀ y ∈ o.slots, lineOf y.va = 0x1000 ∧ y.since ≤ 1 ∧ y.va - 0x1000 < 128) := by decide +kernel

/-- The leaf of the first 512 MiB, and that of the second. -/
def leaf0 : Leaf := t0Leaf
def leaf1 : Leaf := { leaf0 with pa := 0x20000000, attr := .uncached, at_ := 0x20008 }

/-- One request of team 1's group 0 is in flight. -/
def reqS (va : Nat) (k : ReqKind) : State :=
  netW (fun n => { n with reqs := [{ id := 1, core := 0, team := 1, agent := 0, asid := 0, va := va, ct := 0, kind := k }], nextId := 2 })

theorem witness_HomesServeRequests : (∀ p ∈ [(0x1000, ReqKind.renew false), (0x1000, .publish [(127, 3)]),
      (0x107C, .atomic .add 4 1 0 0), (0x107C, .dadd 1 0 0 1)], let s := reqS p.1 p.2
      s.reqReady 0 = true ∧ s.mem.wf = true ∧ s.dev.rebase = false ∧ s.tagOf 1 (lineOf p.1) = none
        ∧ leaf0.phys p.1 % 128 = p.1 % 128 ∧ (∀ b ∈ [false, true], ∀ r ∈ s.net.reqs, s.atHome r b = .here leaf0 0x1000)
        ∧ (s.hline 0x1000).rts + 1 < 2 ^ 31 ∧ (s.hline 0x1000).rts + 64 < 2 ^ 31
        ∧ s.hostFirst leaf0 0x1000 128 false = none ∧ s.poisoned 0x1000 = false
        ∧ (s.hline 0x1000).held.length < 16 ∧ (s.gridOf (s.teamOf 1).grid).failing = none)
    ∧ (∀ j, j < 128 → t0.walk (t0.l1Of 1) (0x1000 + j) = some leaf0 ∧ leaf0.phys (0x1000 + j) = leaf0.phys 0x1000 + j)
    ∧ 0x107C % 128 + 4 ≤ 128
    ∧ (∀ k ∈ [ReqKind.uload 8 0, .ustore [1, 2] 0], let s := reqS 0x20000000 k
      s.reqReady 0 = true ∧ s.tagOf 1 0x20000000 = none ∧ (s.teamOf 1).status = .placed
        ∧ (∀ b ∈ [false, true], ∀ r ∈ s.net.reqs, s.atHome r b = .here leaf1 0x20000000)
        ∧ Nat.max (s.coreOf 0).ct ((s.hline 0x20000000).rts + 1) < 2 ^ 31)
    ∧ (∀ j, j < 2 → t0.walk (t0.l1Of 1) (0x20000000 + j) = some leaf1 ∧ leaf1.phys (0x20000000 + j) = leaf1.phys 0x20000000 + j) := by
  decide +kernel
theorem witness_HomesServeRequests_room : (let s := reqS 0x1000 (.publish [(127, 3)])
      s.lines.length < sliceLines ∧ s.dev.mtb = [] ∧ leaf0.attr ≠ .hosted ∧ leaf1.attr ≠ .hosted ∧ 0x1000 % 128 = 0)
    ∧ (let s := reqS 0x20000000 (.uload 8 0)
      (s.teamOf 1).core = 0 ∧ (∀ o ∈ (s.agent 1 0).outs, o.bad = [])
        ∧ ∀ r ∈ s.net.reqs, s.writeFirst r leaf1 0x20000000 0x20000000 2 = none ∧ r.core = 0 ∧ s.replying s.net.reps r.core (s.reqSlice r) = false) := by
  decide +kernel
theorem witness_HomesServeRequests_held : (let s := reqS 0x1000 (.publish [(127, 3)])
      0x1000 ∉ s.walkLines (s.l1Of 1) 0x1000)
    ∧ (let s := reqS 0x107C (.dadd 1 0 0 1)
      s.lines.length < sliceLines ∧ s.cocooned 1 = false ∧ ∀ o ∈ (s.agent 1 0).outs, o.bad = []) := by decide +kernel
theorem witness_HomesServeRequests_free (s : State) (r : Req) (pa a k : Nat) : s.writeFirst r leaf0 pa a k = none := by
  have h : ∀ (a n : Nat) (b : Bool), s.hostFirst leaf0 a n b = none := fun a n b => by simp [State.hostFirst, leaf0, t0Leaf]
  simp only [State.writeFirst, h]
  rfl
theorem witness_HomesServeRequests_host (s : State) (a n : Nat) (b : Bool) : s.hostFirst leaf0 a n b = none := by
  simp [State.hostFirst, leaf0, t0Leaf]

/-- One reply to team 1's group 0 is in flight. -/
def repS (k : RepKind) : State :=
  netW (fun n => { n with reps := [{ id := 1, core := 0, team := 1, agent := 0, asid := 0, va := 0x1000, kind := k, slice := homeSlice 0x1000, gone := false }],
                          nextId := 2 })
def lineS : List Byte := List.replicate 128 0

theorem witness_RepliesReachTheCore : (∀ k ∈ [RepKind.renewed lineS 3 67 leaf0 1 false, .published lineS 3 leaf0 1,
      .atomic lineS 3 leaf0 1 [0, 0, 0, 0] 0], let s := repS k
      s.repReady 0 = true ∧ s.dev.rebase = false ∧ (s.teamOf 1).status = .placed ∧ (s.inL1 0).length < l1Lines (s.coreOf 0).l1
        ∧ Nat.max (s.coreOf 0).ct 3 < 2 ^ 31 ∧ (s.teamOf 1).core = 0 ∧ (s.teamOf 1).request = none
        ∧ ∀ a ∈ (s.teamOf 1).agents, (s.agent 1 a).outs = [])
    ∧ (let s := (repS (.renewed lineS 3 67 leaf0 1 false)).setTeam { t0.team with status := .saved }
      s.repReady 0 = true ∧ s.dev.rebase = false ∧ (s.teamOf 1).status ≠ .placed ∧ (s.teamOf 1).status ≠ .cocooned
        ∧ (s.teamOf 1).recVA = 0 ∧ Nat.max (s.coreOf 0).ct 3 < 2 ^ 31) := by
  decide +kernel
/-- The group waits at a SPIN for the renewal. -/
theorem witness_RepliesReachTheCore_spin : let s := (repS (.renewed lineS 3 67 leaf0 1 true)).setGrp { t0.grp with status := .spin 1 }
    s.repReady 0 = true ∧ s.dev.rebase = false ∧ (s.agent 1 0).status = .spin 1 ∧ (s.teamOf 1).status = .placed
      ∧ (s.teamOf 1).core = 0 ∧ (s.inL1 0).length < l1Lines (s.coreOf 0).l1 ∧ Nat.max (s.coreOf 0).ct 3 + 1 < 2 ^ 31 := by
  decide +kernel

/-- The team must take a forced point. -/
def forcedS (u : List (Nat × Byte)) : State := teamW (fun x => { x with forced := true, unpub := u })

theorem witness_BoundariesAndRebases_forced : (∀ u ∈ [[], unpubAt 0x1000 [1]], let s := forcedS u
    (s.teamOf 1).forced = true ∧ s.onCore 1 = true ∧ (s.teamOf 1).trap = none ∧ (s.teamOf 1).pubTrap = none
      ∧ s.dev.rebase = false ∧ (s.teamOf 1).pubs = [] ∧ (s.teamOf 1).unpub = u ∧ s.closedUnpub 1 = none ∧ s.absentUnpub 1 = []) := by
  decide +kernel

/-- The one team of the grid has completed boundary 1; an update of phase 1 is held. -/
def daddS : State :=
  let u : Dadd := { grid := 1, i := 0, q := 0, team := 1, phase := 1, line := 0x1000, off := 124, u := 0x3F800000 }
  t0.setGridOf 1 { t0.gridOf 1 with done := [(0, 1)], held := [u] }

theorem witness_BoundariesAndRebases_grid : let g := daddS.gridOf 1
    let due := (daddS.heldOf 1).filter (fun d => decide (d.phase ≤ g.bound + 1))
    0 < g.teams ∧ g.failing = none ∧ g.reached (g.bound + 1) = true ∧ g.claims = [] ∧ daddS.mem.wf = true ∧ daddS.net.reqs = []
      ∧ due ≠ [] ∧ (∃ r, r < g.teams ∧ g.bound + 1 ≤ Tab.get 0 g.done r)
      ∧ (∀ d ∈ due, d.line = 0x1000 ∧ d.off % 4 = 0 ∧ d.off < 128) ∧ g.declaresLine 0x1000 = false
      ∧ (∀ j, j < 128 → daddS.walk g.ctx.l1pa (0x1000 + j) = some leaf0 ∧ leaf0.phys (0x1000 + j) = leaf0.phys 0x1000 + j)
      ∧ leaf0.phys 0x1000 % 128 = 0 ∧ daddS.homeGone (leaf0.phys 0x1000) = false := by decide +kernel

/-- A rebase is under way; no team is on core 7. -/
def rebaseS : State := devW (fun d => { d with rebase := true, tbgen := 1 })

theorem witness_BoundariesAndRebases_rebase : rebaseS.dev.rebase = true ∧ (rebaseS.coreOf 7).gen ≠ rebaseS.genBit
    ∧ (∀ t ∈ rebaseS.teamKeys, (rebaseS.teamOf t).core ≠ 7 ∨ (rebaseS.teamOf t).status ≠ .placed)
    ∧ (let s := (rebaseS.setTeam { t0.team with status := .saved })
      s.dev.rebase = true ∧ ∀ k ∈ Tab.keys s.cores, s.coreAdjusted k = true) := by decide +kernel

/-! ### Witnesses: links, the host and the fabric -/

/-- Bridge link `l` in a state. -/
def linkS (l : Fin 3) (k : Link) : State := devW (fun d => { d with links := vset d.links l.val k })
/-- Die `d` in a state. -/
def dieS (d : Fin 2) (f : Die → Die) : State := devW (fun x => { x with dies := vset x.dies d.val (f (vget (t0.dieAt 0) x.dies d.val)) })

theorem witness_LinksAndDies :
    (let s0 := reqS 0x1080 (.renew false)
      let s : State := { s0 with dev := { s0.dev with links := vset (vset s0.dev.links 0 .asleep) 1 .down } }
      s.linkAt 0 = .asleep ∧ s.heldFor 0 = true)
    ∧ (∀ k ∈ [Link.waking, .retraining], (linkS 1 k).linkAt 1 = k)
    ∧ t0.linkAt 2 = .up ∧ t0.net.reqs = [] ∧ t0.net.reps = [] ∧ t0.net.snoops = []
    ∧ (let s := { linkS 1 .down with dev := { (linkS 1 .down).dev with links := vset (linkS 1 .down).dev.links 0 .down } }
      s.linkAt (1 + 0) = .down ∧ s.linkAt 0 = .down ∧ (s.dieAt 0).alive = true)
    ∧ ((dieS 0 (fun x => { x with fenced := true })).dieAt 0).alive = true ∧ ((dieS 0 (fun x => { x with fenced := true })).dieAt 0).fenced = true
    ∧ (let s := dieS 0 (fun x => { x with alive := false, inc := 65534 })
      (s.dieAt 0).alive = false ∧ (s.dieAt 0).inc < 65535)
    ∧ (let s := dieS 0 (fun x => { x with alive := false, inc := 65535 })
      (s.dieAt 0).alive = false ∧ 65535 ≤ (s.dieAt 0).inc)
    ∧ (t0.dieAt 0).inc < 65535 ∧ t0.dev.rdy = true ∧ t0.dev.power = true ∧ t0.dev.d3 = false
    ∧ (devW (fun d => { d with rdy := false })).dev.rdy = false ∧ t0.barOpen = true
    ∧ (devW (fun d => { d with hostShut := true })).dev.hostShut = true := by decide +kernel

/-- The host has a window of 256 MiB; it holds a granule, and has been asked for it and for a line of its own memory. -/
def hostS : State :=
  let s := devW (fun d => { d with hdm := some (0x10000000, 0x10000000), gran := [(0x10000000, 2)] })
  { s with net := { s.net with snoops := [(0x10000000, true)], hostRq := [0x1000000000000] } }

theorem witness_HostAccessesAreCoherent : hostS.mem.wf = true ∧ hostS.dev.rebase = false ∧ isHostPa 0x1FFFFFC0 = false
    ∧ hostS.hostServed = true ∧ hostS.hostRange 0x1FFFFFC0 64 = true ∧ isHostPa 0x1000000000000 = true
    ∧ hostS.net.snoops.find? (fun p => p.1 == 0x10000000) = some (0x10000000, true)
    ∧ 0x1000000000000 ∈ hostS.net.hostRq ∧ hostS.awake = true ∧ (devW (fun d => { d with d3 := true })).awake = false
    ∧ hostS.dev.power = true ∧ hostS.dev.rdy = true
    ∧ 0xB0000000 % 0x10000000 = 0 ∧ 0xB0000000 + 0xBF50000000 ≤ 0xC000000000 ∧ 0xBF50000000 % 0x10000000 = 0
    ∧ (∃ p ∈ hostS.net.snoops, hostS.pathCtl (homeOf p.1) = true) ∧ hostS.pathCtl (homeOf 0x10000000) = true
    ∧ (∀ j, j < 64 → hostS.homeGone (0x1FFFFFC0 + j) = false ∧ hostS.homeGone (0x10000000 + j) = false)
    ∧ hostS.dev.mtb = [] ∧ hostS.lines.length + 64 < sliceLines
    ∧ (let s := { hostS with dev := { hostS.dev with dies := vset hostS.dev.dies 0 { (hostS.dieAt 0) with fenced := true } } }
      s.hostServed = true ∧ s.hostRange 0x10000000 128 = true ∧ ∀ j, j < 128 → s.homeGone (0x10000000 + j) = true) := by decide +kernel

/-- Team 1 waits at a REMOTE load of 8 bytes, or has a REMOTE store in flight. -/
def remoteS (k : RemoteKind) : State :=
  let o : Outst :=
    { id := 1, dest := .uni 3, slots := (List.range 8).map (fun i => { lane := 0, idx := i, va := 0x60000000 + i, val := none, since := 0 })
      remote := true, regs := t0.grp.regs, bad := [] }
  let s := match k with
    | .load _ _ => grpW (fun g => { g with status := .remote [], outs := [o] })
    | _ => t0
  let q : RemoteReq := { id := 1, dev := 5, cls := 1, xaddr := 0, va := 0x60000000, team := 1, agent := 0, kind := k, ans := none }
  { s with net := { s.net with remote := [q], nextId := 2 } }

theorem witness_FabricTraffic_replies : (let s := remoteS (.load 8 0)
    s.net.remote.map (fun r => (r.kind, r.agent)) = [(.load 8 0, 0)] ∧ (s.agent 1 0).status = .remote []
      ∧ (s.agent 1 0).outs.map (fun o => (o.remote, o.dest, o.slots)) = [(true, .uni 3,
          (List.range 8).map (fun i => { lane := 0, idx := i, va := 0x60000000 + i, val := none, since := 0 }))]
      ∧ (s.agent 1 0).outs.map (·.bad) = [[]] ∧ s.net.remote.map (·.ans) = [none] ∧ s.cocooned 1 = false
      ∧ (s.setTeam { s.team with status := .cocooned }).cocooned 1 = true
      ∧ (s.teamOf 1).status = .placed ∧ (s.teamOf 1).trap = none
      ∧ (∀ q ∈ s.net.remote.eraseIdx 0, q.team ≠ 1 ∨ q.agent ≠ 0))
    ∧ t0.fabricUp = false ∧ (let s := remoteS (.load 8 0)
      { s with dev := { s.dev with stations := vset s.dev.stations 0 true } }.fabricUp = true)
    ∧ (remoteS (.load 8 0)).awake = true ∧ (remoteS (.store [1])).awake = true ∧ (remoteS (.store [1])).cocooned 1 = false
    ∧ (remoteS (.store [1])).net.remote.map (fun r => (r.kind, r.agent)) = [(.store [1], 0)] := by decide +kernel

/-- The first fabric station is up; the export table at 0x2000 has one entry, of the pages from 0x10000 on. -/
def fabricS : State :=
  let s := devW (fun d => { d with stations := vset d.stations 0 true, expbase := 0x2001, mem := 7 })
  withMem (ctxMem ++ entry 0x2000 0x0000400000000007 ++ entry 0x2008 0x30000) s

/-- An access that the export table lets in. -/
def letsIn (s : State) (xa n : Nat) (wr : Bool) (r : Nat × Nat × Nat) : Bool := match s.ingressAt s.exportBase s.exportOn xa n wr false with
  | .ok a b c => (a, b, c) == r
  | _ => false
theorem ingress_of {s : State} {xa n : Nat} {wr : Bool} {a b c : Nat} (h : letsIn s xa n wr (a, b, c) = true) :
    s.ingressAt s.exportBase s.exportOn xa n wr false = .ok a b c := by
  unfold letsIn at h
  split at h
  · next h2 => rw [h2]; simp_all
  · simp at h

theorem witness_FabricTraffic_peers : fabricS.fabricUp = true ∧ fabricS.mem.wf = true ∧ (∀ p ∈ fabricS.net.ingress, p.src ≠ 3) := by
  decide +kernel
theorem witness_FabricTraffic_load : fabricS.ingressAt fabricS.exportBase fabricS.exportOn 0x3FFF8 8 false false = .ok 0x10000 0x6FFF8 0x6FFF8 :=
  ingress_of (by decide +kernel)
theorem witness_FabricTraffic_store : fabricS.ingressAt fabricS.exportBase fabricS.exportOn 0x3FFF8 8 true false = .ok 0x10000 0x6FFF8 0x6FFF8 :=
  ingress_of (by decide +kernel)
theorem witness_FabricTraffic_homes : ∀ j, j < 8 → fabricS.homeGone (0x6FFF8 + j) = false := by decide +kernel
theorem witness_FabricTraffic_refused : (match fabricS.ingressAt fabricS.exportBase fabricS.exportOn 0x40000 8 false false with
    | .refused a => a == .noTranslation
    | _ => false) = true := by decide +kernel

/-- Peer 3 has asked for 8 bytes to be held, under tag 5. -/
def partsS : List (Nat × List Byte) := [(0x3FFF8, [1, 2, 3, 4, 5, 6, 7, 8])]
def shadowsS : State := { fabricS with net := { fabricS.net with shadows := [fabricS.arriving 3 5 (.publish partsS)] } }

theorem witness_FabricTraffic_shadows : (match fabricS.landParts (fabricS.arriving 3 5 (.publish partsS)) with
      | .ok ws => ws == bytesAt 0x6FFF8 [1, 2, 3, 4, 5, 6, 7, 8]
      | _ => false) = true
    ∧ (match shadowsS.landParts (fabricS.arriving 3 5 (.publish partsS)) with
      | .ok ws => ws == bytesAt 0x6FFF8 [1, 2, 3, 4, 5, 6, 7, 8]
      | _ => false) = true
    ∧ shadowsS.net.shadows.find? (fun k => k.src == 3 && k.tag == 5) = some (fabricS.arriving 3 5 (.publish partsS))
    ∧ shadowsS.fabricUp = true ∧ shadowsS.mem.wf = true ∧ shadowsS.net.ingress = [] := by decide +kernel

theorem witness_FabricTraffic_stations : t0.stationUp 0 = false ∧ t0.dev.rdy = true ∧ t0.dev.power = true
    ∧ (∀ j, j < 8 → t0.stationUp j = false) ∧ fabricS.stationUp 1 = false ∧ (∃ j, j < 8 ∧ fabricS.stationUp j = true)
    ∧ fabricS.dev.mem = (7 : BitVec 10).toNat ∧ fabricS.dev.mem ≠ (8 : BitVec 10).toNat := by decide +kernel

/-! ### Witnesses: pages, teams and scheduling -/

/-- The leaf of the absent page at 0x80000000, and of the read-duplicated one after it. -/
def leafA : Leaf :=
  { pa := 0x80000000, size := 0x10000, attr := .leased, dev := 0, lease := 64, rs := false, rd := false, s := false, x := true
    w := true, at_ := 0x40000 }
def leafR : Leaf := { leafA with pa := 0x80100000, rs := true, rd := true, at_ := 0x40008 }
/-- Both pages' requests are outstanding. -/
def pageS : State := { ctxS with net := { ctxS.net with pageRq := [(0, 0x80000000)], collapse := [(0, 0x80010000)] } }

theorem witness_PagesComeAndGo_pages : pageS.walk (pageS.asidL1 0) 0x80000000 = some leafA
    ∧ pageS.walk (pageS.asidL1 0) 0x80010000 = some leafR ∧ pageS.mem.wf = true ∧ leafA.size ≠ 0x200000 ∧ leafA.rs = false
    ∧ pageS.rootLeaf 0 0x80000000 (fun l => !l.rs) = some leafA ∧ pageS.rootLeaf 0 0x80010000 (·.rd) = some leafR
    ∧ pageS.rootLeaf 0 0x1000 (fun l => !l.rs) = some leaf0 ∧ leaf0.rs = true
    ∧ leafA.size = 0x10000 ∧ leafA.attr ≠ .remote ∧ 0xBFFFFF0000 % 0x10000 = 0 ∧ isDevicePa 0xBFFFFF0000 = true
    ∧ leafR.rd = true ∧ leafR.size = 0x10000 ∧ (0, 0x80010000) ∈ pageS.net.collapse ∧ (0, 0x80000000) ∈ pageS.net.pageRq
    ∧ pageS.leafHeld leafA = [] ∧ pageS.leafHeld leafR = [] ∧ leafR.rs = true
    ∧ (∀ j, j < 8 → pageS.homeGone (leafA.at_ + j) = false ∧ pageS.homeGone (leafR.at_ + j) = false) := by
  decide +kernel

/-- Group 0 has stalled for window page 1. -/
def stallS : State :=
  let s := grpW (fun g => { g with status := .stall [(1, 1)] })
  s.setTeam { s.team with recVA := 0x800000 }

theorem witness_PagesComeAndGo_stall : stallS.onCore 1 = true ∧ (stallS.agent 1 0).status = .stall [(1, 1)]
    ∧ stallS.pageIn 1 1 = false ∧ (stallS.coreOf (stallS.teamOf 1).core).freeFrame = some 129 ∧ (stallS.teamOf 1).ls.wf = true
    ∧ (∀ e ∈ (stallS.coreOf (stallS.teamOf 1).core).ltt, e.shd = false) ∧ (stallS.coreOf (stallS.teamOf 1).core).ltt.length < 4096
    ∧ stallS.pinned 1 1 = false ∧ [(1, 1)] ≠ [] ∧ (stallS.teamOf 1).trap = none := by decide +kernel

/-- Team 1 waits in the queue of core 3, and nothing is on it. -/
def queuedS : State :=
  let s := teamW (fun x => { x with status := .queued, core := 3 })
  s.setCoreOf 3 { Core.empty with queue := [1] }
/-- Team 1 has trapped; its grid has a handler. -/
def trappedS : State :=
  let s := teamW (fun x => { x with status := .trapped, recVA := 0x800000,
                                    trap := some { code := 0x07, kind := 3, agent := 0, fva := 0, svc := 0 } })
  s.setGridOf 1 { s.gridOf 1 with hkernel := some t0.team.kernel, spill := 0x900000 }

theorem witness_LaunchRegisters : queuedS.mayPlace 1 3 = true ∧ (queuedS.teamOf 1).status = .queued ∧ (queuedS.teamOf 1).handles = none
    ∧ (queuedS.teamOf 1).late = [] ∧ queuedS.dev.rebase = false
    ∧ (queuedS.allocate (queuedS.teamOf 1).ctx (recSize (queuedS.teamOf 1).lswin)).isSome = true
    ∧ ((trappedS.teamOf 1).trap.map (·.code)) = some 0x07 ∧ (trappedS.gridOf (trappedS.teamOf 1).grid).hkernel = some t0.team.kernel
    ∧ (trappedS.teamOf 1).status = .trapped ∧ (trappedS.teamOf 1).handles = none
    ∧ (∀ u ∈ trappedS.teamKeys, (trappedS.teamOf u).handles ≠ some 1)
    ∧ (trappedS.gridOf (trappedS.teamOf 1).grid).failing = none ∧ trappedS.coreOpen 5 = true ∧ (trappedS.coreOf 5).l1next = []
    ∧ trappedS.roundTurn 5 (trappedS.teamOf 1).asid (trappedS.teamOf 1).ctx.wt = true
    ∧ (let key := trappedS.nextKey
      let s1 : State := { trappedS.setTeamOf key (trappedS.handlerTeam 1 t0.team.kernel 5 key) with nextKey := key + 1 }
      s1.fits key 5 = true ∧ (s1.allocate (trappedS.teamOf 1).ctx (recSize t0.team.kernel.lswin)).isSome = true ∧ 1 ≠ key) := by
  decide +kernel

/-- A placed team with a trap to report. -/
def haltS (h : Option Nat) : State :=
  teamW (fun x => { x with handles := h, recVA := 0x800000, orig := h.map (fun _ => ({ code := 1, kind := 0, agent := 0, fva := 0, svc := 0 }, 0)), trap := some { code := 0x04, kind := 0, agent := 0, fva := 5, svc := 0 } })
/-- The collection of trap 0x07 has gone on for 64 instructions. -/
def fpwS : State := grpW (fun g => { g with fpw := some { pc := 0, mask := 1, lane := 0, flags := 1, more := 0, since := 64 } })
/-- A uniform window load, LDLS s5, [s1], of 8 bytes at the odd offset 2041, which waits for its emulation. -/
def emulS : State :=
  let s := regS [(1, 2040)]
  withMem (bytesAt 0x30000 (bytesOfWord ((encode (.ldls 5 1 .b64 0)).getD 0)))
    (s.setGrp { (s.grp.setS 1 2039) with status := .emul })
/-- Its one group has ended; so may the team. -/
def endedS : State := grpW (fun g => { g with status := .ended, active := 0 })

theorem witness_TeamsHaltAndEnd :
    (haltS none).team.trap = some { code := 0x04, kind := 0, agent := 0, fva := 5, svc := 0 } ∧ (haltS none).team.status = .placed
    ∧ (haltS none).team.handles = none ∧ (haltS none).team.recVA ≠ 0 ∧ ((haltS none).gridOf 1).hkernel = none
    ∧ ((haltS none).saveTeam 1 .trapped).mem.wf = true
    ∧ ((haltS none).saveTeam 1 .trapped).walk (haltS none).team.ctx.l1pa 0x801000 = some leaf0
    ∧ (haltS none).team.ngrp ≤ 16
    ∧ (haltS (some 2)).team.handles = some 2 ∧ (haltS (some 2)).team.orig.isSome = true
    ∧ (Tab.find? (haltS none).grids 1).isSome = true
    ∧ (haltS none).onCore 1 = true ∧ (haltS (some 2)).onCore 1 = true ∧ emulS.onCore 1 = true ∧ t0.onCore 1 = true
    ∧ fpwS.windowCloses 1 0 = true ∧ fpwS.onCore 1 = true ∧ (fpwS.teamOf 1).trap = none
    ∧ t0.dev.wdog ≠ 0 ∧ t0.inHold 1 = false
    ∧ (emulS.agent 1 0).status = .emul ∧ emulS.fetch 1 0 = .instr (.ldls 5 1 .b64 0)
    ∧ (∀ p ∈ (emulS.agent 1 0).stores, p.target = .global) ∧ emulS.nextGranules 1 0 = [] ∧ (emulS.teamOf 1).lsBad = []
    ∧ (∀ j, j < 8 → (emulS.agent 1 0).uniAddr 1 .b64 0 + j < (emulS.teamOf 1).window
        ∧ emulS.pageIn 1 (((emulS.agent 1 0).uniAddr 1 .b64 0 + j) / 2048) = true)
    ∧ endedS.mayEnd 1 = true ∧ (endedS.gridOf 1).failing = none ∧ (∀ a ∈ endedS.team.agents, (endedS.agent 1 a).stores = [])
    ∧ endedS.team.unpub = [] ∧ endedS.team.pubs = [] ∧ endedS.team.pubTrap = none ∧ endedS.allQuiet 1 = true := by decide +kernel

theorem homes_stand (d : Fin 2) : (haltS none).dieLive d.val = true := by revert d; decide +kernel

/-- The trap record of `haltS none` lies in one leaf, whose homes stand. -/
theorem witness_TeamsHaltAndEnd_record (i : Nat)
    (h : i < ((haltS none).trapRecord 1 { code := 0x04, kind := 0, agent := 0, fva := 5, svc := 0 }).length) :
    ((haltS none).saveTeam 1 .trapped).walk (haltS none).team.ctx.l1pa (0x801000 + i) = some leaf0
      ∧ leaf0.phys (0x801000 + i) = 0x801000 + i ∧ (haltS none).homeGone (0x801000 + i) = false := by
  have hl : ((haltS none).trapRecord 1 { code := 0x04, kind := 0, agent := 0, fva := 5, svc := 0 }).length = 5248 := by
    decide +kernel
  rw [hl] at h
  refine ⟨?_, ?_, ?_⟩
  · have hp : ∀ j ∈ [0, 0x1000], ((haltS none).saveTeam 1 .trapped).walk (haltS none).team.ctx.l1pa (0x801000 + j) = some leaf0 := by
      decide +kernel
    rw [State.walk_page _ _ (0x801000 + i) (0x801000 + i / 0x1000 * 0x1000) (by omega)]
    refine hp _ ?_
    have : i / 0x1000 = 0 ∨ i / 0x1000 = 1 := by omega
    rcases this with e | e <;> rw [e] <;> decide
  · show 0 + (0x801000 + i) % 0x20000000 = _
    omega
  · have hd : homeDie (0x801000 + i) < 2 := Nat.mod_lt _ (by decide)
    have hh : isHostPa (0x801000 + i) = false := by simp [isHostPa]; omega
    simp only [State.homeGone, hh, Bool.false_eq_true, if_false, homes_stand ⟨_, hd⟩, Bool.not_true]

/-- A handler whose group has ended before any TRET. -/
theorem witness_TeamsHaltAndEnd_handler :
    let s := (endedS.setTeam { endedS.team with handles := some 2, orig := (haltS (some 2)).team.orig }).setTeamOf 2 { t0.team with status := .trapped }
    s.mayEnd 1 = true ∧ (s.teamOf 1).handles ≠ none ∧ (s.teamOf 1).resumed = false ∧ (s.teamOf 1).orig.isSome = true
      ∧ s.allQuiet 1 = true ∧ (s.gridOf (s.teamOf 1).grid).failing = none
      ∧ (Tab.find? s.grids (s.teamOf 1).grid).isSome = true := by decide +kernel

/-- Team 1 has been saved on core 0. -/
def savedS : State := teamW (fun x => { x with status := .saved })
/-- Team 1 has been saved, and its page list, which had one entry, stands in memory with a reserved bit set. -/
def badListS : State :=
  let s := teamW (fun x => { x with status := .saved, recVA := 0x800000, plist := [2 ^ 15 + 128 * 2 ^ 18] })
  withMem (entry 0x803000 (2 ^ 40)) s
/-- Team 2, of another context, waits for a slot on core 0. -/
def otherS : State :=
  let s := t0.setTeamOf 2 { t0.team with asid := 1, status := .queued }
  s.setCoreOf 0 { s.coreOf 0 with queue := [2] }
/-- Team 1 has a restart point. -/
def restartS : State := teamW (fun x => { x with restart := some [(0, t0.grp)] })

theorem witness_TeamsAreScheduled_teams : savedS.mayPlace 1 0 = true ∧ (savedS.teamOf 1).status ≠ .queued
    ∧ savedS.stranded 1 = false ∧ savedS.placedWith 1 = [1] ∧ savedS.badPages 1 0 = false ∧ (savedS.teamOf 1).plist = []
    ∧ badListS.mayPlace 1 0 = true ∧ badListS.placedWith 1 = [1] ∧ badListS.badPages 1 0 = true ∧ badListS.stranded 1 = false
    ∧ (Tab.find? badListS.grids (badListS.teamOf 1).grid).isSome = true ∧ (badListS.gridOf (badListS.teamOf 1).grid).failing = none
    ∧ (otherS.teamOf 2).status = .queued ∧ 2 ∈ (otherS.coreOf (otherS.teamOf 2).core).queue
    ∧ otherS.dieLive (dieOf (otherS.teamOf 2).core) = true ∧ t0.dieLive (dieOf t0.team.core) = true
    ∧ otherS.oldestForeign (otherS.teamOf 2).core (otherS.teamOf 2).asid = some 1 ∧ (otherS.teamOf 1).trap = none
    ∧ (let s := teamW (fun x => { x with request := some 1 })
      s.team.request = some 1 ∧ s.boundaryBegun 1 = false ∧ s.onCore 1 = true ∧ s.team.trap = none)
    ∧ t0.team.atB = false ∧ (begunS false).team.atB = false
    ∧ (let s := teamW (fun x => { x with atB := true })
      s.team.atB = true ∧ 1 ∈ s.namedTeams 0 0 ∧ s.team.trap = none)
    ∧ 1 ∈ t0.namedTeams 0 0 ∧ t0.sideRuns 1 = false ∧ t0.boundaryBegun 1 = false ∧ (begunS false).boundaryBegun 1 = true ∧ (begunS true).boundaryBegun 1 = true
    ∧ 1 ∈ (begunS false).namedTeams 0 0
    ∧ restartS.mayFlush 1 = true ∧ restartS.namedTeams 0 0 = [1] ∧ restartS.team.restart.map (·.map (·.1)) = some [0]
    ∧ [0].Nodup := by decide +kernel

theorem witness_TeamsAreScheduled_with (us vs : List Nat) (v : Nat) (e : savedS.placedWith 1 = us ++ v :: vs) :
    (us.foldl (fun z u => z.placeTeam u (savedS.coreBy 1 u 0)) savedS).badPages v (savedS.coreBy 1 v 0) = false := by
  have h : savedS.placedWith 1 = [1] := by decide +kernel
  rw [h] at e
  cases us with
  | nil => cases e; decide +kernel
  | cons a l => simp at e

theorem witness_TeamsAreScheduled_cores : t0.dieLive (dieOf 0) = true ∧
    (let s := coreW (fun c => { c with l1next := [2] });
      (s.coreOf 0).l1next = [2] ∧ (∀ e ∈ (s.coreOf 0).ltt, e.shd = false) ∧ s.residents 0 = [1] ∧ (s.teamOf 1).atB = false
        ∧ (let u := s.setTeam { s.team with atB := true }
          (∀ t ∈ u.residents 0, (u.teamOf t).atB = true) ∧ u.changing 0 2 ≠ []
            ∧ (∀ e ∈ u.changing 0 2, u.pinned e.team e.vpage = false ∧ u.targeted e.team e.vpage = false) ∧ (u.setCore { u.core with l1next := [1] }).changing 0 1 = []))
    ∧ (devW (fun d => { d with cmask := vset d.cmask 4 0x7FFFFFFF })).inService 287 = false ∧ t0.inService 287 = true
    ∧ (let s := (t0.setTeamOf 2 { t0.team with status := .queued, core := 1 }).setCoreOf 1 { Core.empty with queue := [2] }
      s.coreOpen 13 = true ∧ neighbours 13 1 = true ∧ (s.coreOf 13).queue = [] ∧ s.residents 13 = []
        ∧ (s.coreOf 1).queue.filter s.stealable ≠ []) := by decide +kernel

/-! ### Witnesses: the graph engine -/

/-- Memory with page tables, the context's descriptor and submission ring, the record of a node of one team at 0x50000 and its
kernel's descriptor at 0x52000. -/
def submitS : State := { t0 with mem :=
  [(0x0, 0x11), (0xA, 0x01), (0x12, 0x80), (0x1A, 0x80), (0x29, 0x30), (0x2B, 0x40), (0x10000, 0x03), (0x10002, 0x02),
   (0x20000, 0x31), (0x20001, 0x02), (0x20010, 0x35), (0x20011, 0x02), (0x20013, 0x40), (0x50000, 0x01), (0x50009, 0x20),
   (0x5000A, 0x05), (0x50010, 0x01), (0x52002, 0x03), (0x52008, 0x01), (0x52009, 0x01), (0x5200A, 0x01), (0x52018, 0xFF),
   (0x52019, 0xFF), (0x5201A, 0xFF), (0x5201B, 0xFF), (0x5201C, 0xFF), (0x5201D, 0xFF), (0x5201E, 0xFF), (0x5201F, 0xFF),
   (0x40003000, 0x01), (0x40003011, 0x40), (0x40003013, 0x40), (0x40003019, 0x10), (0x40004000, 0x01), (0x40004004,
   0x01), (0x4000400A, 0x05), (0x40004010, 0x01), (0x40004021, 0x18)] }

/-- The node as it is read. -/
def readS (tokens : Nat) : NodeRead :=
  { quads := [BitVec.ofNat 64 (1 + 65536 * tokens), 0x52000, 1, 0, 0, 0, 0, 0, 0, 0, 0, 0, 0, 0, 0, 0], succ := some []
    kernel := some { desc := 0x52000, entry := 0x30000, groups := 1, w := 1, h := 1, lswin := 0, carry := [], fore := 0xFFFFFFFF
                     hind := 0xFFFFFFFF }, kshape := some (1, 1) }
/-- The slot as it is read, and the context. -/
def slotS : List DWord := [0x0000000100000001, 0x50000, 1, 0, 0x1800, 0, 0, 0]
def contextS : Context := { t0.team.ctx with crt := 0x40003000 }

/-- The slot has been taken, and the record is to be read. -/
def takenS : State := { submitS with graphs := [graphTaken contextS slotS] }

theorem witness_GraphsRun_submit : submitS.contextThere 0 = true ∧ submitS.readContext 0 = some contextS
    ∧ submitS.submitting 0 = [] ∧ submitS.pollHeld 0 contextS.crt = []
    ∧ submitS.nextSlot 0 0x40003000 = some (0x40004000, 0, slotS) ∧ contextS.crt = 0x40003000
    ∧ (submitS.graphs.filter (·.live)).length < 1024 ∧ (submitS.ownWaits 0 0x10000 [0x40003000, 0x40004000] []).isNone = true
    ∧ takenS.contextThere 0 = true ∧ takenS.submitting 0 = [(0, slotS)] ∧ (takenS.graphAt 0).ctx = contextS
    ∧ (takenS.ownWaits 0 0x10000 [0x1800] []).isNone = true
    ∧ slotOk slotS = true ∧ slotOk [] = false ∧ List.range (pq slotS 0 / 2 ^ 32) = [0] := by decide +kernel
theorem witness_GraphsRun_record : takenS.readNode 3 contextS 0x50000 0 = .inl (readS 0) := by decide +kernel
theorem witness_GraphsRun_read : takenS.readNodes 3 contextS (pq slotS 1) [0] = .inl [readS 0] := by
  simp only [State.readNodes, show pq slotS 1 = 0x50000 from rfl, witness_GraphsRun_record]
theorem witness_GraphsRun_graph : graphFault [readS 0] (bitOf (pq slotS 0) 8) = none
    ∧ (graphFault [readS 1] (bitOf (pq slotS 0) 8)).isSome = true := by decide +kernel

/-- The context table stands where there is no memory, and a node of context 0 is the next to be dispatched. -/
def noTableS : State :=
  let s := inGraph [nodeS 1 0 []] (devW (fun d => { d with ctxtab := 0xC000000000 }))
  { s with ready := [(0, 0)] }

theorem witness_GraphsRun_noTable : noTableS.contextThere 0 = false ∧ noTableS.poolPick = some (0, 0)
    ∧ (noTableS.graphAt 0).asid = 0 := by decide +kernel

/-- A LAUNCH or NTOK of record 0 is on its way. -/
def rqS (launch : Bool) (st tok : Nat) : State :=
  let s := inGraph [nodeS st tok []] t0
  { s with net := { s.net with graphRq := [(launch, 0, 0x50000, 0)] } }

theorem witness_GraphsRun_requests : (∀ p ∈ [(true, 1, 0), (true, 0, 0), (false, 1, 0), (false, 0, 1), (false, 2, 1), (false, 0, 2)],
    let s := rqS p.1 p.2.1 p.2.2
    s.net.graphRq[0]? = some (p.1, 0, 0x50000, 0) ∧ s.recordAt 0 0x50000 = some (0, 0) ∧ (s.graphWaits 0 []).isNone = true
      ∧ (s.nodeAt 0 0).state = p.2.1 ∧ (s.nodeAt 0 0).tokens = p.2.2) := by decide +kernel

/-- A READY node of context 0 is the next to be dispatched. -/
def dispatchS : State := { inGraph [nodeS 1 0 []] submitS with ready := [(0, 0)], grids := [] }

theorem witness_GraphsRun_dispatch : dispatchS.poolPick = some (0, 0) ∧ dispatchS.graphs.length = 1 ∧ dispatchS.contextThere 0 = true
    ∧ (dispatchS.graphWaits 0 []).isNone = true ∧ dispatchS.places 1 1 [5] (1 / (1 * 1)) = some [5] := by decide +kernel
theorem witness_GraphsRun_dispatch_read : (match dispatchS.readLaunch 0 with
    | .ok c hk => hk.isNone && (dispatchS.allocate c 0x200000).isSome
    | _ => false) = true := by decide +kernel

/-- The grid of a RUN node, whose successor waits for one token or two. -/
def runS (tok : Nat) : State := (inGraph [nodeS 2 0 [1], nodeS 0 tok []] endedS).setTeam { endedS.team with status := .ended }
def commitS (tok : Nat) : State :=
  let sh : ShadowLine := { wts := 0, rts := 0, bytes := lineS, written := [(5, 9)] }
  (runS tok).setGridOf 1 { (runS tok).gridOf 1 with
    ended := [0], decls := [{ base := 0x1000, mode := 2, extent := 128 }], shadow := [(0x1000, sh)] }

theorem witness_GraphsRun_commit : (∀ tok ∈ [1, 2], let s := commitS tok
    (s.gridOf 1).gi < s.graphs.length ∧ (s.gridOf 1).node < (s.graphAt 0).nodes.length ∧ s.mayCommit 1 = true
      ∧ (s.graphWaits 0 (s.commitHeld 1)).isNone = true ∧ s.deferredOf 1 = [] ∧ (s.nodeAt 0 0).succ.count 1 = 1 ∧ (s.nodeAt 0 1).tokens = tok ∧ (s.nodeAt 0 1).state = 0
      ∧ s.mem.wf = true ∧ (s.gridOf 1).shadowBytes = [(0x1005, 9)]
      ∧ ∀ b ∈ (s.gridOf 1).shadowBytes, s.walk (s.gridOf 1).ctx.l1pa b.1 = some leaf0 ∧ s.homeGone (leaf0.phys b.1) = false) := by decide +kernel

/-- The attempt fails: with budget for another, and with none, when its successor is cancelled. -/
def failS (budget : Nat) : State :=
  let s := inGraph [{ nodeS 2 0 [1] with budget := budget }, nodeS 0 1 []] t0
  s.setGridOf 1 { s.gridOf 1 with failing := some (0, 4, 0, 0, 0) }

theorem witness_GraphsRun_fail : ((failS 1).gridOf 1).failing = some (0, 4, 0, 0, 0) ∧ ((failS 1).graphWaits 0 []).isNone = true
    ∧ ((failS 1).nodeAt 0 0).attempts + 1 ≤ ((failS 1).nodeAt 0 0).budget
    ∧ ¬ (((failS 0).nodeAt 0 0).attempts + 1 ≤ ((failS 0).nodeAt 0 0).budget) ∧ 1 ∈ ((failS 0).graphAt 0).cone 0
    ∧ (((failS 0).graphAt 0).node 1).state ≤ 1 := by decide +kernel

/-- The node of `failS` has failed: node 1 is to be cancelled, or the node is to be retried and node 1 to return. -/
def failingS (x : Failing) : State :=
  let s := inGraph [nodeS 4 0 [1], { nodeS (if x.retry then 5 else 0) 1 [] with byFail := some 0 }] t0
  { s with graphs := s.graphs.map (fun g => { g with fails := [x] }) }

theorem witness_GraphsRun_failure : ∀ x ∈ [({ node := 0, cone := [1], back := [1], retry := false, begun := false } : Failing),
      { node := 0, cone := [], back := [1], retry := false, begun := false },
      { node := 0, cone := [], back := [1], retry := true, begun := false },
      { node := 0, cone := [], back := [1], retry := true, begun := true },
      { node := 0, cone := [], back := [], retry := true, begun := true }], let s := failingS x
    0 < s.graphs.length ∧ (s.graphAt 0).fails[0]? = some x ∧ (s.graphWaits 0 []).isNone = true
      ∧ x.node < (s.graphAt 0).nodes.length ∧ 1 < (s.graphAt 0).nodes.length
      ∧ ((s.graphAt 0).node 1).byFail = some x.node ∧ ((s.graphAt 0).node 1).state = if x.retry then 5 else 0 := by
  decide +kernel

/-- A graph whose nodes are done, or whose second node has failed. -/
def doneS (st : Nat) : State := { inGraph [nodeS 3 0 [], nodeS st 0 []] t0 with grids := [] }

theorem witness_GraphsRun_end : (∀ st ∈ [3, 4], let s := doneS st
    s.graphQuiet 0 = true ∧ (s.graphWaits 0 []).isNone = true ∧ leaf0.attr ≠ .remote ∧ leaf0.rs = true ∧ (s.graphAt 0).endva ≠ 0 ∧ s.mem.wf = true ∧ (s.graphAt 0).ign < 2 ^ 24
      ∧ (∀ j, j < 8 → s.walk (s.graphAt 0).ctx.l1pa (0x1800 + j) = some leaf0 ∧ leaf0.phys (0x1800 + j) = leaf0.phys 0x1800 + j
        ∧ s.homeGone (leaf0.phys 0x1800 + j) = false)
      ∧ ((s.graphAt 0).node 1).state = st ∧ ((s.graphAt 0).node 0).state = 3) := by decide +kernel

/-! ### Witnesses: power and management -/

/-- Partition 2 is to cocoon, or is cocooned and to come back. -/
def moveS (into : Bool) : State := devW (fun d => { d with
  moves := [(2, into)]
  dies := if into then vset d.dies 0 { (t0.dieAt 0) with cocoon := some 2 } else d.dies })

/-- Partition 0 is to cocoon. Team 1 is in it, team 2 of its cluster on core 36 outside it. -/
def siblingS (apart : Bool) : State :=
  let s := devW (fun d => { d with moves := [(0, false)] })
  if apart then s.setTeamOf 2 { t0.team with core := 36 } else s

theorem witness_PowerStatesKeepTeams_siblings : (∀ b ∈ [false, true], let s := siblingS b
      s.nextOut 0 = some (0, false) ∧ (∀ c ∈ partCores 0, ∀ t ∈ s.residents c, (s.teamOf t).trap = none ∧ (s.teamOf t).forced = false
        ∧ (s.teamOf t).ovf.length + (s.cocoonLines t).length ≤ 4096))
    ∧ (siblingS false).clusterOf 1 = [1] ∧ (siblingS false).residents 0 = [1]
    ∧ (let s := siblingS true
      2 ∈ s.clusterOf 1 ∧ 1 ∈ s.residents 0 ∧ (∀ c ∈ partCores 0, 2 ∉ s.residents c) ∧ (s.teamOf 2).status = .placed
        ∧ (s.teamOf 2).trap = none ∧ (s.teamOf 2).begun = none ∧ (s.teamOf 2).atB = false
        ∧ s.dieLive (dieOf (s.teamOf 2).core) = true) := by decide +kernel

theorem witness_PowerStatesKeepTeams : ((moveS false).nextOut 2 = some (2, false) ∧ ((moveS false).dieAt 0).gated = false
      ∧ ((moveS false).dieAt 0).alive = true ∧ ((moveS false).dieAt 0).fenced = false ∧ ((moveS false).dieAt 0).cocoon = none
      ∧ ∀ c ∈ partCores 2, ∀ t ∈ (moveS false).residents c, ((moveS false).teamOf t).trap = none
        ∧ ((moveS false).teamOf t).forced = false
        ∧ ((moveS false).teamOf t).ovf.length + ((moveS false).cocoonLines t).length ≤ 4096)
    ∧ ((moveS true).inAsked 2 = true ∧ (moveS true).dieLive (2 / 4) = true ∧ ((moveS true).dieAt 0).cocoon = some 2
      ∧ ∀ c ∈ partCores 2, (moveS true).residents c = [])
    ∧ t0.barOpen = true ∧ (devW (fun d => { d with d3 := true })).barOpen = false
    ∧ (∀ r ∈ (moveS true).net.remote, r.ans = none)
    ∧ (∀ d : Fin 2, t0.gateAsked (1 - d.val) = false ∧ (t0.dieAt d.val).gated = false ∧ (t0.dieAt d.val).alive = true
      ∧ (t0.dieAt d.val).cocoon = none ∧ (∀ m ∈ t0.dev.moves, m.1 / 4 ≠ d.val)
      ∧ ∀ t ∈ t0.onDie d.val, (t0.teamOf t).trap = none ∧ (t0.teamOf t).begun = none ∧ (t0.teamOf t).atB = false
        ∧ t0.dieLive (dieOf (t0.teamOf t).core) = true)
    ∧ t0.onDie 0 = [1]
    ∧ ((dieS 1 (fun x => { x with gated := true })).dieAt 1).gated = true
    ∧ t0.dev.d3 = false ∧ t0.dev.power = true ∧ t0.dev.rdy = true
    ∧ (devW (fun d => { d with d3 := true })).dev.d3 = true
    ∧ ((devW (fun d => { d with d3 := true })).setTeam { t0.team with status := .saved }).teamKeys = [1] := by decide +kernel

/-- A debug session of full reach. -/
def debugS : State := withMem ctxMem (devW (fun d => { d with trust := { d.trust with session := true, dbg := 2 } }))

theorem witness_ResetsAndManagement : t0.dev.rdy = true ∧ t0.dev.power = true ∧ t0.dev.d3 = false
    ∧ (2 ^ 52 - 2 ^ 16) % 2 ^ 16 = 0 ∧ 2 ^ 52 - 2 ^ 16 < 2 ^ 52 ∧ (∀ j, j < 8 → t0.stationUp j = false)
    ∧ (∃ j, j < 8 ∧ fabricS.stationUp j = true) ∧ t0.dev.trust.rollback ≤ t0.dev.trust.verA
    ∧ (let x := { t0.dev.trust with rollback := 3, verB := 3 }
      ¬ (x.rollback ≤ x.verA) ∧ x.rollback ≤ x.verB)
    ∧ t0.dev.trust.session = false
    ∧ t0.barOpen = true ∧ (devW (fun d => { d with rdy := false })).barOpen = false
    ∧ t0.dev.trust.lc = t0.dev.trust.lcNext ∧ (devW (fun d => { d with trust := { d.trust with lcNext := 1 } })).dev.trust.lc ≠ 1
    ∧ debugS.debugReach = 2 ∧ debugS.dev.power = true ∧ debugS.dev.d3 = false ∧ debugS.teamKeys = [1]
    ∧ (debugS.teamOf 1).asid = 0 ∧ (debugS.teamOf 1).node = 0 ∧ (debugS.teamOf 1).status = .placed ∧ (debugS.teamOf 1).sup = false
    ∧ debugS.dieLive (dieOf (debugS.teamOf 1).core) = true ∧ Tab.find? [(8, (7 : Byte))] (8 + 0) = some 7
    ∧ (debugS.teamOf 1).trap = none ∧ (debugS.teamOf 1).begun = none ∧ (debugS.teamOf 1).atB = false
    ∧ ({ debugS with dev := { debugS.dev with trust := { debugS.dev.trust with dbg := 1 } } } : State).debugReach = 1
    ∧ ({ debugS with dev := { debugS.dev with trust := { debugS.dev.trust with dbg := 1 } } } : State).plainContext 0 = true
    ∧ ({ debugS with dev := { debugS.dev with power := false } } : State).debugReach = 2
    ∧ debugS.debugHeld 0 0x1000 8 = [] ∧ debugS.debugMay 0 0x1000 8 = true ∧ debugS.mem.wf = true
    ∧ (∀ j, j < 8 → debugS.walk (debugS.asidL1 0) (0x1000 + j) = some leaf0 ∧ leaf0.phys (0x1000 + j) = leaf0.phys 0x1000 + j
        ∧ debugS.homeGone (leaf0.phys 0x1000 + j) = false) := by
  decide +kernel

/-! ### Witnesses: the whole machine -/

theorem witness_DecodeAndEncodeAgree : (Instr.shfliXor 5 4 1 false 0).wf = true
    ∧ encode (.shfliXor 5 4 1 false 0) = some 0x4A142308 := by decide +kernel
theorem witness_DecodeAndEncodeAgree_word : decodeWord 0x4A142308 = .ok (.shfliXor 5 4 1 false 0) := rfl

/-- Team 1's group is to issue next. -/
def issueS : State := { t0 with agenda := [.issue 1 0] }
/-- The same with a word that is not an instruction at its PC. -/
def badWordS : State := withMem (entry 0x30000 0xF8000000) issueS
/-- The same with its PC where nothing is mapped. -/
def strayS : State := issueS.setAgent 1 0 { t0.grp with pcs := fillv 32 0xFFFFFFFFFFFFC }
/-- The same while v0, which the instruction at PC uses, is pending. -/
def pendingS : State :=
  let o : Outst := { id := 1, dest := .lane 0 false, slots := [{ lane := 0, idx := 0, va := 0, val := none, since := 0 }], remote := false
                     regs := t0.grp.regs, bad := [] }
  issueS.setAgent 1 0 { t0.grp with outs := [o] }

/-- The same with its PC on a HOSTED line that the host holds exclusively. -/
def heldCodeS : State :=
  let s := issueS.setAgent 1 0 { t0.grp with pcs := fillv 32 0x40005000 }
  { s with dev := { s.dev with hdm := some (0x40000000, 0x10000000), gran := [(0x40005000, 2)] } }

/-- RDRAW s1, s2, s3 at PC, the host holding the seed. -/
def heldSeedS : State :=
  let s := withMem (bytesAt 0x30000 (bytesOfWord 0xD8084180)) (teamW (fun x => { x with ctx := { x.ctx with seeds := 0x40006000, nseed := 1 } }))
  { s with dev := { s.dev with hdm := some (0x40000000, 0x10000000), gran := [(0x40006000, 2)] }, agenda := [.issue 1 0] }
/-- No instruction at PC while a load is outstanding. -/
def badWaitS : State := { badWordS with groups := pendingS.groups }

theorem witness_AStepRunsTheDecodedInstruction_waits : (strayS.agent 1 0).outs = [] ∧ (badWordS.agent 1 0).outs = []
    ∧ (let s : State := { heldSeedS with agenda := [] }
      s.mayIssue 1 0 = true ∧ s.fetchFirst 1 0 = none ∧ s.mustWait 1 0 (.rdraw 1 2 3) = false ∧ s.trapWaits 1 0 = false
        ∧ (s.accessFirst 1 0 (.rdraw 1 2 3)).isSome = true ∧ s.codeBytes 1 0x30000 = bytesOfWord 0xD8084180)
    ∧ (let s : State := { issueS with agenda := [] }
      s.trapWaits 1 0 = false ∧ s.accessFirst 1 0 (.iadd 0 0 0 false false 0) = none)
    ∧ (let s : State := { badWaitS with agenda := [] }
      s.trapWaits 1 0 = true ∧ s.mayIssue 1 0 = true) := by decide +kernel

theorem witness_AStepRunsTheDecodedInstruction : (∀ s ∈ [issueS, badWordS, pendingS],
      let s0 : State := { s with agenda := [] }
      s.agenda = .issue 1 0 :: [] ∧ s0.mayIssue 1 0 = true ∧ s0.fetchFirst 1 0 = none ∧ s0.chkGlobal 1 (s.agent 1 0).pc.toNat .fetch = .ok)
    ∧ issueS.mustWait 1 0 (.iadd 0 0 0 false false 0) = false ∧ (issueS.teamOf 1).trap = none ∧ (issueS.agent 1 0).fpw = none
    ∧ (issueS.teamOf 1).atB = false ∧ (issueS.agent 1 0).hold = [] ∧ issueS.net.held = [] ∧ issueS.dev.rebase = false
    ∧ writesCluster (.iadd 0 0 0 false false 0) = false ∧ ({ strayS with agenda := [] } : State).fetchFirst 1 0 = none
    ∧ (({ heldCodeS with agenda := [] } : State).fetchFirst 1 0).isSome = true ∧ ({ heldCodeS with agenda := [] } : State).mayIssue 1 0 = true
    ∧ pendingS.mustWait 1 0 (.iadd 0 0 0 false false 0) = true
    ∧ ({ strayS with agenda := [] } : State).mayIssue 1 0 = true
    ∧ ({ strayS with agenda := [] } : State).chkGlobal 1 (strayS.agent 1 0).pc.toNat .fetch = .trap 0x04 0xFFFFFFFFFFFFC := by
  decide +kernel
theorem test_code_of_issueS : issueS.codeBytes 1 0x30000 = [0, 0, 0, 0] ∧ badWordS.codeBytes 1 0x30000 = [0, 0, 0, 0xF8] := by
  decide +kernel
theorem witness_AStepRunsTheDecodedInstruction_word : (match decodeBytes [0, 0, 0, 0] with
      | .ok (i, _) => i == .iadd 0 0 0 false false 0
      | .error _ => false) = true
    ∧ (match decodeBytes [0, 0, 0, 0xF8] with
      | .ok _ => false
      | .error e => e == .unassignedMajor) = true := by decide +kernel

theorem goes_of {o : Out} (h : (match o with | .next _ => true | _ => false) = true) : ∃ t, o = .next t := by
  cases o with
  | next t => exact ⟨t, rfl⟩
  | _ => simp at h

theorem witness_StepsKeepMemoryCanonical : issueS.memWf = true ∧ issueS.windowsWf = true ∧ ∃ t, step issueS = .next t :=
  ⟨by decide +kernel, by decide +kernel, goes_of (by decide +kernel)⟩

/-- A word placed for the first fetch after reset runs as the next step: ADDI s1, s63, 5. -/
theorem test_first_step : (match step (State.reset.withFetchWord 32 0x820FE005) with
    | .next t => t.grp.getS 1 == 5
    | _ => false) = true := by decide +kernel

/-! ### Errors and the generator -/

/-- R68: an uncorrectable error in a lane register that IADD reads raises 0x09 at it; MOVW reads none. -/
theorem test_upset :
    let hit := fun (w : Nat) => match step { State.reset.withFetchWord 32 w with agenda := [.upset 1 0 none] } with
      | .next t => (t.teamOf 1).trap.map (·.code)
      | _ => none
    hit 0x00000000 = some 0x09 ∧ hit 0x92C22083 = none := by decide +kernel

/-- R145's worked example: one step of the generator. -/
theorem test_generator :
    genStep 0x80000000800000001234567800000000 = 0x00000001000000002468ACF000000087
      ∧ genOut 0x00000001000000002468ACF000000087 = 0x2468ACF1 := by decide +kernel

end Sys2Proof.Tests
end

section
/-!
SUPPORT. Movement between lanes (R92, R97 to R100): what the steps of a scan hold in an acting lane, and the word of a
three-register lane instruction. At the end, the settled statement.
-/

namespace Sys2Proof.Machine

open Sys2Proof

/-! ### Acting lanes in ascending order -/

theorem Group.mem_actors {g : Group} {q : Fin 4} {l : Nat} : l ∈ g.actors q ↔ l < 32 ∧ g.acts q l = true := by
  rw [Group.actors, List.mem_filter, mem_allLanes]

theorem Group.actors_ascending (g : Group) (q : Fin 4) : (g.actors q).Pairwise (· < ·) :=
  List.pairwise_lt_range.filter _

/-- The acting lanes at or below lane `l`: those whose elements a scan joins in `l` (R100). -/
def Group.actorsUpTo (g : Group) (q : Fin 4) (l : Nat) : List Nat := (g.actors q).filter (fun j => decide (j ≤ l))

theorem Group.actorsUpTo_ne_nil {g : Group} {q : Fin 4} {l : Nat} (hl : l < 32) (acts : g.acts q l = true) :
    g.actorsUpTo q l ≠ [] :=
  List.ne_nil_of_mem (List.mem_filter.mpr ⟨Group.mem_actors.mpr ⟨hl, acts⟩, decide_eq_true (Nat.le_refl l)⟩)

theorem filter_le_cons {j l : Nat} (h : j ≤ l) (t : List Nat) :
    (j :: t).filter (fun i => decide (i ≤ l)) = j :: t.filter (fun i => decide (i ≤ l)) :=
  List.filter_cons_of_pos (decide_eq_true h)

/-- Of an ascending list, no entry but the first is at or below the first. -/
theorem filter_le_head {j : Nat} {t : List Nat} (h : (j :: t).Pairwise (· < ·)) :
    (j :: t).filter (fun i => decide (i ≤ j)) = [j] := by
  have above : ∀ i ∈ t, j < i := (List.pairwise_cons.mp h).1
  have none_left : t.filter (fun i => decide (i ≤ j)) = [] :=
    List.filter_eq_nil_iff.mpr fun i hi => by simpa only [decide_eq_true_eq, Nat.not_le] using above i hi
  rw [filter_le_cons (Nat.le_refl j), none_left]

/-! ### Prefixes (R100) -/

/-- The elements of the lanes of a list, joined by `f` from the first lane on. -/
def joinLanes (f : Word → Word → Word) (a : Nat → Word) : List Nat → Word
  | [] => 0
  | j :: t => t.foldl (fun r i => f r (a i)) (a j)

@[simp] theorem scanAt_cons_same (l : Nat) (r : Word × Flags) (t : List (Nat × Word × Flags)) :
    scanAt l ((l, r) :: t) = r := by rw [scanAt, if_pos rfl]

theorem scanAt_cons_ne {j l : Nat} (h : j ≠ l) (r : Word × Flags) (t : List (Nat × Word × Flags)) :
    scanAt l ((j, r) :: t) = scanAt l t := by rw [scanAt, if_neg h]

/-- Behind a running value, the step of lane `l` joins to it the elements of the lanes up to `l`. -/
theorem scanAt_scanFrom_some (f : Word → Word → Word) (a : Nat → Word) {m : List Nat} (hm : m.Pairwise (· < ·))
    {l : Nat} (hl : l ∈ m) (run : Word) :
    (scanAt l (scanFrom (fun x => (x, .none)) (fun r x => (f r x, .none)) a (some run) m)).1
      = (m.filter (fun j => decide (j ≤ l))).foldl (fun r i => f r (a i)) run := by
  induction m generalizing run with
  | nil => cases hl
  | cons j t ih =>
    rcases List.mem_cons.mp hl with rfl | ht
    · rw [filter_le_head hm]
      simp only [scanFrom, scanAt_cons_same, List.foldl_cons, List.foldl_nil]
    · obtain ⟨above, ht_asc⟩ := List.pairwise_cons.mp hm
      have hj : j < l := above l ht
      rw [filter_le_cons (Nat.le_of_lt hj), List.foldl_cons, ← ih ht_asc ht, scanFrom,
        scanAt_cons_ne (Nat.ne_of_lt hj)]

/-- The step of lane `l` of a scan joins the elements of the lanes up to `l`. -/
theorem scanAt_intScan (f : Word → Word → Word) (a : Nat → Word) {m : List Nat} (hm : m.Pairwise (· < ·))
    {l : Nat} (hl : l ∈ m) :
    (scanAt l (intScan f a m)).1 = joinLanes f a (m.filter (fun j => decide (j ≤ l))) := by
  cases m with
  | nil => cases hl
  | cons j t =>
    rcases List.mem_cons.mp hl with rfl | ht
    · rw [filter_le_head hm]
      simp only [intScan, scanFrom, scanAt_cons_same, joinLanes, List.foldl_nil]
    · obtain ⟨above, ht_asc⟩ := List.pairwise_cons.mp hm
      have hj : j < l := above l ht
      rw [filter_le_cons (Nat.le_of_lt hj), joinLanes, ← scanAt_scanFrom_some f a ht_asc ht, intScan,
        scanFrom, scanAt_cons_ne (Nat.ne_of_lt hj)]

theorem joinLanes_add (a : Nat → Word) (m : List Nat) :
    joinLanes (fun r x => r + x) a m = m.foldl (fun r j => r + a j) 0 := by
  cases m with
  | nil => rfl
  | cons j t => exact congrArg (t.foldl fun r i => r + a i) (BitVec.zero_add (a j)).symm

/-! ### Minima and maxima -/

/-- `f` picks one of its operands, and no operand comes before its pick in the order `le`. -/
structure Picks (le : Word → Word → Prop) (f : Word → Word → Word) : Prop where
  mem (r x : Word) : f r x = r ∨ f r x = x
  left (r x : Word) : le r (f r x)
  right (r x : Word) : le x (f r x)

theorem sMax_eq {w : Nat} (r x : BitVec w) : sMax r x = if r.toInt < x.toInt then x else r := by
  simp only [sMax, BitVec.slt_iff_toInt_lt]

theorem sMin_eq {w : Nat} (r x : BitVec w) : sMin r x = if r.toInt < x.toInt then r else x := by
  simp only [sMin, BitVec.slt_iff_toInt_lt]

theorem sMax_picks : Picks (fun u v => u.toInt ≤ v.toInt) sMax where
  mem r x := by
    by_cases h : r.toInt < x.toInt
    · exact .inr (by rw [sMax_eq, if_pos h])
    · exact .inl (by rw [sMax_eq, if_neg h])
  left r x := by rw [sMax_eq]; split <;> omega
  right r x := by rw [sMax_eq]; split <;> omega

theorem sMin_picks : Picks (fun u v => v.toInt ≤ u.toInt) sMin where
  mem r x := by
    by_cases h : r.toInt < x.toInt
    · exact .inl (by rw [sMin_eq, if_pos h])
    · exact .inr (by rw [sMin_eq, if_neg h])
  left r x := by rw [sMin_eq]; split <;> omega
  right r x := by rw [sMin_eq]; split <;> omega

/-- `v` is the element of one of the lanes of `m`, and no element of a lane of `m` comes after it in the order `le`. -/
def LastOf (le : Word → Word → Prop) (a : Nat → Word) (m : List Nat) (v : Word) : Prop :=
  (∃ j ∈ m, v = a j) ∧ ∀ j ∈ m, le (a j) v

/-- A pick between the last of some lanes and the element of one more lane is the last of them all. -/
theorem LastOf.snoc {le : Word → Word → Prop} {f : Word → Word → Word} (hf : Picks le f)
    (trans : ∀ {u v w}, le u v → le v w → le u w) {a : Nat → Word} {m : List Nat} {v : Word} (h : LastOf le a m v)
    (i : Nat) : LastOf le a (m ++ [i]) (f v (a i)) := by
  obtain ⟨⟨j, hj, rfl⟩, bound⟩ := h
  constructor
  · rcases hf.mem (a j) (a i) with e | e
    · exact ⟨j, List.mem_append_left _ hj, e⟩
    · exact ⟨i, List.mem_append_right _ List.mem_cons_self, e⟩
  · intro k hk
    rcases List.mem_append.mp hk with hk | hk
    · exact trans (bound k hk) (hf.left _ _)
    · rw [List.mem_singleton.mp hk]
      exact hf.right _ _

/-- Joined by picks, the lanes of a list that is not empty give the last of their elements. -/
theorem joinLanes_lastOf {le : Word → Word → Prop} {f : Word → Word → Word} (hf : Picks le f) (refl : ∀ u, le u u)
    (trans : ∀ {u v w}, le u v → le v w → le u w) (a : Nat → Word) {m : List Nat} (hm : m ≠ []) :
    LastOf le a m (joinLanes f a m) := by
  have fold : ∀ (t seen : List Nat) (v : Word), LastOf le a seen v →
      LastOf le a (seen ++ t) (t.foldl (fun r i => f r (a i)) v) := by
    intro t
    induction t with
    | nil => exact fun seen v h => by rwa [List.append_nil]
    | cons i t ih =>
      intro seen v h
      rw [List.append_cons, List.foldl_cons]
      exact ih (seen ++ [i]) _ (h.snoc hf trans i)
  cases m with
  | nil => exact absurd rfl hm
  | cons j t =>
    refine fold t [j] (a j) ⟨⟨j, List.mem_cons_self, rfl⟩, fun i hi => ?_⟩
    rw [List.mem_singleton.mp hi]
    exact refl _

theorem joinLanes_sMax (a : Nat → Word) {m : List Nat} (hm : m ≠ []) :
    (∃ j ∈ m, joinLanes sMax a m = a j) ∧ ∀ j ∈ m, (a j).toInt ≤ (joinLanes sMax a m).toInt :=
  joinLanes_lastOf sMax_picks (fun _ => Int.le_refl _) Int.le_trans a hm

theorem joinLanes_sMin (a : Nat → Word) {m : List Nat} (hm : m ≠ []) :
    (∃ j ∈ m, joinLanes sMin a m = a j) ∧ ∀ j ∈ m, (joinLanes sMin a m).toInt ≤ (a j).toInt :=
  joinLanes_lastOf sMin_picks (fun _ => Int.le_refl _) (fun h k => Int.le_trans k h) a hm

end Sys2Proof.Machine

namespace Sys2Proof.Claims

open Sys2Proof Sys2Proof.Machine

/-! ### Lane results -/

/-- Only what a result is in the acting lanes counts. -/
theorem LaneResult.congr {s : State} {o : Out} {d : VReg} {q : Fin 4} {lastV : List VReg} {lastS : List SReg}
    {f f' : Nat → Word} (h : LaneResult s o d q lastV lastS f) (e : ∀ l ∈ s.grp.actors q, f l = f' l) :
    LaneResult s o d q lastV lastS f' := by
  obtain ⟨t, ho, frame, written⟩ := h
  refine ⟨t, ho, frame, fun l hl => ⟨fun acts => ?_, (written l hl).2⟩⟩
  rw [(written l hl).1 acts, e l (Group.mem_actors.mpr ⟨hl, acts⟩)]

theorem laneMove_result (s : State) (d a : VReg) (y : Bool) (q : Fin 4) (src : Nat → Nat) :
    LaneResult s (.next (s.laneMove d a y q src)) d q (marked [(y, a)]) [] (fun l => s.grp.lane a (src l)) :=
  laneOp_result s q _ d _

theorem laneScan_result (s : State) (d a : VReg) (y : Bool) (q : Fin 4) (f : Word → Word → Word) :
    LaneResult s (.next (s.laneScan d a y q f)) d q (marked [(y, a)]) []
      (fun l => joinLanes f (s.grp.lane a) (s.grp.actorsUpTo q l)) :=
  (laneOp_result s q _ d _).congr fun _ hl => scanAt_intScan f _ (s.grp.actors_ascending q) hl

/-! ### SEL and the shuffles (R92, R98, R99) -/

variable (d a b : VReg) (k : BitVec 5) (y z : Bool) (q : Fin 4) (s : State)

theorem sel_result : LaneResult s (exec (.sel d a b y z q) s) d 0 (marked [(y, a), (z, b)]) []
    (fun l => if s.grp.getK (kq q) l then s.grp.lane a l else s.grp.lane b l) :=
  laneOp_result s 0 _ d _

theorem shfl_result : LaneResult s (exec (.shfl d a b y z q) s) d q (marked [(y, a), (z, b)]) []
    (fun l => s.grp.lane a ((s.grp.lane b l).toNat % 32)) :=
  laneOp_result s q _ d _

theorem shfliIndex_result : LaneResult s (exec (.shfliIndex d a k y q) s) d q (marked [(y, a)]) []
    (fun _ => s.grp.lane a k.toNat) :=
  laneMove_result s d a y q _

theorem shfliUp_result : LaneResult s (exec (.shfliUp d a k y q) s) d q (marked [(y, a)]) []
    (fun l => if k.toNat ≤ l then s.grp.lane a (l - k.toNat) else s.grp.lane a l) :=
  (laneMove_result s d a y q _).congr fun _ _ => apply_ite (s.grp.lane a) _ _ _

theorem shfliDown_result : LaneResult s (exec (.shfliDown d a k y q) s) d q (marked [(y, a)]) []
    (fun l => if l + k.toNat ≤ 31 then s.grp.lane a (l + k.toNat) else s.grp.lane a l) :=
  (laneMove_result s d a y q _).congr fun _ _ => apply_ite (s.grp.lane a) _ _ _

theorem shfliXor_result : LaneResult s (exec (.shfliXor d a k y q) s) d q (marked [(y, a)]) []
    (fun l => s.grp.lane a (l ^^^ k.toNat)) :=
  laneMove_result s d a y q _

/-! ### The integer prefixes (R100) -/

theorem lscanAddI32_result : LaneResult s (exec (.lscanAddI32 d a y q) s) d q (marked [(y, a)]) []
    (fun l => (s.grp.actorsUpTo q l).foldl (fun r j => r + s.grp.lane a j) 0) :=
  (laneScan_result s d a y q _).congr fun _ _ => joinLanes_add _ _

theorem lscanMaxI32_result : LaneResult s (exec (.lscanMaxI32 d a y q) s) d q (marked [(y, a)]) []
    (fun l => joinLanes sMax (s.grp.lane a) (s.grp.actorsUpTo q l)) :=
  laneScan_result s d a y q sMax

theorem lscanMinI32_result : LaneResult s (exec (.lscanMinI32 d a y q) s) d q (marked [(y, a)]) []
    (fun l => joinLanes sMin (s.grp.lane a) (s.grp.actorsUpTo q l)) :=
  laneScan_result s d a y q sMin

end Sys2Proof.Claims

namespace Sys2Proof

/-! ### The word of a three-register lane instruction (R40) -/

/-- The word with the L-form major `m` and the three-register fields. -/
def lane3Word (m : Nat) (d a b : VReg) (y z : Bool) (q : Fin 4) : Nat :=
  m * 2 ^ 25 + d.val * 2 ^ 18 + a.val * 2 ^ 11 + b.val * 2 ^ 4 + y.toNat * 2 ^ 3 + z.toNat * 2 ^ 2 + q.val

/-- A field of one bit that holds a Boolean is read back. -/
theorem flagAt_eq {w lo : Nat} {y : Bool} (h : field w lo 1 = y.toNat) : flagAt w lo = y := by
  rw [flagAt, h]
  cases y <;> rfl

section
variable (m : Nat) (d a b : VReg) (y z : Bool) (q : Fin 4)

/-- Each field of the word, read back: the form bit, the major and the operands. -/
theorem lane3Word_fields (hm : m < 64) :
    let w := lane3Word m d a b y z q
    field w 31 1 = 0 ∧ field w 25 6 = m ∧ vregAt w 18 = d ∧ vregAt w 11 = a ∧ vregAt w 4 = b
      ∧ flagAt w 3 = y ∧ flagAt w 2 = z ∧ fin4At w 0 = q := by
  have hd := d.isLt
  have ha := a.isLt
  have hb := b.isLt
  have hy := y.toNat_lt
  have hz := z.toNat_lt
  have hq := q.isLt
  refine ⟨?_, ?_, Fin.ext ?_, Fin.ext ?_, Fin.ext ?_, flagAt_eq ?_, flagAt_eq ?_, Fin.ext ?_⟩ <;>
    simp only [vregAt, fin4At, field, lane3Word] <;> omega

/-- R98: the word of SHFL. -/
theorem decodeWord_shfl : decodeWord (lane3Word 0x24 d a b y z q) = .ok (.shfl d a b y z q) := by
  obtain ⟨form, major, hd, ha, hb, hy, hz, hq⟩ := lane3Word_fields 0x24 d a b y z q (by decide)
  rw [decodeWord, if_pos form, major, decodeL, hd, ha, hb, hy, hz, hq]
  rfl

end

end Sys2Proof

open Sys2Proof.Machine Sys2Proof.Claims

/-- Settles O4: SEL and the shuffles are lane operations whose result is read off the group as it issues; a scan joins in
each acting lane the elements of those up to it, and a signed minimum or maximum picks one of their elements. -/
theorem Sys2Proof.Claims.laneSelectionMovesAndPrefixes : Obligations.LaneSelectionMovesAndPrefixes := by
  intro d a b k y z q s
  refine ⟨sel_result d a b y z q s, shfl_result d a b y z q s, Sys2Proof.decodeWord_shfl d a b y z q,
    shfliIndex_result d a k y q s, shfliUp_result d a k y q s, shfliDown_result d a k y q s,
    shfliXor_result d a k y q s, lscanAddI32_result d a y q s,
    ⟨_, lscanMaxI32_result d a y q s, fun l hl acts => joinLanes_sMax _ (Group.actorsUpTo_ne_nil hl acts)⟩,
    ⟨_, lscanMinI32_result d a y q s, fun l hl acts => joinLanes_sMin _ (Group.actorsUpTo_ne_nil hl acts)⟩⟩

end

section
/-!
SUPPORT. Uniform instructions that read lanes or the generator (R117 to R119, R139, R145): what the last step of a reduction
holds, what a uniform write leaves of a group whose flags were raised first, and the words of BALLOT and RNXT. At the end,
the settled statements.
-/

namespace Sys2Proof.Machine

open Sys2Proof

/-! ### Uniform registers -/

/-- A write to a uniform register changes uniform registers only. -/
theorem Group.setS_frame (g : Group) (r : SReg) (x : DWord) : g.setS r x = { g with s := (g.setS r x).s } := by
  rw [Group.setS]
  split <;> rfl

/-! ### Issuing lanes in ascending order -/

theorem Group.actors_zero (g : Group) : g.actors 0 = g.issuers :=
  List.filter_congr fun l _ => Bool.and_true (g.issuing l)

theorem Group.issuers_ascending (g : Group) : g.issuers.Pairwise (· < ·) :=
  List.pairwise_lt_range.filter _

theorem Group.mem_issuers {g : Group} {l : Nat} : l ∈ g.issuers ↔ l < 32 ∧ g.issuing l = true := by
  rw [Group.issuers, List.mem_filter, mem_allLanes]

/-- Every entry of an ascending list is at or below its last. -/
theorem filter_le_last {m : List Nat} (hm : m.Pairwise (· < ·)) {l : Nat} (last : m.getLast? = some l) :
    m.filter (fun j => decide (j ≤ l)) = m := by
  obtain ⟨init, rfl⟩ := List.getLast?_eq_some_iff.mp last
  refine List.filter_eq_self.mpr fun j hj => decide_eq_true ?_
  rcases List.mem_append.mp hj with hj | hj
  · exact Nat.le_of_lt ((List.pairwise_append.mp hm).2.2 j hj l List.mem_cons_self)
  · exact Nat.le_of_eq (List.mem_singleton.mp hj)

/-! ### The last step of a reduction (R119) -/

/-- A scan takes one step in each lane, in the order of the lanes. -/
theorem scanFrom_lanes (first : Word → Word × Flags) (comb : Word → Word → Word × Flags) (a : Nat → Word)
    (run : Option Word) (m : List Nat) : (scanFrom first comb a run m).map (·.1) = m := by
  induction m generalizing run with
  | nil => cases run <;> rfl
  | cons j t ih => cases run <;> rw [scanFrom, List.map_cons, ih]

/-- Steps in different lanes are those that their lanes read. -/
theorem eq_map_scanAt {steps : List (Nat × Word × Flags)} (distinct : (steps.map (·.1)).Nodup) :
    steps = (steps.map (·.1)).map (fun l => (l, scanAt l steps)) := by
  induction steps with
  | nil => rfl
  | cons p t ih =>
    obtain ⟨fresh, ht⟩ := List.nodup_cons.mp distinct
    rw [List.map_cons, List.map_cons, scanAt_cons_same]
    refine congrArg _ ((ih ht).trans (List.map_congr_left fun l hl => ?_))
    have other : p.1 ≠ l := by rintro rfl; exact fresh hl
    rw [scanAt_cons_ne other]

/-- The last step is that of the last lane. -/
theorem lastStep_eq_scanAt {steps : List (Nat × Word × Flags)} (distinct : (steps.map (·.1)).Nodup) {l : Nat}
    (last : (steps.map (·.1)).getLast? = some l) : lastStep steps = (scanAt l steps).1 := by
  have step : steps.getLast? = some (l, scanAt l steps) :=
    calc steps.getLast?
        = ((steps.map (·.1)).map (fun l => (l, scanAt l steps))).getLast? := congrArg List.getLast? (eq_map_scanAt distinct)
      _ = some (l, scanAt l steps) := by rw [List.getLast?_map, last, Option.map_some]
  rw [lastStep, step]

theorem sumScan_lanes (g : Group) (a : Nat → Word) (m : List Nat) : (g.sumScan a m).map (·.1) = m :=
  scanFrom_lanes _ _ a none m

/-- An integer reduction joins the elements of its lanes. -/
theorem lastStep_intScan (f : Word → Word → Word) (a : Nat → Word) {m : List Nat} (hm : m.Pairwise (· < ·)) :
    lastStep (intScan f a m) = joinLanes f a m := by
  cases last : m.getLast? with
  | none => rw [List.getLast?_eq_none_iff.mp last]; rfl
  | some l =>
    have lanes : (intScan f a m).map (·.1) = m := scanFrom_lanes _ _ a none m
    rw [lastStep_eq_scanAt (by rw [lanes]; exact hm.imp Nat.ne_of_lt) (by rw [lanes]; exact last),
      scanAt_intScan f a hm (List.mem_of_getLast? last), filter_le_last hm last]

/-- Joined by `f`, the lanes of a list give the fold from a left unit of `f`; 0 stands for a list without lanes. -/
theorem joinLanes_eq_foldl {f : Word → Word → Word} {e : Word} (unit : ∀ x, f e x = x) (a : Nat → Word) {m : List Nat}
    (empty : m = [] → e = 0) : joinLanes f a m = m.foldl (fun r j => f r (a j)) e := by
  cases m with
  | nil => exact (empty rfl).symm
  | cons j t => rw [joinLanes, List.foldl_cons, unit]

/-! ### The generator (R145) -/

theorem genStep_eq (x : BitVec 128) : genStep x = (x <<< 1) ^^^ (if x.getLsbD 127 then 0x87 else 0) := by
  rw [genStep, BitVec.msb_eq_getLsbD_last]
  cases x.getLsbD (128 - 1)
  · exact (BitVec.xor_zero).symm
  · rfl

/-- What RNXT returns, in natural numbers: the exclusive or of bits [63:32] and [127:96]. -/
theorem genOut_setWidth (x : BitVec 128) :
    (genOut x).setWidth 64 = BitVec.ofNat 64 (x.toNat / 2 ^ 32 % 2 ^ 32 ^^^ x.toNat / 2 ^ 96) := by
  have top : x.toNat / 2 ^ 96 < 2 ^ 32 := Nat.div_lt_of_lt_mul x.isLt
  apply BitVec.eq_of_toNat_eq
  rw [genOut, BitVec.toNat_setWidth, BitVec.toNat_xor, BitVec.toNat_setWidth, BitVec.toNat_setWidth,
    BitVec.toNat_ushiftRight, BitVec.toNat_ushiftRight, Nat.shiftRight_eq_div_pow, Nat.shiftRight_eq_div_pow,
    Nat.mod_eq_of_lt top, BitVec.toNat_ofNat]

end Sys2Proof.Machine

namespace Sys2Proof.Claims

open Sys2Proof Sys2Proof.Machine

/-! ### A uniform write after a change of the group -/

/-- After the group has become `g`, with program counters and active mask as they were, a uniform write leaves what it
leaves of `g`. -/
theorem UniformResult.afterGrp {s : State} {o : Out} {g : Group} {d : SReg} {lastV : List VReg} {lastS : List SReg}
    {x : DWord} (pcs : g.pcs = s.grp.pcs) (active : g.active = s.grp.active)
    (h : UniformResult (s.setGrp g) o d lastV lastS x) : Answers o (fun t =>
      OnlyGroup s t ∧ PcsAdvance s.grp t.grp ∧ t.grp = { g with v := t.grp.v, s := t.grp.s, pcs := t.grp.pcs }
        ∧ (∀ r, r ∉ lastV → t.grp.getV r = g.getV r) ∧ (∀ r, r ≠ d → r ∉ lastS → t.grp.getS r = g.getS r)
        ∧ t.grp.getS d = if d.val = 63 then 0 else x) := by
  obtain ⟨t, ends, ⟨only, moved, frame, keepsV, keepsS⟩, result⟩ := h
  rw [State.grp_setGrp] at moved frame keepsV keepsS
  refine ⟨t, ends, (OnlyGroup.setGrp s g).trans only, fun l hl => ?_, frame, keepsV, keepsS, result⟩
  rw [moved l hl, Group.issuing_congr pcs active, Group.pc_congr pcs active, Group.lanePc, Group.lanePc, pcs]

/-! ### Moves from lanes to a uniform register (R117 to R119) -/

section
variable (d : SReg) (a : VReg) (n : Fin 32) (y : Bool) (s : State)

theorem vget_result : UniformResult s (exec (.vget d a n y) s) d (marked [(y, a)]) [] ((s.grp.lane a n.val).setWidth 64) :=
  laneToUni_result s y a d _

theorem ballot_result : UniformResult s (exec (.ballot d a n y) s) d (marked [(y, a)]) []
    ((mergeBits s.grp.issuers (fun l => (s.grp.lane a l).getLsbD n.val) 0).setWidth 64) :=
  laneToUni_result s y a d _

/-- Bit `i` of a ballot is that of lane `i` if the lane issues, and 0 if it does not or if there is no such lane. -/
theorem ballot_bit (g : Group) (f : Nat → Bool) {i : Nat} (hi : i < 64) :
    ((mergeBits g.issuers f 0).setWidth 64).getLsbD i = (decide (i < 32) && g.issuing i && f i) := by
  rw [BitVec.getLsbD_setWidth, decide_eq_true hi, Bool.true_and]
  by_cases h : i < 32
  · rw [mergeBits_bit _ _ _ _ h, g.contains_issuers i h, decide_eq_true h, Bool.true_and]
    cases g.issuing i
    · exact BitVec.getLsbD_zero
    · rfl
  · rw [BitVec.getLsbD_of_ge _ _ (Nat.le_of_not_lt h), decide_eq_false h]
    rfl

/-- An integer reduction leaves its elements joined in ascending lane order, widened by `x`. -/
theorem redl_result (f : Word → Word → Word) (x : Word → DWord) :
    UniformResult s (.next (s.redl d a y f x)) d (marked [(y, a)]) [] (x (joinLanes f (s.grp.lane a) s.grp.issuers)) := by
  rw [← lastStep_intScan f _ s.grp.issuers_ascending]
  exact laneToUni_result s y a d _

theorem redlAddI32_result : UniformResult s (exec (.redlAddI32 d a y) s) d (marked [(y, a)]) []
    ((s.grp.issuers.foldl (fun r l => r + s.grp.lane a l) 0).signExtend 64) := by
  rw [← joinLanes_add]
  exact redl_result d a y s _ sext64

theorem redlMinI32_result : UniformResult s (exec (.redlMinI32 d a y) s) d (marked [(y, a)]) []
    ((joinLanes sMin (s.grp.lane a) s.grp.issuers).signExtend 64) :=
  redl_result d a y s sMin sext64

theorem redlMaxI32_result : UniformResult s (exec (.redlMaxI32 d a y) s) d (marked [(y, a)]) []
    ((joinLanes sMax (s.grp.lane a) s.grp.issuers).signExtend 64) :=
  redl_result d a y s sMax sext64

theorem redlAnd_result (some_issue : s.grp.issuers ≠ []) : UniformResult s (exec (.redlAnd d a y) s) d (marked [(y, a)]) []
    ((s.grp.issuers.foldl (fun r l => r &&& s.grp.lane a l) 0xFFFFFFFF).setWidth 64) := by
  rw [← joinLanes_eq_foldl (f := fun r x => r &&& x) (e := 0xFFFFFFFF) (fun _ => BitVec.allOnes_and) _
    fun none_issues => absurd none_issues some_issue]
  exact redl_result d a y s _ _

theorem redlOr_result : UniformResult s (exec (.redlOr d a y) s) d (marked [(y, a)]) []
    ((s.grp.issuers.foldl (fun r l => r ||| s.grp.lane a l) 0).setWidth 64) := by
  rw [← joinLanes_eq_foldl (f := fun r x => r ||| x) (e := 0) (fun _ => BitVec.zero_or) _ fun _ => rfl]
  exact redl_result d a y s _ _

theorem elect_result : UniformResult s (exec (.elect d) s) d [] [] (BitVec.ofNat 64 (s.grp.issuers.headD 0)) :=
  uniOp_result s [] d _

/-! ### The FP32 sum (R100, R119) -/

/-- The steps of the FP32 sum over the issuing lanes. -/
abbrev sumSteps (g : Group) (a : VReg) : List (Nat × Word × Flags) := g.sumScan (g.lane a) g.issuers

theorem sumSteps_distinct (g : Group) : ((sumSteps g a).map (·.1)).Nodup := by
  rw [sumScan_lanes]
  exact g.issuers_ascending.imp Nat.ne_of_lt

/-- The flags of the steps, each in the lane whose element it adds. -/
theorem sumSteps_flags (g : Group) :
    (sumSteps g a).map (fun p => (p.1, p.2.2)) = g.issuers.map (fun l => (l, (scanAt l (sumSteps g a)).2)) := by
  have steps_eq : sumSteps g a = g.issuers.map (fun l => (l, scanAt l (sumSteps g a))) :=
    (eq_map_scanAt (sumSteps_distinct a g)).trans (by rw [sumScan_lanes])
  exact (congrArg (List.map fun p => (p.1, p.2.2)) steps_eq).trans List.map_map

/-- REDL.add.f32 leaves the last step of its sum, raises the flags of every step and keeps the rest of the group. -/
theorem redlAddF32_result : Answers (exec (.redlAddF32 d a y) s) (fun t =>
    OnlyGroup s t ∧ PcsAdvance s.grp t.grp
      ∧ t.grp = { s.grp with v := t.grp.v, s := t.grp.s, pcs := t.grp.pcs, fpsr := t.grp.fpsr, fpw := t.grp.fpw }
      ∧ (∀ r, r ∉ marked [(y, a)] → t.grp.getV r = s.grp.getV r) ∧ (∀ r, r ≠ d → t.grp.getS r = s.grp.getS r)
      ∧ (t.grp.getS d = if d.val = 63 then 0 else (lastStep (sumSteps s.grp a)).setWidth 64)
      ∧ FlagsRaised s.grp t.grp s.grp.issuers (fun l => (scanAt l (sumSteps s.grp a)).2)) := by
  have written : UniformResult (s.setGrp (s.grp.raiseFlags s.grp.pc.toNat
      (s.grp.issuers.map (fun l => (l, (scanAt l (sumSteps s.grp a)).2))))) (exec (.redlAddF32 d a y) s) d
      (marked [(y, a)]) [] ((lastStep (sumSteps s.grp a)).setWidth 64) := by
    rw [← sumSteps_flags]
    exact laneToUni_result _ y a d _
  obtain ⟨t, ends, only, moved, rest, keepsV, keepsS, result⟩ :=
    written.afterGrp (by rw [raiseFlags_frame]) (by rw [raiseFlags_frame])
  refine ⟨t, ends, only, moved, ?_, fun r hr => ?_, fun r hr => ?_, result, fun i hi => ?_⟩
  · rw [rest, raiseFlags_frame]
  · rw [keepsV r hr, getV_raiseFlags]
  · rw [keepsS r hr List.not_mem_nil, getS_raiseFlags]
  · rw [rest]
    exact raiseFlags_raised _ _ _ _ i hi

/-- LSCAN.add.f32 over the issuing lanes leaves in each of them its step of the sum, and raises the flags of every step. -/
theorem lscanAddF32_result (e : VReg) : Answers (exec (.lscanAddF32 e a false 0) s) (fun u =>
    (∀ l ∈ s.grp.issuers, u.grp.lane e l = (scanAt l (sumSteps s.grp a)).1)
      ∧ FlagsRaised s.grp u.grp s.grp.issuers (fun l => (scanAt l (sumSteps s.grp a)).2)) := by
  obtain ⟨u, ends, ⟨_, _, _, _, _, flags, _⟩, written⟩ :=
    laneOpFp_result s 0 (marked [(false, a)]) e (fun g l => scanAt l (g.sumScan (g.lane a) (g.actors 0)))
  rw [Group.actors_zero] at flags written
  refine ⟨u, ends, fun l hl => (written l (Group.mem_issuers.mp hl).1).1 ?_, flags⟩
  rw [← Group.actors_zero] at hl
  exact (Group.mem_actors.mp hl).2

end

/-- The same flags raised in the same lanes leave the same sticky flags. -/
theorem FlagsRaised.fpsr_eq {g h k : Group} {m : List Nat} {f : Nat → Flags} (hh : FlagsRaised g h m f)
    (hk : FlagsRaised g k m f) : h.fpsr = k.fpsr :=
  BitVec.eq_of_getLsbD_eq fun i hi => (hh i hi).trans (hk i hi).symm

/-- REDL.add.f32 leaves what LSCAN.add.f32 leaves in the highest issuing lane, and the same flags. -/
theorem redlAddF32_agrees_lscanAddF32 (a e : VReg) (s : State) {l : Nat} (last : s.grp.issuers.getLast? = some l)
    {t u : State}
    (flags : FlagsRaised s.grp t.grp s.grp.issuers (fun l => (scanAt l (sumSteps s.grp a)).2))
    (scan : exec (.lscanAddF32 e a false 0) s = .next u) :
    lastStep (sumSteps s.grp a) = u.grp.lane e l ∧ t.grp.fpsr = u.grp.fpsr := by
  obtain ⟨u', ends, elements, flags'⟩ := lscanAddF32_result a s e
  obtain rfl : u' = u := Host.Outcome.next.inj (ends.symm.trans scan)
  have highest : ((sumSteps s.grp a).map (·.1)).getLast? = some l := by rw [sumScan_lanes, last]
  exact ⟨(lastStep_eq_scanAt (sumSteps_distinct a s.grp) highest).trans (elements l (List.mem_of_getLast? last)).symm,
    flags.fpsr_eq flags'⟩

/-! ### RNXT (R145) -/

theorem rnxt_result (d : SReg) (s : State) : Answers (exec (.rnxt d) s) (fun t =>
    OnlyGroup s t ∧ PcsAdvance s.grp t.grp
      ∧ t.grp = { s.grp with s := t.grp.s, gen := genStep s.grp.gen, pcs := t.grp.pcs }
      ∧ (∀ r, r ≠ d → t.grp.getS r = s.grp.getS r)
      ∧ t.grp.getS d = if d.val = 63 then 0 else (genOut (genStep s.grp.gen)).setWidth 64) := by
  refine ⟨_, rfl, (OnlyGroup.setGrp _ _).trans (OnlyGroup.advance _), fun l hl => ?_, ?_, fun r hr => ?_, ?_⟩ <;>
    rw [State.grp_advance, State.grp_setGrp]
  · exact Group.lanePc_advance_congr (by rw [Group.setS_frame]) (by rw [Group.setS_frame]) l hl
  · rw [Group.advance_frame, Group.setS_frame]
  · exact Group.getS_setS_ne _ _ hr
  · rw [Group.getS_advance, Group.getS_setS, if_pos rfl]

end Sys2Proof.Claims

namespace Sys2Proof

/-! ### The words of BALLOT and RNXT (R46, R118, R145) -/

theorem decodeWord_ballot (d : SReg) (a : VReg) (n : Fin 32) (y : Bool) :
    decodeWord (0xA2000000 + d.val * 2 ^ 19 + a.val * 2 ^ 12 + n.val * 2 ^ 7 + y.toNat * 2 ^ 6) = .ok (.ballot d a n y) := by
  generalize hw : 0xA2000000 + d.val * 2 ^ 19 + a.val * 2 ^ 12 + n.val * 2 ^ 7 + y.toNat * 2 ^ 6 = w
  have d_lt := d.isLt
  have a_lt := a.isLt
  have n_lt := n.isLt
  have y_lt := y.toNat_lt
  have form : field w 31 1 = 1 := by rw [field]; omega
  have major : field w 25 6 = 17 := by rw [field]; omega
  have reserved : field w 0 6 = 0 := by rw [field]; omega
  have hd : sregAt w 19 = d := Fin.ext (by simp only [sregAt, field]; omega)
  have ha : vregAt w 12 = a := Fin.ext (by simp only [vregAt, field]; omega)
  have hn : fin32At w 7 = n := Fin.ext (by simp only [fin32At, field]; omega)
  have hy : flagAt w 6 = y := flagAt_eq (by rw [field]; omega)
  rw [decodeWord, form, if_neg (by decide), major, decodeU, if_pos reserved, hd, ha, hn, hy]
  rfl

theorem decodeWord_rnxt (d : SReg) : decodeWord (0xD4000000 + d.val * 2 ^ 19) = .ok (.rnxt d) := by
  generalize hw : 0xD4000000 + d.val * 2 ^ 19 = w
  have d_lt := d.isLt
  have form : field w 31 1 = 1 := by rw [field]; omega
  have major : field w 25 6 = 42 := by rw [field]; omega
  have reserved : field w 0 19 = 0 := by rw [field]; omega
  have hd : sregAt w 19 = d := Fin.ext (by simp only [sregAt, field]; omega)
  rw [decodeWord, form, if_neg (by decide), major, decodeU, if_pos reserved, hd]
  rfl

end Sys2Proof

open Sys2Proof.Machine Sys2Proof.Claims

/-- Settles O11: each move reads the group as it issues; the last step of a reduction joins the elements of every issuing
lane, and is the step that LSCAN.add.f32 leaves in the highest of them. -/
theorem Sys2Proof.Claims.lanesToUniform : Obligations.LanesToUniform := by
  constructor
  · intro d a n y s
    refine ⟨vget_result d a n y s, ⟨_, ballot_result d a n y s, fun i hi => ballot_bit s.grp _ hi⟩,
      Sys2Proof.decodeWord_ballot d a n y, redlAddI32_result d a y s, fun some_issue => ?_, redlOr_result d a y s⟩
    obtain ⟨least, below⟩ := joinLanes_sMin (s.grp.lane a) some_issue
    obtain ⟨greatest, above⟩ := joinLanes_sMax (s.grp.lane a) some_issue
    exact ⟨⟨_, redlMinI32_result d a y s, least, below⟩, ⟨_, redlMaxI32_result d a y s, greatest, above⟩,
      redlAnd_result d a y s some_issue, elect_result d s⟩
  · intro d a y s l last
    obtain ⟨t, ends, only, moved, rest, keepsV, keepsS, result, flags⟩ := redlAddF32_result d a y s
    refine ⟨t, ends, only, moved, rest, keepsV, keepsS, fun e u scan => ?_⟩
    obtain ⟨element, fpsr⟩ := redlAddF32_agrees_lscanAddF32 a e s last flags scan
    exact ⟨by rw [result, element], fpsr⟩

/-- Settles O13: RNXT is a uniform write of a word of the stepped generator. -/
theorem Sys2Proof.Claims.generatorStep : Obligations.GeneratorStep := by
  intro d s
  have stepped := rnxt_result d s
  rw [genOut_setWidth, genStep_eq] at stepped
  exact ⟨Sys2Proof.decodeWord_rnxt d, stepped⟩

end
